-- ==== Sys2Proof/Word.lean ====
section
/-!
DEFINITION. The word types of Nimix and the plain carrier of every sparse store.
-/
namespace Sys2Proof

/-- A scalar or address register (06 R93). -/
abbrev Word := BitVec 64

/-- One byte of storage. -/
abbrev Byte := BitVec 8

/-- An operand-file register, a main-file row, a pattern or an A-stage entry (07 R119). -/
abbrev VReg := BitVec 1024

/-- A lane mask k0-k15: bit b belongs to byte b of a vector (07 R119). -/
abbrev KMask := BitVec 128

/-- One row of an accumulator tile: 192 elements of 64 bits (08 R145). -/
abbrev TRow := BitVec 12288

/-- Sparse store: key and value pairs, keys strictly rising. Key order, and the absence of entries
equal to the default where a store has one, make equal stores equal lists. -/
abbrev PMap (α : Type) := List (Nat × α)

/-- A vector clock or stamp: eight 32-bit entries, one per virtual die (11 R196); an unlisted entry is zero. -/
abbrev Clock := PMap (BitVec 32)

end Sys2Proof
end

