-- ==== Sys2Proof/Config.lean ====
section
/-!
DEFINITION. What an implementation fixes and the spec leaves open: free values (no body, so no proof can
use one), and the constants of the board and of the firmware that a log entry names.
-/
namespace Sys2Proof.Config

/-- Contents of an accumulator tile row that nothing has written since task entry (08 R145). UNVERIFIED free value, log 3. -/
opaque freeTileRow : Nat → Nat → TRow

/-- Contents of a main-file row that nothing has written since task entry (14 R256). UNVERIFIED free value, log 3. -/
opaque freeMainRow : Nat → Nat → VReg

/-- An A-stage entry at or above the depth D (08 R157). UNVERIFIED free value, log 3. -/
opaque freeStage : Nat → Nat → VReg

/-- Readings of a telemetry sample: power and current, junction and clock (26 R403). UNVERIFIED free value, log 3. -/
opaque freeTelemetry : Nat → Word × Word

/-- How many pages of 4 KiB a checkpoint had written when the host link was lost (26 R404). UNVERIFIED free value, log 14. -/
opaque freeProgress : Nat → Nat

/-- Firmware version word of an image (23 R371): the values belong to each release. UNVERIFIED free value, log 16. -/
opaque imageVersion : List Byte → Word

/-- Whether the signature of an image verifies (26 R396). UNVERIFIED free value, log 16. -/
opaque imageVerifies : List Byte → Bool

/-- SHA3-512 digest (26 R400, R401), taken as an unknown function. UNVERIFIED free value, log 16. -/
opaque sha3 : List Byte → BitVec 512

/-- ML-DSA-87 signature of the security controller (26 R401). UNVERIFIED free value, log 16. -/
opaque sign : List Byte → List Byte

/-- Host page of 4 KiB that PCIe ATS gives for a page that a function asks for (21 R345). UNVERIFIED free value, log 15. -/
opaque atsMap : Nat → Nat → Nat

/-- PWRLIM.LIM that firmware loads (26 R402: the value fused for the board). DESIGN CHOICE, log 9. -/
def boardLim : BitVec 8 := 20

/-- MODID that firmware loads from the straps (18 R406). DESIGN CHOICE, log 9. -/
def boardModid : BitVec 11 := 0

/-- Part number and revision word of the module (00 R1), to which the spec gives no value. UNVERIFIED free value, log 16. -/
opaque partNumber : Word

/-- Bits of precision below the binary point kept by the special functions before the one rounding (07 R132). DEDUCED, log 13. -/
def specialBits : Nat := 400

end Sys2Proof.Config
end

