-- ==== Sys2Proof/Machine/Store.lean ====
section
/-!
DEFINITION. Sparse stores in canonical form: partial maps (`look`, `put`, `del`) and total maps
with a default (`rd`, `wr`), over strictly rising keys.
-/
namespace Sys2Proof.Machine.Store

variable {α : Type}

/-- The entry at key `k`. -/
def look : PMap α → Nat → Option α
  | [], _ => none
  | (j, x) :: m, k => if k = j then some x else look m k

/-- Puts `x` at key `k`, keeping the keys rising. -/
def put : PMap α → Nat → α → PMap α
  | [], k, x => [(k, x)]
  | (j, y) :: m, k, x =>
    if k < j then (k, x) :: (j, y) :: m
    else if k = j then (k, x) :: m
    else (j, y) :: put m k x

/-- Removes every entry at key `k`. -/
def del : PMap α → Nat → PMap α
  | [], _ => []
  | (j, y) :: m, k => if k = j then del m k else (j, y) :: del m k

/-- Value at `k` of a total map whose unlisted keys hold `d`. -/
def rd (d : α) (m : PMap α) (k : Nat) : α := (look m k).getD d

/-- Sets key `k` of a total map: writing the default removes the entry. -/
def wr [DecidableEq α] (d : α) (m : PMap α) (k : Nat) (x : α) : PMap α :=
  if x = d then del m k else put m k x

/-- Every key of `m` lies above `b`. -/
def above : Nat → PMap α → Bool
  | _, [] => true
  | b, (j, _) :: m => decide (b < j) && above j m

/-- Keys strictly rising. -/
def rising : PMap α → Bool
  | [] => true
  | (j, _) :: m => above j m

/-- Canonical form of a total map: keys rising and no entry equal to the default. -/
def canon [DecidableEq α] (d : α) (m : PMap α) : Bool :=
  rising m && m.all (fun e => decide (e.2 ≠ d))

/-- Removes every entry whose key fails `keep`. -/
def restrict (keep : Nat → Bool) (m : PMap α) : PMap α := m.filter (fun e => keep e.1)

/-- The values of a store in key order. -/
def vals (m : PMap α) : List α := m.map Prod.snd

/-- Applies `f` to every value of the store. -/
def mapVals (f : Nat → α → α) (m : PMap α) : PMap α := m.map (fun e => (e.1, f e.1 e.2))

end Sys2Proof.Machine.Store
end

