-- ==== Sys2Proof/Syntax.lean ====
section
/-!
DEFINITION. The steps of the machine: one constructor for each row of the opcode table. The first 227 are
the slot words of Nimix, 19 more the operations of a sett, the last 86 the steps that no word encodes (forms with no field stand before these).
An immediate holds the field together with its lend (02 R34); `bank` is the bank bit (02 R33).
-/
namespace Sys2Proof

/-- Vector widths (02 R35). -/
inductive Width where | w256 | w512 | w1024
  deriving DecidableEq, Repr

/-- Element types of the vector forms (03 R57). -/
inductive ETy where | i8 | i16 | i32 | i64 | n8 | n16 | n32 | n64 | f8e4 | f8e5 | f16 | bf16 | f32 | t5
  deriving DecidableEq, Repr

/-- Condition codes (03 R50). -/
inductive Cond where | eq | ne | lt | le | gt | ge | ltn | len | gtn | gen
  deriving DecidableEq, Repr

/-- Rounding modes (05 R81). -/
inductive RMode where | rne | rtz | rdn | rup
  deriving DecidableEq, Repr

/-- Window codes (03 R51). -/
inductive Window where | local_ | peer | shared | device | fabric
  deriving DecidableEq, Repr

/-- Sizes and extensions of LD, LDL and RLD (10 R180). -/
inductive LdTy where | i8 | i16 | i32 | i64 | n8 | n16 | n32
  deriving DecidableEq, Repr

/-- Sizes of ST and RST, and element sizes of the strided and indexed forms (10 R180, R182). -/
inductive StSz where | b8 | b16 | b32 | b64
  deriving DecidableEq, Repr

/-- Operations of VBUPD (12 R230). -/
inductive BOp where | addI32 | addF32 | maxI32 | orN32
  deriving DecidableEq, Repr

/-- Matrix formats: the TYP codes (03 R61); `cur` is the entry in force. -/
inductive MTyp where | cur | f8e4 | f8e5 | bf16 | f16 | i8 | t5 | f32 | i32 | i64
  deriving DecidableEq, Repr

/-- Agent scopes of FENCE (11 R203). -/
inductive Scope where | context | core | die | module | fabric
  deriving DecidableEq, Repr

/-- Engines of the job forms (15 R272). -/
inductive Eng where | cpy | gath | scat | col
  deriving DecidableEq, Repr

/-- Events that TRWAIT and CLEV wait for (15 R280, R286). -/
inductive TrEv where | srcfree | localdone | alldone
  deriving DecidableEq, Repr

/-- Special registers (03 R52). -/
inductive SReg where
  | tilex | tiley | tilez | tilen | lnchid | vdie | core | ctx | vf | cycle | cycleG | astat | peererr
  | trappc | trapcode | trapmask | stoprec | fmtidx | slackleft | pdie
  deriving DecidableEq, Repr

/-- Registers whose write has no behaviour of its own (00 R7): a queue's QCTL and QSTAT, SLOAD0, a link's LSTAT. -/
inductive HostReg where
  | qctl (fn q : Nat) | qstat (fn q : Nat) | sload0 | lstat (link : Nat)
  deriving DecidableEq, Repr

/-- Where a soft error is detected (23 R365): a byte of storage, a word of an object's copy, or a register, row or tile
of a context. -/
inductive EccLoc where
  | store (pa : Nat) | copy (fn idx vdie off : Nat) | operand (cx n : Nat) | mainRow (cx row : Nat) | tile (cx z : Nat)
  | landing (cx slot : Nat) | scalar (cx n : Nat)
  deriving DecidableEq, Repr

/-- One step of the machine. -/
inductive Instr where
  /-- ADD (R94): sd := sa + sb, wrapping. -/
  | add (d : BitVec 6) (a : BitVec 6) (b : BitVec 6)
  /-- SUB (R94): sd := sa - sb, wrapping. -/
  | sub (d : BitVec 6) (a : BitVec 6) (b : BitVec 6)
  /-- MUL (R94): sd := low 64 bits of sa x sb. -/
  | mul (d : BitVec 6) (a : BitVec 6) (b : BitVec 6)
  /-- MULH (R94): sd := high 64 bits of the signed product. -/
  | mulh (d : BitVec 6) (a : BitVec 6) (b : BitVec 6)
  /-- MULHN (R94): sd := high 64 bits of the natural product. -/
  | mulhn (d : BitVec 6) (a : BitVec 6) (b : BitVec 6)
  /-- DIV (R95): Signed quotient toward zero, with fixed results for borderline cases. -/
  | div (d : BitVec 6) (a : BitVec 6) (b : BitVec 6)
  /-- DIVN (R95): Natural quotient. -/
  | divn (d : BitVec 6) (a : BitVec 6) (b : BitVec 6)
  /-- REM (R95): Signed remainder with the sign of the dividend. -/
  | rem (d : BitVec 6) (a : BitVec 6) (b : BitVec 6)
  /-- REMN (R95): Natural remainder. -/
  | remn (d : BitVec 6) (a : BitVec 6) (b : BitVec 6)
  /-- NEG (R94): sd := 0 - sa. -/
  | neg (d : BitVec 6) (a : BitVec 6)
  /-- ABS (R94): sd := absolute value of sa, wrapping. -/
  | abs (d : BitVec 6) (a : BitVec 6)
  /-- MIN (R94): Signed minimum. -/
  | min (d : BitVec 6) (a : BitVec 6) (b : BitVec 6)
  /-- MAX (R94): Signed maximum. -/
  | max (d : BitVec 6) (a : BitVec 6) (b : BitVec 6)
  /-- MINN (R94): Natural minimum. -/
  | minn (d : BitVec 6) (a : BitVec 6) (b : BitVec 6)
  /-- MAXN (R94): Natural maximum. -/
  | maxn (d : BitVec 6) (a : BitVec 6) (b : BitVec 6)
  /-- AND (R96): Bitwise AND. -/
  | and (d : BitVec 6) (a : BitVec 6) (b : BitVec 6)
  /-- OR (R96): Bitwise OR. -/
  | or (d : BitVec 6) (a : BitVec 6) (b : BitVec 6)
  /-- XOR (R96): Bitwise XOR. -/
  | xor (d : BitVec 6) (a : BitVec 6) (b : BitVec 6)
  /-- ANDN (R96): sa AND NOT sb. -/
  | andn (d : BitVec 6) (a : BitVec 6) (b : BitVec 6)
  /-- ORN (R96): sa OR NOT sb. -/
  | orn (d : BitVec 6) (a : BitVec 6) (b : BitVec 6)
  /-- SHL (R96): Left shift by sb; zero at 64 or more. -/
  | shl (d : BitVec 6) (a : BitVec 6) (b : BitVec 6)
  /-- SHR (R96): Logical right shift by sb. -/
  | shr (d : BitVec 6) (a : BitVec 6) (b : BitVec 6)
  /-- SRA (R96): Arithmetic right shift by sb. -/
  | sra (d : BitVec 6) (a : BitVec 6) (b : BitVec 6)
  /-- ROTL (R96): Rotate left by sb mod 64. -/
  | rotl (d : BitVec 6) (a : BitVec 6) (b : BitVec 6)
  /-- ROTR (R96): Rotate right by sb mod 64. -/
  | rotr (d : BitVec 6) (a : BitVec 6) (b : BitVec 6)
  /-- CLZ (R96): Count leading zero bits. -/
  | clz (d : BitVec 6) (a : BitVec 6)
  /-- CTZ (R96): Count trailing zero bits. -/
  | ctz (d : BitVec 6) (a : BitVec 6)
  /-- POPC (R96): Count one bits. -/
  | popc (d : BitVec 6) (a : BitVec 6)
  /-- BREV (R96): Reverse bit order. -/
  | brev (d : BitVec 6) (a : BitVec 6)
  /-- BSWP (R96): Reverse byte order. -/
  | bswp (d : BitVec 6) (a : BitVec 6)
  /-- SEXT (R97): Sign-extend from width sb[7:0]. -/
  | sext (d : BitVec 6) (a : BitVec 6) (b : BitVec 6)
  /-- ZEXT (R97): Zero-extend from width sb[7:0]. -/
  | zext (d : BitVec 6) (a : BitVec 6) (b : BitVec 6)
  /-- BEXT (R97): Extract a bit field given by offset and width. -/
  | bext (d : BitVec 6) (a : BitVec 6) (b : BitVec 6)
  /-- BINS (R97): Insert a bit field into sd. -/
  | bins (d : BitVec 6) (a : BitVec 6) (b : BitVec 6)
  /-- MOV (R96): sd := sa. -/
  | mov (d : BitVec 6) (a : BitVec 6)
  /-- CMP (R100): Sets pd to the truth of a condition on sa and sb. -/
  | cmp (bank : Bool) (c : Cond) (d : BitVec 6) (a : BitVec 6) (b : BitVec 6)
  /-- PAND (R107): Predicate AND. -/
  | pand (bank : Bool) (d : BitVec 6) (a : BitVec 6) (b : BitVec 6)
  /-- POR (R107): Predicate OR. -/
  | por (bank : Bool) (d : BitVec 6) (a : BitVec 6) (b : BitVec 6)
  /-- PXOR (R107): Predicate XOR. -/
  | pxor (bank : Bool) (d : BitVec 6) (a : BitVec 6) (b : BitVec 6)
  /-- PNOT (R107): Predicate NOT. -/
  | pnot (bank : Bool) (d : BitVec 6) (a : BitVec 6)
  /-- PMOV (R107): Predicate copy. -/
  | pmov (bank : Bool) (d : BitVec 6) (a : BitVec 6)
  /-- PSET (R107): pd := sa is nonzero. -/
  | pset (bank : Bool) (d : BitVec 6) (a : BitVec 6)
  /-- PCNT (R107): Counts true predicates from pa to pb. -/
  | pcnt (bank : Bool) (d : BitVec 6) (a : BitVec 6) (b : BitVec 6)
  /-- SEL (R99): sd := sa or sb by predicate selector in FUNC. -/
  | sel (p : BitVec 7) (d : BitVec 6) (a : BitVec 6) (b : BitVec 6)
  /-- ADDA (R102): ad := aa + sb. -/
  | adda (d : BitVec 6) (a : BitVec 6) (b : BitVec 6)
  /-- LEA (R102): ad := aa + sb x scale. -/
  | lea (k : BitVec 3) (d : BitVec 6) (a : BitVec 6) (b : BitVec 6)
  /-- DSLICE (R106): Reads a tensor descriptor and returns a property of this die's share. -/
  | dslice (d : BitVec 6) (a : BitVec 6) (b : BitVec 6)
  /-- ACVT_REL (R104): Converts a generic address to a window-relative form. -/
  | acvtRel (w : Window) (d : BitVec 6) (a : BitVec 6)
  /-- ACVT_GEN (R104): Converts a window-relative address to generic form. -/
  | acvtGen (w : Window) (d : BitVec 6) (a : BitVec 6)
  /-- ATST (R104): Sets pd when the address lies in the window. -/
  | atst (bank : Bool) (w : Window) (d : BitVec 6) (a : BitVec 6)
  /-- SRD (R118): Reads a special register into sd. -/
  | srd (d : BitVec 6) (n : SReg)
  /-- SWR (R118): Writes a special register from sa. -/
  | swr (n : SReg) (a : BitVec 6)
  /-- ADDI (R98): sd := sa + sign-extended immediate. -/
  | addi (d : BitVec 6) (a : BitVec 6) (imm : BitVec 22)
  /-- SUBI (R98): sd := sa - immediate. -/
  | subi (d : BitVec 6) (a : BitVec 6) (imm : BitVec 22)
  /-- ANDI (R98): Bitwise AND with immediate. -/
  | andi (d : BitVec 6) (a : BitVec 6) (imm : BitVec 22)
  /-- ORI (R98): Bitwise OR with zero-extended immediate. -/
  | ori (d : BitVec 6) (a : BitVec 6) (imm : BitVec 22)
  /-- XORI (R98): Bitwise XOR with zero-extended immediate. -/
  | xori (d : BitVec 6) (a : BitVec 6) (imm : BitVec 22)
  /-- SHLI (R98): Left shift by immediate. -/
  | shli (d : BitVec 6) (a : BitVec 6) (n : BitVec 6)
  /-- SHRI (R98): Logical right shift by immediate. -/
  | shri (d : BitVec 6) (a : BitVec 6) (n : BitVec 6)
  /-- SRAI (R98): Arithmetic right shift by immediate. -/
  | srai (d : BitVec 6) (a : BitVec 6) (n : BitVec 6)
  /-- LUI (R98): sd := immediate placed in bits 63:42. -/
  | lui (d : BitVec 6) (imm : BitVec 22)
  /-- MOVI (R98): sd := sign-extended immediate. -/
  | movi (d : BitVec 6) (imm : BitVec 22)
  /-- CMPI (R101): Compares sa with an immediate into pd. -/
  | cmpi (c : Cond) (d : BitVec 6) (a : BitVec 6) (imm : BitVec 18)
  /-- BR (R108): Branches by a bundle offset. -/
  | br (off : BitVec 24)
  /-- BRI (R108): Branches to the address in sa. -/
  | bri (a : BitVec 6)
  /-- CALL (R108): Branches by offset and links into s63. -/
  | call (off : BitVec 24)
  /-- RET (R108): Returns to the address in sa. -/
  | ret (a : BitVec 6)
  /-- LOOP (R111): Opens a hardware loop on a counter with a trip count from sa. -/
  | loop (n : BitVec 2) (a : BitVec 6) (len : BitVec 6)
  /-- LBRK (R113): Ends loop lcN and every loop inside it. -/
  | lbrk (n : BitVec 2)
  /-- LD (R180): Scalar load with sign or zero extension. -/
  | ld (sz : LdTy) (d : BitVec 6) (aa : BitVec 5) (am : Bool) (off : BitVec 18)
  /-- ST (R180): Scalar store of 8 to 64 bits. -/
  | st (sz : StSz) (d : BitVec 6) (aa : BitVec 5) (am : Bool) (off : BitVec 18)
  /-- LDL (R185): Timed scalar landing load into a landing slot. -/
  | ldl (sz : LdTy) (n : BitVec 6) (aa : BitVec 5) (am : Bool) (cyc : BitVec 10)
  /-- RLD (R190): Remote scalar load that parks the strand. -/
  | rld (sz : LdTy) (d : BitVec 6) (aa : BitVec 5) (am : Bool) (off : BitVec 18)
  /-- RLDN (R190): Remote 1,024-bit load into a v register that parks the strand. -/
  | rldn (d : BitVec 6) (aa : BitVec 5) (am : Bool) (off : BitVec 18)
  /-- RST (R191): Tagged remote store applied once. -/
  | rst (sz : StSz) (d : BitVec 6) (aa : BitVec 5) (am : Bool) (off : BitVec 18)
  /-- RRED (R192): Tagged reduce-store adding at the home once per tag. -/
  | rred (fl : Bool) (d : BitVec 6) (aa : BitVec 5) (am : Bool) (off : BitVec 18)
  /-- VLD (R181): Vector load of width W. -/
  | vld (w : Width) (d : BitVec 6) (aa : BitVec 5) (am : Bool) (off : BitVec 18)
  /-- VST (R181): Vector store of width W. -/
  | vst (w : Width) (d : BitVec 6) (aa : BitVec 5) (am : Bool) (off : BitVec 18)
  /-- VLDL (R185): Timed vector landing load. -/
  | vldl (w : Width) (n : BitVec 6) (aa : BitVec 5) (am : Bool) (cyc : BitVec 10)
  /-- VLDS (R182): Strided vector load. -/
  | vlds (e : StSz) (d : BitVec 6) (aa : BitVec 5) (str : BitVec 18)
  /-- VLDX (R182): Indexed vector load. -/
  | vldx (e : StSz) (d : BitVec 6) (aa : BitVec 5) (vi : BitVec 5)
  /-- VSTS (R182): Strided vector store. -/
  | vsts (e : StSz) (d : BitVec 6) (aa : BitVec 5) (str : BitVec 18)
  /-- VSTX (R182): Indexed vector store. -/
  | vstx (e : StSz) (d : BitVec 6) (aa : BitVec 5) (vi : BitVec 5)
  /-- VAADD (R229): Vector atomic add, one atomic per element. -/
  | vaadd (e64 : Bool) (w1024 : Bool) (d : BitVec 6) (aa : BitVec 5) (am : Bool) (off : BitVec 18)
  /-- VAOR (R229): Vector atomic OR. -/
  | vaor (e64 : Bool) (w1024 : Bool) (d : BitVec 6) (aa : BitVec 5) (am : Bool) (off : BitVec 18)
  /-- VAMAX (R229): Vector atomic signed maximum. -/
  | vamax (e64 : Bool) (w1024 : Bool) (d : BitVec 6) (aa : BitVec 5) (am : Bool) (off : BitVec 18)
  /-- VAFADD (R229): Vector atomic FP32 add. -/
  | vafadd (w1024 : Bool) (d : BitVec 6) (aa : BitVec 5) (am : Bool) (off : BitVec 18)
  /-- VBUPD (R230): Bank update of one word in each of n consecutive shared-memory banks. -/
  | vbupd (op : BOp) (w : Width) (d : BitVec 6) (aa : BitVec 5) (am : Bool) (off : BitVec 18)
  /-- AADD (R224): Atomic add returning the old value. -/
  | aadd (e64 : Bool) (d : BitVec 6) (aa : BitVec 5) (am : Bool) (off : BitVec 18)
  /-- AMIN (R224): Atomic signed minimum. -/
  | amin (e64 : Bool) (d : BitVec 6) (aa : BitVec 5) (am : Bool) (off : BitVec 18)
  /-- AMAX (R224): Atomic signed maximum. -/
  | amax (e64 : Bool) (d : BitVec 6) (aa : BitVec 5) (am : Bool) (off : BitVec 18)
  /-- AMINN (R224): Atomic natural minimum. -/
  | aminn (e64 : Bool) (d : BitVec 6) (aa : BitVec 5) (am : Bool) (off : BitVec 18)
  /-- AMAXN (R224): Atomic natural maximum. -/
  | amaxn (e64 : Bool) (d : BitVec 6) (aa : BitVec 5) (am : Bool) (off : BitVec 18)
  /-- AAND (R224): Atomic AND. -/
  | aand (e64 : Bool) (d : BitVec 6) (aa : BitVec 5) (am : Bool) (off : BitVec 18)
  /-- AOR (R224): Atomic OR. -/
  | aor (e64 : Bool) (d : BitVec 6) (aa : BitVec 5) (am : Bool) (off : BitVec 18)
  /-- AXOR (R224): Atomic XOR. -/
  | axor (e64 : Bool) (d : BitVec 6) (aa : BitVec 5) (am : Bool) (off : BitVec 18)
  /-- AXCHG (R224): Atomic exchange. -/
  | axchg (e64 : Bool) (d : BitVec 6) (aa : BitVec 5) (am : Bool) (off : BitVec 18)
  /-- ACAS (R225): Atomic compare-and-swap on an even register pair. -/
  | acas (e64 : Bool) (d : BitVec 6) (aa : BitVec 5) (am : Bool) (off : BitVec 18)
  /-- AFADD (R226): Atomic FP32 add at the bank ALU. -/
  | afadd (d : BitVec 6) (aa : BitVec 5) (am : Bool) (off : BitVec 18)
  /-- AFMIN (R227): Atomic FP32 minimum. -/
  | afmin (d : BitVec 6) (aa : BitVec 5) (am : Bool) (off : BitVec 18)
  /-- AFMAX (R227): Atomic FP32 maximum. -/
  | afmax (d : BitVec 6) (aa : BitVec 5) (am : Bool) (off : BitVec 18)
  /-- VADD (R124): Elementwise add. -/
  | vadd (w : Width) (d : BitVec 5) (a : BitVec 5) (b : BitVec 5) (la : Bool) (lb : Bool) (t : ETy)
  /-- VSUB (R124): Elementwise subtract. -/
  | vsub (w : Width) (d : BitVec 5) (a : BitVec 5) (b : BitVec 5) (la : Bool) (lb : Bool) (t : ETy)
  /-- VMUL (R124): Elementwise multiply. -/
  | vmul (w : Width) (d : BitVec 5) (a : BitVec 5) (b : BitVec 5) (la : Bool) (lb : Bool) (t : ETy)
  /-- VMULH (R124): Elementwise high half of integer product. -/
  | vmulh (w : Width) (d : BitVec 5) (a : BitVec 5) (b : BitVec 5) (la : Bool) (lb : Bool) (t : ETy)
  /-- VMIN (R124): Elementwise minimum. -/
  | vmin (w : Width) (d : BitVec 5) (a : BitVec 5) (b : BitVec 5) (la : Bool) (lb : Bool) (t : ETy)
  /-- VMAX (R124): Elementwise maximum. -/
  | vmax (w : Width) (d : BitVec 5) (a : BitVec 5) (b : BitVec 5) (la : Bool) (lb : Bool) (t : ETy)
  /-- VABS (R124): Elementwise absolute value. -/
  | vabs (w : Width) (d : BitVec 5) (a : BitVec 5) (la : Bool) (t : ETy)
  /-- VNEG (R124): Elementwise negation. -/
  | vneg (w : Width) (d : BitVec 5) (a : BitVec 5) (la : Bool) (t : ETy)
  /-- VFMA (R124): Fused multiply-add with vd as addend. -/
  | vfma (w : Width) (d : BitVec 5) (a : BitVec 5) (b : BitVec 5) (la : Bool) (lb : Bool) (t : ETy)
  /-- VFMS (R124): Fused multiply-subtract from vd. -/
  | vfms (w : Width) (d : BitVec 5) (a : BitVec 5) (b : BitVec 5) (la : Bool) (lb : Bool) (t : ETy)
  /-- VAND (R126): Bitwise vector AND. -/
  | vand (w : Width) (d : BitVec 5) (a : BitVec 5) (b : BitVec 5) (la : Bool) (lb : Bool)
  /-- VOR (R126): Bitwise vector OR. -/
  | vor (w : Width) (d : BitVec 5) (a : BitVec 5) (b : BitVec 5) (la : Bool) (lb : Bool)
  /-- VXOR (R126): Bitwise vector XOR. -/
  | vxor (w : Width) (d : BitVec 5) (a : BitVec 5) (b : BitVec 5) (la : Bool) (lb : Bool)
  /-- VNOT (R126): Bitwise vector NOT. -/
  | vnot (w : Width) (d : BitVec 5) (a : BitVec 5) (la : Bool)
  /-- VPOPC (R126): Elementwise count of one bits. -/
  | vpopc (w : Width) (d : BitVec 5) (a : BitVec 5) (la : Bool) (t : ETy)
  /-- VCLZ (R126): Elementwise count of leading zeros. -/
  | vclz (w : Width) (d : BitVec 5) (a : BitVec 5) (la : Bool) (t : ETy)
  /-- VSHL (R127): Elementwise left shift. -/
  | vshl (w : Width) (d : BitVec 5) (a : BitVec 5) (b : BitVec 5) (la : Bool) (lb : Bool) (t : ETy)
  /-- VSHR (R127): Elementwise logical right shift. -/
  | vshr (w : Width) (d : BitVec 5) (a : BitVec 5) (b : BitVec 5) (la : Bool) (lb : Bool) (t : ETy)
  /-- VSRA (R127): Elementwise arithmetic right shift. -/
  | vsra (w : Width) (d : BitVec 5) (a : BitVec 5) (b : BitVec 5) (la : Bool) (lb : Bool) (t : ETy)
  /-- VSEL (R127): Bytewise selection under a lane mask. -/
  | vsel (w : Width) (d : BitVec 5) (a : BitVec 5) (b : BitVec 5) (la : Bool) (lb : Bool) (k : BitVec 4)
  /-- VBCAST (R127): Broadcasts element 0 to all elements. -/
  | vbcast (w : Width) (d : BitVec 5) (a : BitVec 5) (la : Bool) (t : ETy)
  /-- VIOTA (R127): Writes each element's index. -/
  | viota (w : Width) (d : BitVec 5) (t : ETy)
  /-- VMOVS (R128): Moves one vector element into a scalar. -/
  | vmovs (w : Width) (d : BitVec 5) (a : BitVec 5) (b : BitVec 5) (la : Bool) (t : ETy)
  /-- VINS (R128): Inserts a scalar into one vector element. -/
  | vins (w : Width) (d : BitVec 5) (a : BitVec 5) (b : BitVec 5) (t : ETy)
  /-- VCMP (R129): Elementwise compare into a lane mask. -/
  | vcmp (c : Cond) (w : Width) (d : BitVec 5) (a : BitVec 5) (b : BitVec 5) (la : Bool) (lb : Bool) (t : ETy)
  /-- VCVT (R130): Converts elements between types. -/
  | vcvt (sat : Bool) (r : RMode) (src : ETy) (w : Width) (d : BitVec 5) (a : BitVec 5) (la : Bool) (t : ETy)
  /-- VRND (R131): Rounds floating elements to integral values. -/
  | vrnd (r : RMode) (w : Width) (d : BitVec 5) (a : BitVec 5) (la : Bool) (t : ETy)
  /-- VRCP (R132): Correctly rounded reciprocal. -/
  | vrcp (w : Width) (d : BitVec 5) (a : BitVec 5) (la : Bool) (t : ETy)
  /-- VRSQ (R132): Correctly rounded reciprocal square root. -/
  | vrsq (w : Width) (d : BitVec 5) (a : BitVec 5) (la : Bool) (t : ETy)
  /-- VSQRT (R132): Correctly rounded square root. -/
  | vsqrt (w : Width) (d : BitVec 5) (a : BitVec 5) (la : Bool) (t : ETy)
  /-- VEXP2 (R132): Correctly rounded 2^x. -/
  | vexp2 (w : Width) (d : BitVec 5) (a : BitVec 5) (la : Bool) (t : ETy)
  /-- VLOG2 (R132): Correctly rounded log2. -/
  | vlog2 (w : Width) (d : BitVec 5) (a : BitVec 5) (la : Bool) (t : ETy)
  /-- VTANH (R132): Correctly rounded tanh. -/
  | vtanh (w : Width) (d : BitVec 5) (a : BitVec 5) (la : Bool) (t : ETy)
  /-- VRSUM (R133): Pairwise-tree sum into element 0. -/
  | vrsum (w : Width) (d : BitVec 5) (a : BitVec 5) (la : Bool) (t : ETy)
  /-- VRMAX (R133): Tree maximum into element 0. -/
  | vrmax (w : Width) (d : BitVec 5) (a : BitVec 5) (la : Bool) (t : ETy)
  /-- VRMIN (R133): Tree minimum into element 0. -/
  | vrmin (w : Width) (d : BitVec 5) (a : BitVec 5) (la : Bool) (t : ETy)
  /-- VSCAN (R133): Left-to-right prefix sum. -/
  | vscan (w : Width) (d : BitVec 5) (a : BitVec 5) (la : Bool) (t : ETy)
  /-- VSHUF (R136): Shuffles 16-bit lanes of va and vb under a pattern. -/
  | vshuf (bank : Bool) (pat : BitVec 5) (w : Width) (d : BitVec 5) (a : BitVec 5) (b : BitVec 5) (la : Bool) (lb : Bool)
  /-- VPACK (R137): Narrows two sources into one destination. -/
  | vpack (sat : Bool) (w : Width) (d : BitVec 5) (a : BitVec 5) (b : BitVec 5) (la : Bool) (lb : Bool) (t : ETy)
  /-- VUNPK (R138): Widens the lower or upper half of a source exactly. -/
  | vunpk (hi : Bool) (src : ETy) (w : Width) (d : BitVec 5) (a : BitVec 5) (la : Bool) (t : ETy)
  /-- VLDM (R140): Loads a main-file row into vd. -/
  | vldm (bank : Bool) (d : BitVec 6) (row : BitVec 14)
  /-- VSTM (R140): Stores va into a main-file row. -/
  | vstm (bank : Bool) (d : BitVec 6) (row : BitVec 14)
  /-- VCLR (R141): Zeroes bits W-1:0 of vd. -/
  | vclr (w : Width) (d : BitVec 5)
  /-- KAND (R142): Lane-mask AND. -/
  | kand (d : BitVec 5) (a : BitVec 5) (b : BitVec 5)
  /-- KOR (R142): Lane-mask OR. -/
  | kor (d : BitVec 5) (a : BitVec 5) (b : BitVec 5)
  /-- KNOT (R142): Lane-mask NOT. -/
  | knot (d : BitVec 5) (a : BitVec 5)
  /-- KMOV (R142): Lane-mask copy. -/
  | kmov (d : BitVec 5) (a : BitVec 5)
  /-- PATLD (R143): Loads a shuffle pattern into a physical pattern entry. -/
  | patld (bank : Bool) (pat : BitVec 5) (a : BitVec 5) (la : Bool)
  /-- MACC (R154): Matrix multiply-accumulate beat into a tile. -/
  | macc (z : BitVec 2) (va : BitVec 5) (typ : MTyp) (aux : BitVec 23)
  /-- MTERN (R156): Ternary x INT8 matrix beat over four activation planes. -/
  | mtern (z : BitVec 2) (va : BitVec 5) (typ : MTyp) (aux : BitVec 23)
  /-- MPUSH (R157): Pushes a vector onto the A-stage. -/
  | mpush (va : BitVec 5)
  /-- MSHIFT (R157): Removes n entries from the A-stage. -/
  | mshift (n : BitVec 2)
  /-- MDRAIN (R161): Converts one tile row and writes it to main-file rows. -/
  | mdrain (z : BitVec 2) (aa : BitVec 5) (typ : MTyp) (row : BitVec 7)
  /-- MDRAIN_Q (R161): Converts one tile row into the core's drain queue. -/
  | mdrainQ (z : BitVec 2) (typ : MTyp) (row : BitVec 7)
  /-- MCLR (R159): Zeroes an accumulator tile. -/
  | mclr (z : BitVec 2)
  /-- MBSEL (R159): Binds an address register as the B-slice base. -/
  | mbsel (aa : BitVec 5)
  /-- VRDZ (R160): Reads 32 tile elements of one row into vd. -/
  | vrdz (z : BitVec 2) (d : BitVec 5) (blk : BitVec 3) (row : BitVec 7)
  /-- FMTLD (R162): Loads and validates a format-table entry. -/
  | fmtld (aa : BitVec 5) (n : BitVec 4)
  /-- FMTSEL (R162): Binds the format-table index to a loop counter. -/
  | fmtsel (base : BitVec 4) (l : BitVec 2)
  /-- FMTRD (R162): Reads a format-table entry into a scalar. -/
  | fmtrd (d : BitVec 5) (n : BitVec 4)
  /-- REPT (R158): Arms a repeat of the next matrix beat. -/
  | rept (x : BitVec 6) (y : BitVec 6) (g : BitVec 2) (n : BitVec 12)
  /-- FENCE (R235): Waits for covered accesses in the storage set and reports FABRIC failures. -/
  | fence (d : BitVec 6) (a : BitVec 6) (sc : Scope) (set : BitVec 6)
  /-- BLK (R231): Holds scratchpad banks for the next n bundles. -/
  | blk (a : BitVec 6) (n : BitVec 6)
  /-- XBEGIN (R233): Opens a locked or elided region. -/
  | xbegin (d : BitVec 6)
  /-- XABORT (R233): Aborts an elided region with a code. -/
  | xabort (c : BitVec 6)
  /-- BARP (R238): Posts the expected byte count of a barrier word. -/
  | barp (src : BitVec 6) (aa : BitVec 6)
  /-- BARA (R238): Adds arrived bytes to a barrier word. -/
  | bara (src : BitVec 6) (aa : BitVec 6)
  /-- BARW (R239): Waits until the barrier phase changes. -/
  | barw (d : BitVec 6) (aa : BitVec 6)
  /-- EVSIG (R240): Increments an event counter of the core. -/
  | evsig (e : BitVec 6)
  /-- EVWAIT (R240): Waits for and decrements an event counter. -/
  | evwait (e : BitVec 6)
  /-- JOBW (R272): Writes a field of an engine shadow set. -/
  | jobw (eng : Eng) (f : BitVec 6) (a : BitVec 6)
  /-- JOBGO (R272): Submits the shadow set as a job card. -/
  | jobgo (eng : Eng) (d : BitVec 6)
  /-- JOBWAIT (R272): Waits until a job has retired. -/
  | jobwait (a : BitVec 6)
  /-- CPY (R272): Reads and submits a copy job card. -/
  | cpy (d : BitVec 6) (aa : BitVec 6)
  /-- GATH (R272): Reads and submits a gather job card. -/
  | gath (d : BitVec 6) (aa : BitVec 6)
  /-- SCAT (R272): Reads and submits a scatter job card. -/
  | scat (d : BitVec 6) (aa : BitVec 6)
  /-- TRMK (R274): Creates a tree object from a descriptor. -/
  | trmk (d : BitVec 6) (aa : BitVec 6)
  /-- TRFREE (R280): Frees a tree once its slots are released. -/
  | trfree (a : BitVec 6)
  /-- TRPOST (R278): Posts a segment to a tree. -/
  | trpost (seg : BitVec 6) (a : BitVec 6)
  /-- TRWAIT (R280): Waits for a tree event of the latest posted segment. -/
  | trwait (a : BitVec 6) (ev : TrEv)
  /-- TRFRZ (R280): Freezes every slot of a tree. -/
  | trfrz (a : BitVec 6)
  /-- TRSAVE (R383): Writes a frozen tree's save block and releases its slots. -/
  | trsave (seg : BitVec 6) (a : BitVec 6)
  /-- TRLOAD (R385): Restores a saved tree or thaws a frozen one. -/
  | trload (seg : BitVec 6) (a : BitVec 6)
  /-- TREDIT (R282): Queues a membership edit at a segment boundary. -/
  | tredit (seg : BitVec 6) (a : BitVec 6)
  /-- TRQ (R281): Returns the tree state word. -/
  | trq (d : BitVec 6) (a : BitVec 6)
  /-- CLNEST (R285): Submits a loop-nest collective and returns its sequence number. -/
  | clnest (d : BitVec 6) (aa : BitVec 6)
  /-- CLABORT (R286): Aborts a loop-nest collective at every rank. -/
  | clabort (a : BitVec 6)
  /-- CLEV (R286): Waits for an event of a loop-nest collective. -/
  | clev (a : BitVec 6) (ev : TrEv)
  /-- LNCH (R258): Reads and submits a launch record without indirect count. -/
  | lnch (d : BitVec 6) (aa : BitVec 6)
  /-- LNCHI (R258): Reads and submits a launch record with indirect count. -/
  | lnchi (d : BitVec 6) (aa : BitVec 6)
  /-- TGDEP (R260): Adds an edge to or releases a held node. -/
  | tgdep (l : BitVec 6) (e : BitVec 6)
  /-- TGWAIT (R258): Waits until a node has retired. -/
  | tgwait (a : BitVec 6)
  /-- SLACK (R265): Sets SLACKLEFT for a slack region. -/
  | slack (n : BitVec 14)
  /-- BREL (R262): Releases claimed scratchpad banks on the core. -/
  | brel (a : BitVec 6)
  /-- BOWN (R262): Waits until the node owns the named banks. -/
  | bown (a : BitVec 6)
  /-- WSPLIT (R261): Asks for a split into the walker's queued range. -/
  | wsplit (d : BitVec 6)
  /-- ROMK (R290): Creates or repairs a replayed object. -/
  | romk (d : BitVec 6) (aa : BitVec 6)
  /-- ROFREE (R298): Frees a replayed object. -/
  | rofree (a : BitVec 6)
  /-- ROCALL (R296): Appends a method call and returns its log position. -/
  | rocall (d : BitVec 6) (a : BitVec 6) (m : BitVec 6)
  /-- ROCALL_W (R296): Appends a call and waits for its result on the local copy. -/
  | rocallW (d : BitVec 6) (a : BitVec 6) (m : BitVec 6)
  /-- RORD (R297): Runs a read-only method on the local copy. -/
  | rord (d : BitVec 6) (a : BitVec 6) (m : BitVec 6)
  /-- ROTRIM (R298): Makes the home collect applied counts at once. -/
  | rotrim (a : BitVec 6)
  /-- ROQ (R299): Returns the object state word. -/
  | roq (d : BitVec 6) (a : BitVec 6)
  /-- RORET (R291): Ends a method with a result. -/
  | roret (a : BitVec 6)
  /-- TRAP (R372): Takes trap 0x0F with a code. -/
  | trap (c : BitVec 6)
  /-- SYSC_VERSION (R371): Returns the firmware version word. `svc` is the service number: 0, or one for which the spec gives no service (R371). -/
  | syscVersion (d : BitVec 6) (a : BitVec 6) (svc : BitVec 14)
  /-- SYSC_MODULE_ID (R371): Returns the module id from MODID. -/
  | syscModuleId (d : BitVec 6) (a : BitVec 6)
  /-- SYSC_MSIX (R371): Sends an MSI-X vector of the issuing function. -/
  | syscMsix (d : BitVec 6) (a : BitVec 6)
  /-- SYSC_LOG (R371): Appends sa to the function's GETLOG entries. -/
  | syscLog (d : BitVec 6) (a : BitVec 6)
  /-- STRD (R373): Reads a word of a stop record. -/
  | strd (d : BitVec 6) (a : BitVec 6)
  /-- TLBI_PAGE (R374): Drops the translation entry for one page. -/
  | tlbiPage (src : BitVec 6) (all : Bool)
  /-- TLBI_ALL (R374): Drops every translation entry of the function. -/
  | tlbiAll (src : BitVec 6) (all : Bool)
  /-- CTXSV (R375): Saves the issuing context into a save area. -/
  | ctxsv (src : BitVec 6)
  /-- CTXLD (R376): Reads, checks and stages a save area for ERET. -/
  | ctxld (src : BitVec 6)
  /-- PEMPT (R378): Posts a pre-emption request to a target context. -/
  | pempt (a : BitVec 6)
  /-- SETT_LDP (R330): Loads a packet word into a sett register. -/
  | settLdp (d : BitVec 3) (w : BitVec 3)
  /-- SETT_LDI (R330): Loads a sign-extended immediate. -/
  | settLdi (d : BitVec 3) (imm : BitVec 17)
  /-- SETT_LDM (R330): Loads a data-window word. -/
  | settLdm (d : BitVec 3) (off : BitVec 9)
  /-- SETT_STM (R330): Stores a data-window word. -/
  | settStm (a : BitVec 3) (off : BitVec 9)
  /-- SETT_ADD (R330): Sett register add. -/
  | settAdd (d : BitVec 3) (a : BitVec 3) (b : BitVec 3)
  /-- SETT_SUB (R330): Sett register subtract. -/
  | settSub (d : BitVec 3) (a : BitVec 3) (b : BitVec 3)
  /-- SETT_AND (R330): Sett register AND. -/
  | settAnd (d : BitVec 3) (a : BitVec 3) (b : BitVec 3)
  /-- SETT_OR (R330): Sett register OR. -/
  | settOr (d : BitVec 3) (a : BitVec 3) (b : BitVec 3)
  /-- SETT_XOR (R330): Sett register XOR. -/
  | settXor (d : BitVec 3) (a : BitVec 3) (b : BitVec 3)
  /-- SETT_SHL (R330): Sett left shift by immediate. -/
  | settShl (d : BitVec 3) (a : BitVec 3) (n : BitVec 6)
  /-- SETT_SHR (R330): Sett right shift by immediate. -/
  | settShr (d : BitVec 3) (a : BitVec 3) (n : BitVec 6)
  /-- SETT_ANDI (R330): Sett AND with zero-extended immediate. -/
  | settAndi (d : BitVec 3) (a : BitVec 3) (imm : BitVec 17)
  /-- SETT_BEQ (R330): Forward branch when equal. -/
  | settBeq (a : BitVec 3) (b : BitVec 3) (f : BitVec 17)
  /-- SETT_BNE (R330): Forward branch when not equal. -/
  | settBne (a : BitVec 3) (b : BitVec 3) (f : BitVec 17)
  /-- SETT_BLTU (R330): Forward branch when below as naturals. -/
  | settBltu (a : BitVec 3) (b : BitVec 3) (f : BitVec 17)
  /-- SETT_REP (R330): Repeats the next len operations n times. -/
  | settRep (n : BitVec 6) (len : BitVec 5)
  /-- SETT_EMIT (R330): Appends a 128-byte record to the chain, optionally patching word 1. -/
  | settEmit (patch : Bool) (k : BitVec 3) (a : BitVec 3) (b : BitVec 3)
  /-- SETT_REJ (R330): Rejects the packet with a code. -/
  | settRej (c : BitVec 7)
  /-- NOP (R94): Slot with no effect. -/
  | nop
  /-- EXIT (R115): Ends the tile task and every loop. -/
  | exit
  /-- YIELD (R116): Lowers the context's merge-stage priority for 64 cycles. -/
  | yield
  /-- PATSW (R143): Inverts the context's PBANK. -/
  | patsw
  /-- XEND (R233): Closes the region, applying buffered stores or releasing the lock. -/
  | xend
  /-- DRAIN_CPL (R194): Waits for copy jobs into LOCAL, PEER or B-slices. -/
  | drainCpl
  /-- DRAIN_CPSH (R194): Waits for copy jobs into SHARED or DEVICE. -/
  | drainCpsh
  /-- DRAIN_GATH (R194): Waits for gather jobs of the core. -/
  | drainGath
  /-- DRAIN_COL (R194): Waits for drain-queue deliveries and collective writes. -/
  | drainCol
  /-- ERET (R377): Clears a halt and reruns restartable tasks, or installs a staged save area. -/
  | eret
  /-- IDLE (R379): Holds the context until an event, request or halt. -/
  | idle
  /-- SETT_END (R330): Ends the packet and passes the chain to Derrick. -/
  | settEnd
  /-- PORTAL_WRITE (R326): A 64-byte Deferrable Memory Write to a queue portal is accepted or answered retry. -/
  | portalWrite (fn : Nat) (q : Nat) (off : Nat) (words : List (BitVec 64))
  /-- PORTAL_POSTED_WRITE (R325): An ordinary posted write to a portal is dropped and counted as rejected. -/
  | portalPostedWrite (fn : Nat) (q : Nat)
  /-- SETT_PACKET_START (R331): The interpreter takes the next packet of a function's highest-priority ready queue. -/
  | settPacketStart
  /-- SHADOW_BANK_SWAP (R334): A shadow bank swaps into the scheduler once the record that last used it retires. -/
  | shadowBankSwap (vdie : Nat) (fn : Nat) (q : Nat)
  /-- SETT_LOAD (R332): A write to SLOAD1 starts loading a sett image into a queue. -/
  | settLoad (val : BitVec 64)
  /-- SETT_LOAD_DONE (R332): The loader finishes checking the image and sets SLOADST. -/
  | settLoadDone
  /-- PCORE_WRITE (R339): A write granting cores to a function is accepted or refused. -/
  | pcoreWrite (fn : Nat) (hi : Bool) (val : BitVec 64)
  /-- PRNG_WRITE (R342): A write granting DRAM and shared-memory ranges is accepted or refused. -/
  | prngWrite (fn : Nat) (vdie : Nat) (val : BitVec 64)
  /-- TROOT_WRITE (R344): A function writes its translation root. -/
  | trootWrite (fn : Nat) (val : BitVec 64)
  /-- FCTL_HOLD_WRITE (R348): The PF writes FCTL.HOLD, freezing the function. -/
  | fctlHoldWrite (fn : Nat) (val : BitVec 64)
  /-- FUNCTION_LEVEL_RESET (R350): Initiate Function Level Reset starts the reset of a function. -/
  | functionLevelReset (fn : Nat)
  /-- FLR_DRAIN_DONE (R350): The function's requests have drained and the reset scrubs and releases its state. -/
  | flrDrainDone (fn : Nat)
  /-- MODULE_RESET (R396): Power-on or Fundamental Reset runs the module reset and boot sequence. -/
  | moduleReset
  /-- FIRMWARE_ACTIVATION (R399): Writing GO in FWACT activates the staged firmware slot. -/
  | firmwareActivation (val : BitVec 64)
  /-- CKCTL_GO (R404): Writing GO in CKCTL starts a checkpoint of all DRAM. -/
  | ckctlGo (val : BitVec 64)
  /-- CHECKPOINT_DONE (R404): The checkpoint copy completes and signals completion. -/
  | checkpointDone
  /-- HOST_LINK_LOST (R405): The host link fails during a checkpoint copy. -/
  | hostLinkLost
  /-- PWRLIM_WRITE (R402): A write sets a die's rate-of-rise limit from the next token. -/
  | pwrlimWrite (die : Nat) (val : BitVec 64)
  /-- TELBASE_WRITE (R403): A write places or enables a die's telemetry ring. -/
  | telbaseWrite (die : Nat) (val : BitVec 64)
  /-- MODID_WRITE (R406): The fabric manager writes the module id, refused while work is outstanding. -/
  | modidWrite (val : BitVec 64)
  /-- ROUTE_TABLE_WRITE (R313): The fabric manager replaces one route-table entry. -/
  | routeTableWrite (n : Nat) (val : BitVec 64)
  /-- REGISTER_WRITE (R7): A write to a register field with no behaviour of its own. -/
  | registerWrite (reg : HostReg) (val : BitVec 64)
  /-- GETTEL (R351): Side-band command returning the latest telemetry sample of each die. -/
  | gettel
  /-- GETLOG (R351): Side-band command returning error-log entries. -/
  | getlog (fn : Nat)
  /-- FREEZE (R351): Side-band command freezing a function with cause 0x21. -/
  | freeze (fn : Nat)
  /-- RESET (R351): Side-band command starting a function-level reset. -/
  | reset (fn : Nat)
  /-- STAGE (R397): Side-band command staging and verifying a firmware image. -/
  | stage (image : List (BitVec 8))
  /-- STAGE_ACTIVATE (R398): STAGE with its activate bit set activates the staged slot. -/
  | stageActivate (val : BitVec 64)
  /-- CKPT (R404): Side-band command starting a checkpoint. -/
  | ckpt
  /-- PLDM_FIRMWARE_UPDATE (R397): The PF writes a firmware image into the non-booted slot through PLDM. -/
  | pldmFirmwareUpdate (image : List (BitVec 8))
  /-- SPDM_MEASUREMENTS (R401): The security controller answers SPDM with signed measurements. -/
  | spdmMeasurements
  /-- FLIT_RECEIVE (R308): A link receiver checks a flit's CRC and sequence and passes or NAKs it. -/
  | flitReceive (link : Nat) (crcOk : Bool)
  /-- NAK_RECEIVE (R308): A transmitter replays buffered flits from the expected number. -/
  | nakReceive (link : Nat) (n : BitVec 10)
  /-- FLIT_ACK_RECEIVE (R308): A cumulative acknowledgement frees replay-buffer entries. -/
  | flitAckReceive (link : Nat) (n : BitVec 10)
  /-- LINK_TRAIN_DONE (R309): Training ends at 64 or 32 lanes or with the link down. -/
  | linkTrainDone (link : Nat) (loBad : Bool) (hiBad : Bool)
  /-- FABRIC_FORWARD (R314): A router forwards a fabric message on a candidate port or discards it. -/
  | fabricForward (k : Nat)
  /-- REQUEST_ARRIVE_HOME (R318): A request reaches its home and is handled by the reply cache. -/
  | requestArriveHome (die : Nat) (k : Nat)
  /-- REPLY_RECEIVE (R317): A reply reaches its source, completes the request and may send the acknowledgement. -/
  | replyReceive (die : Nat) (k : Nat)
  /-- ACKNOWLEDGEMENT_RECEIVE (R318): A source's acknowledgement frees a reply-cache entry. -/
  | acknowledgementReceive (die : Nat) (k : Nat)
  /-- REQUEST_TIMER_EXPIRE (R317): A request's 2,048-cycle timer expires and a copy is resent. -/
  | requestTimerExpire (die : Nat) (tag : BitVec 16)
  /-- REPLY_CACHE_ENTRY_EXPIRE (R318): A FABRIC reply-cache entry is freed 32,768 hub cycles after creation. -/
  | replyCacheEntryExpire (die : Nat) (k : Nat)
  /-- COPY_AGE_DISCARD (R320): A FABRIC copy older than 8,192 hub cycles is discarded. -/
  | copyAgeDiscard (die : Nat) (k : Nat)
  /-- FABRIC_REQUEST_FAIL (R320): A FABRIC request without reply for 22,528 hub cycles completes as failed. -/
  | fabricRequestFail (die : Nat) (tag : BitVec 16)
  /-- BEACON_SEND (R197): Every 64 hub cycles each die and the hub send frontiers and issue figures. -/
  | beaconSend (die : Nat)
  /-- BEACON_RECEIVE (R197): A beacon updates the receiver's frontiers. -/
  | beaconReceive (die : Nat) (k : Nat)
  /-- WRITE_APPLY (R197): A home applies a write once its causal frontier is met. -/
  | writeApply (die : Nat) (k : Nat)
  /-- READ_SERVE (R198): A home serves a read once its frontier covers the read's clock. -/
  | readServe (die : Nat) (k : Nat)
  /-- REPLY_CLOCK_MERGE (R198): A waiting reply's stamp is merged into the die clock once the frontier allows. -/
  | replyClockMerge (die : Nat) (k : Nat)
  /-- TRANSLATION_WALK_DONE (R177): A translation walk completes and fills the cache or reports a fault. -/
  | translationWalkDone (die : Nat) (k : Nat)
  /-- LANDING_DELIVERY (R186): A landing load delivers into its register at its arrival cycle or when late data arrives. -/
  | landingDelivery (cx : Nat) (slot : Nat)
  /-- REPEAT_REISSUE (R158): An armed repeat reissues its beat in the next port turn. -/
  | repeatReissue (cx : Nat)
  /-- START_TOKEN_RELEASE (R266): The power controller releases a start token at its spacing. -/
  | startTokenRelease (die : Nat)
  /-- ARRAY_IDLE_TIMEOUT (R266): After 256 port cycles without a beat the admitted column count falls to 0. -/
  | arrayIdleTimeout (core : Nat)
  /-- TELEMETRY_SAMPLE (R403): Every 1,000,000 hub cycles a die's sample is taken and written to its ring. -/
  | telemetrySample (die : Nat)
  /-- CONTEXT_WORK_REQUEST (R253): A context without a task asks the walkers of its core for a coordinate. -/
  | contextWorkRequest (cx : Nat)
  /-- NODE_START (R257): A node starts its tasks or job on a die once its edges are met. -/
  | nodeStart (vdie : Nat) (id : BitVec 32)
  /-- NODE_RETIRE (R249): A node retires when its tasks or jobs are done and its writes applied. -/
  | nodeRetire (vdie : Nat) (id : BitVec 32)
  /-- ENGINE_JOB_COMPLETE (R269): An engine finishes a job and performs its event and barrier steps. -/
  | engineJobComplete (vdie : Nat) (id : BitVec 32)
  /-- ENGINE_JOB_FAULT (R270): An engine takes a fault, stops the job and charges the fault. -/
  | engineJobFault (vdie : Nat) (id : BitVec 32)
  /-- DRAIN_QUEUE_POST (R283): The collective engine posts the next drain-queue entry to its tree. -/
  | drainQueuePost (core : Nat)
  /-- TREE_FLIT_ARRIVE (R276): A tree flit reaches a router slot and is folded, forwarded or delivered. -/
  | treeFlitArrive (fn : Nat) (idx : Nat) (k : Nat)
  /-- TREE_SLOT_FAULT (R279): A router without a slot for a tree faults to firmware, which evicts, loads and replays. -/
  | treeSlotFault (fn : Nat) (idx : Nat) (k : Nat)
  /-- TREE_STALL_TIMEOUT (R381): A tree's stall timer expires and freezes the tree. -/
  | treeStallTimeout (fn : Nat) (idx : Nat)
  /-- CLNEST_TRANSFER_ARRIVE (R285): A loop-nest chunk reaches its rank and counts toward LOCALDONE. -/
  | clnestTransferArrive (core : Nat) (k : Nat)
  /-- CLNEST_ABORT_RERUN (R387): An abort for rerun stops a collective and resets its count and attempt. -/
  | clnestAbortRerun (core : Nat) (fn : Nat) (n : BitVec 32)
  /-- CLNEST_RESUME (R388): A resume message reruns a collective under its new attempt. -/
  | clnestResume (core : Nat) (fn : Nat) (n : BitVec 32)
  /-- ROCALL_APPEND (R294): A call reaches the object's home and is appended once, or waits for log room. -/
  | rocallAppend (die : Nat) (k : Nat)
  /-- REPLAY_APPLY (R293): A die's replay engine applies the next log position to its copy. -/
  | replayApply (vdie : Nat) (fn : Nat) (idx : Nat)
  /-- RORD_SERVE (R297): The replay engine runs a waiting read-only request after the needed prefix. -/
  | rordServe (die : Nat) (k : Nat)
  /-- HALT_LINE_ARRIVE (R361): The halt line reaches a die, whose units of the function stop and write stop records. -/
  | haltLineArrive (vdie : Nat) (fn : Nat)
  /-- PREEMPT_SAVE (R367): A target reaches a loop boundary, drains, and its save area is written. -/
  | preemptSave (cx : Nat)
  /-- PREEMPT_DEADLINE (R368): A pre-emption deadline passes: restart save or trap 0x0E. -/
  | preemptDeadline (cx : Nat)
  /-- BLK_HOLD_EXPIRE (R231): A bank hold ends after 128 cycles. -/
  | blkHoldExpire (cx : Nat)
  /-- ELIDED_REGION_ABORT (R234): A conflict or limit aborts an elided region. -/
  | elidedRegionAbort (cx : Nat) (cause : BitVec 8)
  /-- BARW_COMPLETE (R239): A waiting BARW completes when the barrier phase changes. -/
  | barwComplete (die : Nat) (k : Nat)
  /-- FENCE_COMPLETE (R236): A fence completes once every covered access is complete. -/
  | fenceComplete (cx : Nat)
  /-- ECC_ERROR (R365): A soft error is detected, corrected and logged, or poisons its granule. -/
  | eccError (loc : EccLoc) (unc : Bool)
  /-- VIRTUAL_DIE_REMAP (R13): Firmware changes the virtual-to-physical mapping while no context is resident. -/
  | virtualDieRemap (x : Nat) (y : Nat)
  /-- ILLEGAL_BUNDLE (R40): A context issues a bundle that R39 makes illegal and takes trap 0x01 with no slot committing. -/
  | illegalBundle (cond : BitVec 4) (slots : BitVec 4)
  /-- BUNDLE_FETCH_FAULT (R110): A bundle fetch outside DEVICE, or with a translation or permission fault, takes trap 0x06, 0x03 or 0x04 at that bundle. -/
  | bundleFetchFault (code : BitVec 8)
  /-- PREEMPT_REQUEST_ARRIVE (R368): A pre-emption request reaches the target's core, starting its deadline, waking an IDLE target, or lapsing at once when the target runs no task. -/
  | preemptRequestArrive (cx : Nat)
  /-- FABRIC_PORT_DOWN (R314): A fabric port of the hub goes down, so routers stop taking it as a candidate. -/
  | fabricPortDown (port : Nat)
  /-- FABRIC_PORT_UP (R314): A fabric port comes up and becomes a valid forwarding candidate again. -/
  | fabricPortUp (port : Nat)
  /-- FIRMWARE_ORDERED_RETRAIN (R309): Firmware orders a die link to retrain, taking a 32-lane or down link back through training. -/
  | firmwareOrderedRetrain (link : Nat)
  /-- YIELD_WINDOW_END (R116): The 64-cycle window after YIELD ends and the context returns to normal merge-stage selection. -/
  | yieldWindowEnd (cx : Nat)
  /-- EXIT_REPORT_ARRIVE (R192): The report of a tile task's EXIT reaches a home die, which releases that task's RRED tags. -/
  | exitReportArrive (die : Nat) (k : Nat)
  deriving DecidableEq, Repr

end Sys2Proof
end

