-- ==== Sys2Proof/Machine/State.lean ====
section
/-!
DEFINITION. The state of the module: every register, memory, queue and record the spec names, as plain data,
and the state after reset. Sparse stores hold only what differs from their default.
-/
namespace Sys2Proof.Machine

/-- Reasons for which the machine stops. -/
inductive Fault where
  /-- The module has stopped after step 2 of a reset in which neither boot slot verified (26 R396): only the side band
  answers, and it has no order left. Raised by `step`, by no instruction. Safe: the spec itself ends the run there. -/
  | moduleStopped
  deriving DecidableEq, Repr

/-- Reasons for which the model has no next state. -/
inductive Refusal where
  /-- The arm of `exec` has no meaning yet. Safe: nothing can be concluded about such a run. -/
  | notModelled (mnemonic : String)
  deriving DecidableEq, Repr

/-! ### A context -/

/-- The registers that the slots of a bundle read as they stood before the bundle (02 R28): 06 R93, 07 R119. -/
structure Regs where
  /-- s1-s63, 64 bits; s0 is wired to zero (02 R37). -/
  s : PMap Word := []
  /-- a0-a31, 64 bits. -/
  a : PMap Word := []
  /-- p1-p95; p0 is wired to true (02 R37). -/
  p : PMap Bool := []
  /-- k0-k15, one bit per vector byte. -/
  k : PMap KMask := []
  /-- v0-v31, 1,024 bits. -/
  v : PMap VReg := []
  /-- Bit n set: v n is killed (07 R122). -/
  dead : BitVec 32 := 0
  /-- lc0-lc3. -/
  lc : PMap (BitVec 32) := []
  deriving DecidableEq, Repr

/-- An active hardware loop (06 R111, R112). -/
structure Loop where
  lc : Nat
  body : Word
  len : Nat
  trip : Nat
  deriving DecidableEq, Repr

/-- Address registers stepped by a repeat, the step code and the count (08 R158). -/
structure Armed where
  n : Nat
  x : Option Nat
  y : Option Nat
  g : BitVec 2
  deriving DecidableEq, Repr

/-- A beat under a repeat that still has issues left (08 R158). -/
structure Running where
  tern : Bool
  z : Nat
  va : Nat
  typ : MTyp
  aux : Nat
  /-- The entry in force at the first issue, which fixes the format (08 R152). -/
  entry : Word
  /-- Issues made, and issues left. -/
  made : Nat
  left : Nat
  /-- Bundle and slot of the beat. -/
  pc : Word
  slot : Nat
  x : Option Nat
  y : Option Nat
  g : BitVec 2
  deriving DecidableEq, Repr

/-- Matrix state and main-file window of a context (08 R145, 07 R119). -/
structure Matrix where
  /-- ft0-ft15; an unlisted entry holds the default 0x2011 (05 R89). -/
  ft : PMap Word := []
  /-- FMTSEL binding: loop counter and base (05 R90). -/
  bind : Option (Nat × Nat) := none
  /-- FMTIDX while no counter is bound (05 R90). -/
  fmtIdx : Nat := 0
  /-- A-stage entries st0-st3. -/
  stage : PMap VReg := []
  /-- A-stage depth D. -/
  depth : Nat := 0
  /-- B-base binding. -/
  bBind : Option Nat := none
  armed : Option Armed := none
  running : Option Running := none
  /-- Written tile rows, key 128 x tile + row. -/
  tiles : PMap TRow := []
  /-- Written main-file rows of the window. -/
  main : PMap VReg := []
  /-- Seed of the contents nothing has written (log 3). -/
  seed : Nat := 0
  /-- A scrub has left zeros in the tiles and rows that nothing has written since (21 R341). -/
  clean : Bool := false
  deriving DecidableEq, Repr

/-- The task a context runs (14 R246, R256). -/
structure Task where
  fn : Nat
  priv : Bool
  vdie : Nat
  vcore : Nat
  x : Nat
  y : Nat
  z : Nat
  n : Nat
  lnch : BitVec 32
  /-- The launch record's word at offset 32. -/
  lflags : Word
  zacc : Nat
  lslots : Nat
  mwin : Nat
  entry : Word
  param : Word
  fmtimg : Word
  deriving DecidableEq, Repr

/-- What a context is doing (01 R20, 14 R263, 23 R361, R367). -/
inductive Mode where
  /-- No task. -/
  | free
  | run
  /-- Parked by RLD or RLDN (10 R190). -/
  | parked
  /-- Its save area is being written (23 R367). -/
  | saving
  | halted
  deriving DecidableEq, Repr

/-- Where a landing load delivers (10 R185). -/
inductive LandDest where
  | scalar (n : Nat) (ty : LdTy)
  | vector (n : Nat) (w : Width)
  deriving DecidableEq, Repr

/-- A busy landing slot (10 R186, R188). -/
structure Landing where
  dest : LandDest
  due : Nat
  /-- Data in the landing buffer; absent while it is late. -/
  data : Option VReg
  /-- Order of the load among the context's loads. -/
  po : Nat
  /-- Bundle and slot of the load. -/
  pc : Word := 0
  slot : Nat := 0
  deriving DecidableEq, Repr

/-- An elided region (12 R233, R234). -/
structure Elided where
  s : PMap Word
  a : PMap Word
  p : PMap Bool
  dest : Nat
  resume : Word
  /-- Buffered store bytes by storage key, with the window of each kept in the key. -/
  stores : PMap Byte := []
  /-- Stores made in the region: each is a write of its own (11 R196). -/
  writes : Nat := 0
  rset : List Nat := []
  wset : List Nat := []
  bundles : Nat := 0
  deriving DecidableEq, Repr

/-- State of a region (12 R233). -/
inductive Region where
  | none
  | locked
  | elided (e : Elided)
  deriving DecidableEq, Repr

/-- A bank hold (12 R231). -/
structure Hold where
  mask : BitVec 64
  left : Nat
  until_ : Nat
  deriving DecidableEq, Repr

/-- A pre-emption request at a context (23 R367, R368, R378). -/
structure Preempt where
  area : Word
  /-- Virtual core of the requester: 16 x die + core. -/
  by_ : Nat
  fn : Nat
  /-- The request has reached the core; its deadline in cycles. -/
  deadline : Option Nat
  /-- Step 1 of R367 is taken. -/
  begun : Bool
  deriving DecidableEq, Repr

/-- A FENCE in progress: destination, row, scope, storage set, and the requests it covers, by issuer and place in its order
(12 R235). -/
structure Fence where
  d : BitVec 6
  row : Word
  scope : Scope
  set : BitVec 6
  cover : List (Nat × Nat)
  /-- From module scope on: the die's clock at the FENCE. -/
  clk : Clock
  /-- Transfers of the die's collective engine that it covers, by number (11 R203). -/
  moves : List Nat := []
  pc : Word
  slot : Nat
  deriving DecidableEq, Repr

/-- The bundle in issue (02 R28, R40, R41). -/
structure Issue where
  pc : Word := 0
  slot : Nat := 0
  /-- Registers as they stood before the bundle. -/
  view : Regs := {}
  astat : Word := 0
  /-- Main-file rows as they stood before the bundle (07 R140). -/
  main : PMap VReg := []
  /-- Accumulator tiles as they stood before the bundle (08 R160). -/
  tiles : PMap TRow := []
  /-- Address registers that slots of the bundle write, each with its slot (08 R158). -/
  aw : List (Nat × Nat) := []
  /-- Status bits raised by slots of this bundle (05 R85). -/
  raised : BitVec 8 := 0
  /-- TRAPPC, TRAPCODE and FMTIDX as they stood before the bundle (06 R118). -/
  trapPC : Word := 0
  trapCode : BitVec 8 := 0
  fmtIdx : Nat := 0
  /-- The format entry in force, the format table and PBANK as they stood before the bundle (05 R90, 08 R162, 07 R143). -/
  fmt : Word := 0x2011
  ft : PMap Word := []
  pbank : Bool := false
  /-- TRAPMASK, STOPREC, SLACKLEFT, CYCLE and CYCLE_G as they stood before the bundle (06 R117, R118). -/
  trapMask : BitVec 8 := 0
  nrec : Nat := 0
  slack : Nat := 0
  cycle : Nat := 0
  cycleG : Nat := 0
  /-- Loops active before the bundle (06 R114). -/
  loops : List Loop := []
  /-- Slots of the bundle that use the matrix port (08 R148). -/
  xs : List Nat := []
  /-- The slot stands at the head of the matrix port (08 R148). -/
  atPort : Bool := false
  /-- An RLD or RLDN ends the strand once the bundle has committed (10 R190). -/
  park : Bool := false
  /-- v registers written by slots of this bundle (02 R43). -/
  wrote : BitVec 32 := 0
  /-- Trap codes raised by slots of this bundle. -/
  codes : List (BitVec 8) := []
  /-- Target of a taken branch. -/
  target : Option Word := none
  /-- Flow goes on as if the bundle at this address had ended: LOOP with no trip, LBRK (06 R111, R113). -/
  after : Option Word := none
  /-- The bundle ended the task. -/
  ended : Bool := false
  /-- A REPT stands in an earlier slot of this bundle (08 R158). -/
  rept : Bool := false
  /-- An elided region aborted in this bundle (12 R233). -/
  aborted : Bool := false
  /-- The bundle after this one is a loop boundary (06 R114). -/
  boundary : Bool := false
  /-- A BLK of this bundle has begun a hold (12 R231). -/
  blk : Bool := false
  deriving DecidableEq, Repr

/-- A resident context (01 R12). -/
structure Ctx where
  mode : Mode := .free
  /-- Counts the tasks of the context, so that a reply of an ended task is recognised. -/
  serial : Nat := 0
  pc : Word := 0
  regs : Regs := {}
  mat : Matrix := {}
  task : Option Task := none
  loops : List Loop := []
  /-- Loop buffer: bundles of active bodies by address, from their first fetch on (06 R111). -/
  lbuf : PMap (BitVec 128) := []
  /-- ASTAT, bits 7:0 used (05 R84). -/
  astat : Word := 0
  /-- PBANK (07 R134). -/
  pbank : Bool := false
  trapPC : Word := 0
  trapCode : BitVec 8 := 0
  /-- TRAPMASK bits 7:0: COND and SLOTS (02 R41). -/
  trapMask : BitVec 8 := 0
  slackLeft : Nat := 0
  /-- Shadow sets, key 16 x engine + field (15 R267). -/
  shadow : PMap Word := []
  /-- Drain-queue entries since the last JOBW.col of field 0 or 2 (15 R283). -/
  colCount : Nat := 0
  /-- Failure map (12 R236). -/
  failMap : BitVec 2048 := 0
  /-- Barrier record: word address and phase (12 R239). -/
  barRec : Option (Word × BitVec 16) := none
  /-- Abort count (12 R233). -/
  aborts : Nat := 0
  /-- RRED count (10 R192). -/
  rredSeg : Nat := 0
  region : Region := .none
  hold : Option Hold := none
  landings : PMap Landing := []
  /-- Accesses made so far, the po index of the next one. -/
  po : Nat := 0
  /-- Stamps that the replies of the context have brought (11 R198). -/
  seen : Clock := []
  /-- Homes on other modules that hold tags of the task's reduce-stores: module and virtual die (10 R192). -/
  rredAt : List (Nat × Nat) := []
  iss : Issue := {}
  /-- The waiting form of a bundle that is not complete: the slots still to run. -/
  wait : List (Nat × Instr) := []
  /-- Whether a waiting form has made its one request already, and the key it waits for. -/
  waitKey : Option Nat := none
  /-- Cycle at which each fixed-latency result is available, by register key (02 R42). -/
  avail : PMap Nat := []
  /-- The same for a result of the matrix port that the port has delayed (08 R148, R149). -/
  late : PMap Nat := []
  /-- Matrix-class slots of a bundle that wait for their turn of the port, with what their bundle reads (08 R148). -/
  port : List (Nat × Instr) := []
  portIss : Issue := {}
  /-- What a slot that waits there took when its bundle issued, by slot: the word that an FMTLD read, the handle, the result area
  and the count of entries of a drain to the queue (08 R161, R162, 15 R283). -/
  portKeep : PMap (List Word) := []
  /-- Cycle and place in program order of the last landing delivery to a register, by register key (10 R188). -/
  landed : PMap (Nat × Nat) := []
  /-- Elements of a VLDS or VLDX that have come, and how many are still to come, by v register (10 R182, R184). -/
  vparts : PMap (VReg × Nat) := []
  lastIssue : Nat := 0
  minReady : Nat := 0
  /-- End of the window of YIELD (06 R116). -/
  yieldUntil : Nat := 0
  preempt : Option Preempt := none
  /-- Address of the save area staged by CTXLD and its bytes (23 R376). -/
  staged : Option (Word × List Byte) := none
  /-- Poisoned registers, main rows, tiles and landing slots, by register key (23 R365). -/
  regPoison : List Nat := []
  /-- FENCEs in progress, oldest first (12 R235). -/
  fences : List Fence := []
  /-- What a waiting DRAIN.col waits for: the bound of the drain-queue entries, posts by tree and segment, collectives (10
  R194). -/
  drainSnap : Option (Nat × List (Nat × Nat) × List (BitVec 32)) := none
  /-- The clock of another die that a TGWAIT or JOBWAIT has still to merge (11 R199). -/
  syncClk : Option Clock := none
  deriving DecidableEq, Repr

/-- A drain-queue entry (15 R283). -/
structure DrainEntry where
  fn : Nat
  /-- Filling virtual core: 16 x die + core. -/
  vcore : Nat
  cx : Nat
  serial : Nat
  handle : BitVec 32
  data : List Byte
  /-- Field 2 of the shadow set, and the entries posted before this one. -/
  dst : Word
  q : Nat
  pc : Word
  slot : Nat
  /-- Its number among the entries of the core. -/
  no : Nat := 0
  deriving DecidableEq, Repr

/-- A cached translation (10 R177): partition, virtual page or block, and the leaf. -/
structure TlbEntry where
  fn : Nat
  va : Nat
  /-- The entry covers a block of 128 MiB. -/
  block : Bool
  leaf : Word
  deriving DecidableEq, Repr

/-- A loop-nest collective known to a core (15 R285, 24 R387). -/
structure ClState where
  fn : Nat
  n : BitVec 32
  /-- Words of the record and the member entries, once accepted here. -/
  rcd : List Word
  group : List Word
  accepted : Bool
  attempt : Nat
  received : Nat
  /-- Index of the next transfer to emit. -/
  next : Nat
  srcfree : Bool
  localdone : Bool
  alldone : Bool
  /-- Stopped by an abort for rerun, or ended for good. -/
  stopped : Bool
  cancelled : Bool
  node : BitVec 32
  /-- Ranks of other modules that have received EXPIN bytes, and that still owe an acknowledgement of an abort. -/
  farFull : List Nat := []
  owed : List Nat := []
  /-- The issuing task, by launch and index, after a pre-emption has saved it, and whether a halt ended it (24 R388). -/
  saved : Option (BitVec 32 × Nat) := none
  halted : Bool := false
  cx : Nat
  serial : Nat
  deriving DecidableEq, Repr

/-- Messages of loop-nest collectives between ranks, beside the chunks (15 R285, R286, 24 R387, R388). -/
inductive NestCmd where
  /-- The rank of the sending code has received EXPIN bytes under an attempt. -/
  | full (attempt : Nat)
  /-- CLABORT. -/
  | cancel
  | rerun
  /-- The rank of the sending code has taken an abort for rerun. -/
  | acked
  | resume
  deriving DecidableEq, Repr

/-- A chunk on its way (15 R285). -/
structure Chunk where
  fn : Nat
  n : BitVec 32
  attempt : Nat
  /-- Codes of the sending and receiving ranks: module, virtual die and core. -/
  src : Nat
  rank : Nat
  dst : Nat
  data : List Byte
  /-- Its number among the transfers of the physical die that sent it (11 R203). -/
  die : Nat := 0
  no : Nat := 0
  /-- For another die of the module: the issuing virtual die, the stamp, and the number of that die's previous write to the same
  home (11 R196). -/
  vdie : Nat := 0
  clk : Clock := []
  prev : BitVec 32 := 0
  deriving DecidableEq, Repr

/-- A transfer of a loop-nest collective that has left its core and has not been applied yet: its number, the function, the
issuing virtual die, and its sequence number there if it has one (11 R203). -/
structure Move where
  no : Nat
  fn : Nat
  vdie : Nat
  seq : Option (BitVec 32)
  deriving DecidableEq, Repr

/-- The latest cycle in which a core issued (14 R264). -/
structure Turn where
  cycle : Nat
  /-- Slots that the primary occupies, and its lane groups. -/
  slots : BitVec 4
  groups : Nat
  /-- A secondary has issued beside it. -/
  two : Bool := false
  /-- The primary's context. -/
  cx : Nat := 0
  deriving DecidableEq, Repr

/-- A core (01 R12). -/
structure Core where
  /-- Pattern memory, key 32 x bank + entry (07 R134). -/
  pats : PMap VReg := []
  /-- Patterns on their way: cycle, issuing context, entry, value (07 R143). -/
  patNext : List (Nat × Nat × Nat × VReg) := []
  drainQ : List DrainEntry := []
  /-- Entries filled so far. -/
  drainNo : Nat := 0
  tlb : List TlbEntry := []
  /-- Admitted columns and granted tokens of the step (14 R266). -/
  cols : Nat := 0
  tokens : Nat := 0
  tokenReq : Option Nat := none
  lastBeat : Nat := 0
  /-- Cycle in which the matrix port is released (08 R148). -/
  portAt : Nat := 0
  /-- Claims of the 64 banks, oldest first: node, BANKS and the banks it released (14 R262). -/
  claims : List (BitVec 32 × BitVec 64 × BitVec 64) := []
  /-- CLNEST counters minus one, by function (15 R285). -/
  clCtr : PMap (BitVec 32) := []
  cls : List ClState := []
  chunks : List Chunk := []
  /-- Messages of collectives that have come to the core, by function, number, sending and receiving rank (15 R286, 24 R387,
  R388). -/
  nestIn : List (Nat × BitVec 32 × Nat × Nat × NestCmd) := []
  /-- Parked continuations in the order their last replies arrived (14 R263). -/
  readyQ : List Nat := []
  turn : Option Turn := none
  deriving DecidableEq, Repr

/-! ### Requests and messages -/

/-- A location of program-visible storage behind a request (10 R170, R171). -/
inductive Loc where
  | dram (vdie off : Nat)
  | shared (vdie off : Nat)
  | host (addr : Nat)
  /-- Another module: module, virtual die and 40-bit offset. -/
  | fabric (modid vdie off : Nat)
  /-- The object home (16 R294). -/
  | object (vdie fn idx : Nat)
  /-- LOCAL or PEER storage of the issuing die, by storage key: served at once (11 R198). -/
  | near (vdie key : Nat)
  deriving DecidableEq, Repr

/-- Atomic updates (12 R224 to R230). -/
inductive AOp where
  | add | min | max | minn | maxn | and | or | xor | xchg | cas | fadd | fmin | fmax
  deriving DecidableEq, Repr

/-- What a request does at its home. -/
inductive MemOp where
  /-- Read of n bytes. -/
  | read (n : Nat)
  | write (bytes : List Byte)
  /-- Atomic of n bytes: operand and, for ACAS, the value to store. -/
  | atom (op : AOp) (n : Nat) (x y : Word)
  /-- RRED with its tag: launch, index, segment (10 R192). -/
  | rred (fl : Bool) (x : Word) (lnch : BitVec 32) (tile seg : Nat)
  | barp (x : Word)
  | bara (x : Word)
  /-- BARW: the recorded phase, if the record names this word. -/
  | barw (phase : Option (BitVec 16))
  /-- ROCALL: handle, method, arguments, and whether the caller waits for the result. -/
  | rocall (handle : BitVec 32) (m : Nat) (args : List Word) (wait : Bool)
  deriving DecidableEq, Repr

/-- What the reply of a request writes at its source. -/
inductive Dest where
  | none
  | sload (n : Nat) (ty : LdTy)
  | vload (n : Nat) (w : Width)
  /-- Element j of e bits of v n. -/
  | velem (n e j : Nat)
  | land (slot : Nat)
  /-- Old value of an atomic, zero-extended. -/
  | old (n : Nat)
  /-- Barrier record of the context. -/
  | barRec (addr : Word)
  /-- BARW result. -/
  | barW (n : Nat)
  /-- ROCALL position, or result. -/
  | call (n : Nat)
  | callW (n : Nat)
  deriving DecidableEq, Repr

/-- A request (11 R196, 18 R316). -/
structure Req where
  /-- Source: module and physical die. -/
  srcMod : Nat
  srcDie : Nat
  tag : Nat
  fn : Nat
  /-- Issuing context (4 x physical core + context) and its task, or an engine. -/
  cx : Option Nat
  serial : Nat
  /-- Virtual core of the issuer. -/
  vcore : Nat
  node : BitVec 32
  loc : Loc
  op : MemOp
  dest : Dest
  /-- A parked load (10 R190). -/
  park : Bool
  /-- Order among the accesses of the issuing context. -/
  po : Nat
  /-- Clock of a read, stamp of a write. -/
  clk : Clock
  /-- Virtual die of the issue, for the stamp. -/
  vdie : Nat
  /-- Sequence number of the previous write to the same home. -/
  prev : BitVec 32
  pc : Word
  slot : Nat
  addr : Word
  /-- Core cycle in which this copy reached its home (12 R223), and CYCLE_G at which it left its source (18 R320). -/
  arr : Nat := 0
  born : Nat := 0
  /-- Index of the issuing task, and the RESTART flag of its launch (23 R363). -/
  tile : Nat := 0
  restart : Bool := false
  deriving DecidableEq, Repr

/-- A reply (11 R198, 18 R321). -/
structure Reply where
  srcMod : Nat
  srcDie : Nat
  tag : Nat
  data : List Byte
  stamp : Clock
  status : BitVec 8
  /-- Trap raised at the home: 0x10 for poison, 0x04 for a refused ATS access. -/
  trap : BitVec 8
  detail : BitVec 8
  copies : Nat
  /-- What the home knew when it served a read: its frontier (11 R198). -/
  cover : Clock := []
  deriving DecidableEq, Repr

/-- A beacon (11 R197). -/
structure Beacon where
  from_ : Nat
  front : Clock
  hi : BitVec 32
  lastTo : PMap (BitVec 32)
  /-- A(d) of the sender for each object, by object key (16 R294). -/
  applied : PMap Nat := []
  deriving DecidableEq, Repr

/-- A flit of a tree between two of its routers; level 0 reports a member's LOCALDONE to another module. -/
structure TFlit where
  seg : Nat
  /-- Router that it reaches. -/
  level : Nat
  modid : Nat
  vdie : Nat
  core : Nat
  /-- Child index on the way up; none on the way down. -/
  child : Option Nat
  data : List Byte
  /-- Clocks of the posts that it carries, and the module that sent it. -/
  clk : Clock := []
  from_ : Nat := 0
  deriving DecidableEq, Repr

/-- A router of a logical tree: level, module, virtual die, core (15 R276). -/
structure Rtr where
  level : Nat
  modid : Nat
  vdie : Nat
  core : Nat
  deriving DecidableEq, Repr

/-- A node record of a save block (24 R384). -/
structure BRec where
  typ : Nat
  r : Rtr
  seg : Nat
  cidx : Nat
  rank : Nat
  src : Nat
  data : List Byte
  deriving DecidableEq, Repr

/-- A queued edit (15 R282, 24 R386). -/
structure Edit where
  word0 : Word
  word1 : Word
  bound : Nat
  deriving DecidableEq, Repr

/-- What the modules of one tree tell each other (15 R274, R279, R280, R282). -/
inductive TreeCmd where
  /-- TRFREE; TRFRZ, or a freeze by the stall timer; TRSAVE before and after its block is written. -/
  | free
  | freeze (stall : Bool)
  | save
  | saved
  /-- TRLOAD of a frozen tree, and of a saved one with the records for the module. -/
  | thaw
  | load (seq : Nat) (edits : List Edit) (posts : PMap Nat) (recs : List BRec)
  /-- TREDIT: the counts of posts, and the edit with its boundary. -/
  | count
  | edit (e : Edit)
  /-- The TREDIT that had asked for the counts is gone. -/
  | drop
  /-- An answer: the largest count of posts, or the records of a save and the counts of the members there. -/
  | ack (count : Nat) (recs : List BRec) (posts : PMap Nat)
  /-- A post of a segment needs a tree or a member that is not there. -/
  | reject (seg : Nat)
  deriving DecidableEq, Repr

/-- Content of a message. -/
inductive Body where
  | req (r : Req)
  | reply (r : Reply)
  /-- Acknowledgement of a reply. -/
  | ack (srcMod srcDie tag : Nat)
  | beacon (b : Beacon)
  /-- Report of a task's EXIT, by function, launch and index (10 R192). -/
  | exit (fn : Nat) (lnch : BitVec 32) (tile : Nat)
  /-- A flit of a tree with members on several modules, by function and handle (15 R276). -/
  | tree (fn : Nat) (handle : BitVec 32) (f : TFlit)
  /-- A chunk or a message of a loop-nest collective for a rank of another module (15 R285). -/
  | chunk (c : Chunk)
  | nest (fn : Nat) (n : BitVec 32) (src dst : Nat) (c : NestCmd)
  /-- What a module tells another of a tree. -/
  | treeCmd (fn : Nat) (handle : BitVec 32) (src : Nat) (c : TreeCmd)
  /-- A launch record forwarded to another die, by function, virtual die and id (14 R258, 20 R334). -/
  | record (fn vdie : Nat) (id : BitVec 32)
  deriving DecidableEq, Repr

/-- A message between routers (01 R17, 18 R311). The destination is a physical die, or 8 for the hub. -/
structure Msg where
  dst : Nat
  body : Body
  /-- CYCLE_G at which this copy left its source (18 R320). -/
  born : Nat
  /-- Fabric hops taken, the other module it goes to, and the die there: a physical one for a reply, else a virtual one. -/
  hops : Nat := 0
  toMod : Option Nat := none
  toDie : Nat := 0
  /-- Further routers that a beacon is for. -/
  more : List Nat := []
  deriving DecidableEq, Repr

/-- A message among the core routers of a die (01 R16, R17): the router of the 4×4 torus that holds it, the router it goes
to, its channel of the ring, and whether it leaves by the die router at router 0. -/
structure Ride where
  pos : Nat
  dst : Nat
  ch : Nat := 0
  leaves : Bool
  msg : Msg
  deriving DecidableEq, Repr

/-- An outstanding request at its source (18 R317). -/
structure Sent where
  req : Req
  /-- Sendings so far; 0 while held by R315. -/
  sends : Nat
  firstAt : Nat
  lastAt : Nat
  /-- Reply received, with the largest COPIES seen. -/
  replied : Bool
  copies : Nat
  /-- The home has applied the write or served the read. -/
  done : Bool
  /-- The package router has accepted a request to another module (11 R203). -/
  accepted : Bool := false
  /-- The reply's stamp is merged; the reply has written its destination; the acknowledgement has left. -/
  merged : Bool := false
  given : Bool := false
  acked : Bool := false
  /-- A FABRIC request that has failed (18 R320): its tag stays in use until a reply lets it be acknowledged (R321). -/
  failed : Bool := false
  deriving DecidableEq, Repr

/-- A reply-cache entry (18 R318). -/
structure CacheEntry where
  srcMod : Nat
  srcDie : Nat
  tag : Nat
  fn : Nat
  copies : Nat
  reply : Option Reply
  madeAt : Nat
  fabric : Bool
  deriving DecidableEq, Repr

/-- A translation walk in progress (10 R177): the access waits for it. The request holds the location that the tables gave
when the walk began, and a write its stamp. -/
structure Walk where
  core : Nat
  fn : Nat
  va : Nat
  req : Req
  /-- The access writes or performs an atomic. -/
  write : Bool
  /-- A landing load: its home must be the issuing die (10 R169). -/
  ownDie : Bool
  /-- CYCLE_G at which the walk began (23 R374), and TROOT as it then stood (21 R344). -/
  at_ : Nat
  root : Word := 0
  deriving DecidableEq, Repr

/-- A soft-error log entry (23 R366). -/
structure ErrEntry where
  word0 : Word
  word1 : Word
  deriving DecidableEq, Repr

/-- A physical die, or the hub at index 8: router, home and power controller. -/
structure PDie where
  /-- CYCLE (01 R18). -/
  cycle : Nat := 0
  tagNext : Nat := 0
  sent : List Sent := []
  inbox : List Msg := []
  rinbox : List Msg := []
  /-- Requests accepted at this home and not yet applied or served. -/
  pend : List Req := []
  /-- Barrier waits at this home: request, phase at which each waits. -/
  barWaits : List (Req × BitVec 16) := []
  waitRep : List Reply := []
  cache : List CacheEntry := []
  /-- RRED tags held: function, launch, index, segment (10 R192). -/
  rtags : List (Nat × BitVec 32 × Nat × Nat) := []
  walks : List Walk := []
  /-- Transfers of the die's collective engine on their way, and how many have left (11 R203). -/
  moves : List Move := []
  moveNo : Nat := 0
  /-- Messages among the core routers of the die (01 R17). -/
  rides : List Ride := []
  /-- Reports of an EXIT to other modules, with the context and its place in program order: each leaves once the task's
  reduce-stores to that module have been answered or have failed (10 R192). -/
  exits : List (Nat × Nat × Msg) := []
  errLog : List ErrEntry := []
  /-- PWRLIM (26 R402). -/
  pwrLim : Word := 0
  lastToken : Nat := 0
  tokenHeld : Bool := false
  /-- TELBASE (26 R403). -/
  telBase : Word := 0
  /-- Samples taken: SEQ is this number modulo 2^32. -/
  telSeq : Nat := 0
  telSample : List Word := []
  deriving DecidableEq, Repr

/-- A link direction: transmitter and receiver (18 R308 to R310). -/
structure Link where
  txSeq : BitVec 10 := 0
  buf : List (BitVec 10 × Msg) := []
  wire : List (BitVec 10 × Msg) := []
  /-- Messages that wait at the transmitter, of the request and of the response class (18 R311). -/
  sendQ : List Msg := []
  respQ : List Msg := []
  rxExp : BitVec 10 := 0
  naks : List (BitVec 10) := []
  /-- Numbers whose last sending failed its CRC (18 R309). -/
  lastFail : List (BitVec 10) := []
  trainAt : Nat := 0
  /-- The training was ordered by firmware, which alone brings back lanes that failed (18 R309). -/
  fresh : Bool := false
  crce : BitVec 16 := 0
  rply : BitVec 16 := 0
  rtrn : BitVec 8 := 0
  half : BitVec 2 := 0
  /-- 0 down, 1 training, 2 up. -/
  state : BitVec 2 := 0
  deriving DecidableEq, Repr

/-! ### Task graph -/

/-- Kinds of node (14 R249). -/
inductive NodeKind where
  | launch
  | job (e : Eng)
  | clnest
  | treeOp
  deriving DecidableEq, Repr

/-- A node of the task graph on one die (14 R249, R257, R260). -/
structure Node where
  id : BitVec 32
  fn : Nat
  kind : NodeKind
  /-- The sixteen words of the record or card. -/
  words : List Word
  /-- Held by HOLD until released (14 R260). -/
  held : Bool
  /-- Nodes that must retire first. -/
  preds : List (BitVec 32)
  /-- Edges recorded by TGDEP. -/
  edges : Nat := 0
  started : Bool := false
  /-- Tasks handed out and not yet exited here. -/
  live : Nat := 0
  /-- Job done, or every task of the launch on this die exited. -/
  done : Bool := false
  /-- Stopped by a halt: it counts as done for DRAIN and JOBWAIT (23 R361). -/
  stopped : Bool := false
  /-- The count is still to be read after these nodes (14 R250). -/
  countWait : Bool := false
  /-- Coordinate count, once known. -/
  count : Nat := 0
  /-- Submitting context, its task and bundle; none for a host job. -/
  cx : Option Nat := none
  serial : Nat := 0
  pc : Word := 0
  slot : Nat := 0
  /-- Submitting virtual core: 16 x die + core. -/
  vcore : Nat := 0
  /-- Shadow bank that held it: 2 x queue + bank. -/
  queue : Option Nat := none
  /-- Segments of a collective job already posted, or blocks or elements that another job has moved. -/
  posted : Nat := 0
  /-- What the engine has read of the block or element that it is at. -/
  data : List (List Byte) := []
  /-- The clock of the die at the submission and at the exits of the node's tasks, for what comes after it (11 R205). -/
  clk : Clock := []
  deriving DecidableEq, Repr

/-- A walker slot (14 R251 to R255). -/
structure Walker where
  lnch : BitVec 32
  fn : Nat
  vcore : Nat
  ordinal : Nat
  next : Nat
  end_ : Nat
  qnext : Nat
  qend : Nat
  splits : Nat
  /-- Coordinates to run again first, after ERET (23 R377). -/
  again : List Nat := []
  /-- The walker is in a save area (14 R255). -/
  away : Bool := false
  /-- Cycle in which it handed out its last coordinate (14 R253). -/
  handed : Option Nat := none
  deriving DecidableEq, Repr

/-- An RORD waiting at a replay engine (16 R297). -/
structure RoRead where
  cx : Nat
  serial : Nat
  fn : Nat
  handle : BitVec 32
  m : Nat
  args : List Word
  clk : Clock
  dest : Nat
  pc : Word
  slot : Nat
  deriving DecidableEq, Repr

/-- A virtual die: clock, frontiers, job scheduler, walkers, region locks. Index 8 is the hub, which has frontiers only. -/
structure VDie where
  clock : Clock := []
  /-- Sequence number of the last write issued to each home (11 R196). -/
  lastTo : PMap (BitVec 32) := []
  /-- F of this home for each die (11 R197). -/
  front : Clock := []
  /-- F_x[f] held from beacons, key 8 x + f. -/
  frontOf : PMap (BitVec 32) := []
  /-- Last applied write of each die at this home. -/
  lastFrom : PMap (BitVec 32) := []
  /-- From each die's beacon: highest issued number, and its last write to this home. -/
  beacHi : PMap (BitVec 32) := []
  beacLast : PMap (BitVec 32) := []
  /-- Sequence number that the next node takes, minus one (14 R249). -/
  nodeSeq : Nat := 0
  nodes : List Node := []
  walkers : List Walker := []
  /-- Contexts that hold the region lock, by function (12 R233). -/
  locks : PMap Nat := []
  /-- Round-robin position of the replay engine, and the RORDs that wait there in order of arrival (16 R293, R297). -/
  engObj : Nat := 0
  roReads : List RoRead := []
  /-- A(x) of each die x as its beacons gave it, key 2^40 x + object key (16 R294). -/
  appliedOf : PMap Nat := []
  deriving DecidableEq, Repr

/-! ### Trees and objects -/

/-- A tree member (15 R274). -/
structure Member where
  rank : Nat
  modid : Nat
  vdie : Nat
  core : Nat
  deriving DecidableEq, Repr

/-- A post held at its leaf router while its tree is FROZEN or SAVED (15 R280, 24 R384). -/
structure Post where
  /-- Posting member by code, and its virtual core. -/
  code : Nat
  vcore : Nat
  seg : Nat
  /-- Offset of the source in LOCAL. -/
  src : Nat
  deriving DecidableEq, Repr

/-- Partial combination of a segment at a router of the logical tree (15 R276, 24 R384). -/
structure TNode where
  level : Nat
  modid : Nat
  vdie : Nat
  core : Nat
  seg : Nat
  /-- Children folded so far; 0xFFFF for a result held for delivery. -/
  folded : Nat
  acc : List Byte
  /-- Arrived children not yet folded, by index. -/
  kids : PMap (List Byte)
  /-- Clocks of the posts that have come. -/
  clk : Clock := []
  deriving DecidableEq, Repr

/-- What one member has seen of a segment. -/
structure SegEv where
  /-- Member by code: module, die and core. -/
  code : Nat
  seg : Nat
  /-- Result area in LOCAL, if it has one. -/
  res : Option Nat
  srcfree : Bool
  localdone : Bool
  /-- Posting context, its task and bundle. -/
  cx : Option Nat := none
  serial : Nat := 0
  pc : Word := 0
  slot : Nat := 0
  /-- Clock of the posting die at the post (11 R204). -/
  clk : Clock := []
  /-- Number of the drain-queue entry that was posted (10 R194). -/
  entry : Option Nat := none
  deriving DecidableEq, Repr

/-- A form of this module that waits for the other modules of a tree: those that still owe an answer, and what came. -/
structure TreeAsk where
  /-- The context that asks; none once it is gone. -/
  cx : Option Nat := none
  owed : List Nat
  count : Nat := 0
  recs : List BRec := []
  posts : PMap Nat := []
  deriving DecidableEq, Repr

/-- A tree-table entry and the slots of its tree (15 R275, R276, 24 R381). -/
structure Tree where
  valid : Bool := false
  /-- 0 ACTIVE, 1 FROZEN, 2 SAVED. -/
  state : Nat := 0
  kind : Nat := 0
  op : Nat := 0
  fmt : Nat := 0
  segLog2 : Nat := 0
  root : Nat := 0
  gen : Nat := 0
  seq : Nat := 0
  stall : Nat := 0
  spill : Word := 0
  /-- Freeze source: true for a stall. -/
  byStall : Bool := false
  /-- A halt froze it (24 R382). -/
  byHalt : Bool := false
  members : List Member := []
  edits : List Edit := []
  /-- Posts made by each member, by its code (module, die, core). -/
  posts : PMap Nat := []
  segs : List SegEv := []
  nodes : List TNode := []
  flits : List TFlit := []
  held : List Post := []
  /-- Routers that hold a slot of the tree, and those whose partials lie in the spill block. -/
  slots : List Nat := []
  spilled : List Nat := []
  /-- CYCLE_G at which the stall timer restarted, or at which it froze the tree. -/
  stallAt : Nat := 0
  /-- Clocks of the posts of the segments at ALLDONE (11 R204). -/
  doneClk : Clock := []
  ask : Option TreeAsk := none
  /-- An edit of another module is fixing its boundary: posts wait (15 R282). -/
  hold : Bool := false
  deriving DecidableEq, Repr

/-- A logged call (16 R294, R297). -/
structure Call where
  m : Nat
  args : List Word
  /-- Issuing virtual die and sequence number. -/
  fromDie : Nat
  seqNo : BitVec 32
  stamp : Clock
  cx : Option Nat
  serial : Nat
  pc : Word
  slot : Nat
  wait : Bool
  deriving DecidableEq, Repr

/-- A replayed object (16 R287 to R300). -/
structure Obj where
  live : Bool := false
  gen : Nat := 0
  home : Nat := 0
  logLog2 : Nat := 0
  ssize : Nat := 0
  /-- Method entries. -/
  meths : List Word := []
  /-- Position of the first untrimmed entry, and the untrimmed entries. -/
  base : Nat := 0
  log : List Call := []
  /-- The copies, key 2^16 x virtual die + offset. -/
  copies : PMap Byte := []
  /-- Poisoned 32-byte granules of the copies, same keys (23 R365). -/
  bad : List Nat := []
  /-- A_d of each virtual die. -/
  applied : PMap Nat := []
  /-- Poisoned position, cause and method. -/
  poison : Option (Nat × Nat × Nat) := none
  /-- Merged stamps of the trimmed positions (16 R296, R297). -/
  baseStamp : Clock := []
  /-- Results of awaited calls by position, with the stamps they carry. -/
  results : PMap (Word × Clock) := []
  deriving DecidableEq, Repr

/-! ### Functions and host -/

/-- A queue (20 R325 to R334). -/
structure Queue where
  qctl : Word := 0
  accepted : BitVec 16 := 0
  rejected : BitVec 16 := 0
  lerr : BitVec 8 := 0
  /-- Packets in the buffer, oldest first. -/
  buf : List (List Word) := []
  sett : List (BitVec 32) := []
  window : PMap Word := []
  /-- Records waiting for each die's shadow banks, oldest first, with the id given elsewhere. -/
  banks : List (Nat × NodeKind × List Word × Option (BitVec 32)) := []
  /-- Bank that the next record of each die takes. -/
  bankNext : PMap Nat := []
  deriving DecidableEq, Repr

/-- Homes on other modules that hold tags of a task which a save or a halt has taken off its context (10 R192): launch, tile,
the context and its place in program order, and the modules and virtual dies. -/
structure TagHomes where
  lnch : BitVec 32
  n : Nat
  cx : Nat
  po : Nat
  homes : List (Nat × Nat)
  deriving DecidableEq, Repr

/-- A function (21 R338). -/
structure Fn where
  /-- PCORE0 and PCORE1 (21 R339). -/
  pcore : BitVec 128 := 0
  /-- Physical core of each virtual core, key 16 x virtual die + core (21 R340). -/
  vmap : PMap Nat := []
  /-- PRNG of each virtual die (21 R342). -/
  prng : PMap Word := []
  troot : Word := 0
  hold : Bool := false
  /-- FSTAT bits 63:2 (21 R348). -/
  fcause : BitVec 62 := 0
  frozen : Bool := false
  /-- CYCLE_G of the freeze, and of the rise of the halt line (21 R349, 23 R361). -/
  frozenAt : Nat := 0
  halted : Bool := false
  haltAt : Nat := 0
  recs : List (List Word) := []
  /-- Virtual dies that the halt line has not reached. -/
  haltDies : List Nat := []
  /-- Tasks that the halt has ended (23 R361, R377). -/
  haltedTasks : List Task := []
  rredAway : List TagHomes := []
  /-- Launch records on their way to another virtual die: the die, the record and the id (14 R258). -/
  coming : List (Nat × List Word × BitVec 32) := []
  queues : PMap Queue := []
  /-- Event counters, key 64 x (16 x virtual die + core) + event (12 R240). -/
  events : PMap (BitVec 16) := []
  trees : PMap Tree := []
  objs : PMap Obj := []
  /-- GETLOG entries (21 R351, 23 R371). -/
  getlog : List Word := []
  resetting : Bool := false
  /-- A reset ordered during a checkpoint waits (26 R405). -/
  resetWait : Bool := false
  deriving DecidableEq, Repr

/-- A sett loader's work (20 R332). -/
structure Loading where
  load0 : Word
  load1 : Word
  deriving DecidableEq, Repr

/-- The sett interpreter on one packet (20 R329 to R333). -/
structure Interp where
  fn : Nat
  queue : Nat
  /-- Index of the next operation. -/
  op : Nat
  x : PMap Word := []
  packet : List Word := []
  /-- Body start, body end and passes left of a REP. -/
  rep : Option (Nat × Nat × Nat) := none
  /-- Records emitted: kind, address and patch. -/
  chain : List (Nat × Word × Option Word) := []
  ops : Nat := 0
  deriving DecidableEq, Repr

/-- A message to the outside: host, fabric manager, management controller, other modules. -/
inductive Output where
  /-- MSI-X vector of a function (21 R407). -/
  | msix (fn vec : Nat)
  /-- MCTP event with a function and a word (21 R349). -/
  | mctp (fn : Nat) (w : Word)
  /-- Answer to a portal write: accepted or retry (20 R326). -/
  | portal (accepted : Bool)
  /-- Unsupported Request (20 R325). -/
  | unsupported
  /-- Whether a register write was refused (21 R339, R342, 18 R406). -/
  | refusedWrite
  /-- An answer to a read, over the side band or of SPDM. -/
  | answer (ws : List Word)
  /-- A message forwarded on a fabric port, on a virtual channel of its class (18 R312, R314). -/
  | fabric (port ch : Nat) (m : Msg)
  /-- Firmware is told that a link is down (18 R309). -/
  | linkDown (link : Nat)
  deriving DecidableEq, Repr

/-- The hub die (01 R15). -/
structure Hub where
  /-- Route table (18 R313). -/
  route : PMap Word := []
  /-- MODID (18 R406). -/
  modid : BitVec 11 := 0
  /-- Fabric ports that are down (18 R314). -/
  portsDown : List Nat := []
  /-- Fabric messages at the package router. -/
  fabQ : List Msg := []
  sload0 : Word := 0
  sload1 : Word := 0
  sloadSt : Word := 0
  loading : Option Loading := none
  interp : Option Interp := none
  /-- CYCLE_G from which on the interpreter executes its next operation or takes its next packet (20 R330, R331). -/
  interpAt : Nat := 0
  /-- Function that the interpreter asks first, and the queue that comes first among equals, key 4 x function + QPRIO (20
  R331). -/
  rrFn : Nat := 0
  rrQueue : PMap Nat := []
  /-- FWACT, CKCTL (26 R398, R404). -/
  fwact : Word := 0
  ckctl : Word := 0
  /-- A checkpoint copies to this host address. -/
  copying : Option Nat := none
  /-- An activation waits until everything is drained: the FWACT word it was ordered with (26 R399). -/
  activating : Option Word := none
  /-- Boot slots: image and valid bit; slot B boots when `bootB` (26 R396, R397). -/
  slotA : List Byte × Bool := ([], true)
  slotB : List Byte × Bool := ([], false)
  bootB : Bool := false
  modLog : List Word := []
  /-- VF Enable of SR-IOV (21 R350). -/
  vfEnable : Bool := true
  /-- Host pages to which ATS refuses access, by function: reads, writes (21 R345). -/
  atsDeny : List (Nat × Nat × Bool) := []
  stopped : Bool := false
  deriving DecidableEq, Repr

/-- What the host or the management controller reads (00 R1, R7, 20 R325, 18 R310): the part number and revision, a portal, the
QCTL or QSTAT of a queue and a register of BAR0 by offset, and a link's LSTAT. -/
inductive HostRead where
  | part
  | portal (fn q : Nat)
  | queue (fn q off : Nat)
  | bar0 (fn off : Nat)
  | lstat (link : Nat)
  deriving DecidableEq, Repr

/-- What moves next, chosen from outside the machine (log 4). -/
inductive Choice where
  /-- A step of the table that no slot word encodes. -/
  | event (i : Instr)
  /-- A context issues its next bundle. -/
  | issue (cx : Nat)
  /-- The matrix port takes the next slot that waits for it (08 R148). -/
  | port (cx : Nat)
  /-- Message k of a die moves on to the next core router (01 R17). -/
  | ride (die k : Nat)
  /-- The engine of a started job makes its next access (15 R269, R271). -/
  | engine (vdie : Nat) (id : BitVec 32)
  /-- Firmware gives a virtual core another physical core of its die (01 R13). -/
  | mapCore (fn vcore core : Nat)
  /-- Message `k` of a collective takes effect at the core that it has come to (15 R286, 24 R387). -/
  | nest (core k : Nat)
  /-- The leaf routers of a tree process the first held post whose banks are free (15 R280, 12 R231). -/
  | post (fn tree : Nat)
  /-- The sett interpreter executes its next operation. -/
  | sett
  /-- A message from another module reaches the package router. -/
  | arrive (m : Msg)
  /-- A read by the host or over the side band. -/
  | read (r : HostRead)
  /-- The activation under way goes on once everything is drained (26 R399). -/
  | activation
  deriving DecidableEq, Repr

/-- The module. -/
structure State where
  /-- Bytes of every storage, by storage key; an unlisted byte is zero (log 2). -/
  mem : List Host.Cell := []
  /-- Stamp of the last write of each byte (11 R196). -/
  stamps : PMap Clock := []
  /-- Poisoned granules, by storage key of their first byte (23 R365). -/
  poison : List Nat := []
  /-- CYCLE_G (01 R18). -/
  cycleG : Nat := 0
  /-- Contexts, key 4 x physical core + context. -/
  ctxs : PMap Ctx := []
  /-- Cores, key 16 x physical die + core. -/
  cores : PMap Core := []
  pdies : PMap PDie := []
  vdies : PMap VDie := []
  fns : PMap Fn := []
  links : PMap Link := []
  hub : Hub := {}
  /-- Physical die of each virtual die; an unlisted die maps to itself (log 10). -/
  remap : PMap Nat := []
  /-- The context whose slots run. -/
  cur : Nat := 0
  agenda : List Choice := []
  /-- Counter of free values (log 3). -/
  freeCtr : Nat := 0
  out : List Output := []
  deriving DecidableEq, Repr

/-- PRNG that grants every block and every MiB (21 R342). -/
def prngAll : Word := 0x81FF00008000_3F00#64

/-- The PF after reset: every core and every range (21 R339, R342). -/
def pfReset : Fn :=
  { pcore := BitVec.allOnes 128, vmap := (List.range 128).map (fun n => (n, n)),
    prng := (List.range 8).map (fun d => (d, prngAll)) }

/-- A trained link (18 R309). -/
def linkUp : Link := { state := 2 }

/-- Bonded links: five of each die but UCIe module 3, and the hub's eight (18 R307, R310). -/
def linksReset : PMap Link :=
  ((List.range 48).filter (fun i => i ≥ 40 || i % 5 ≠ 3)).map (fun i => (i, linkUp))

/-- A die or the hub after reset: PWRLIM as firmware loads it (26 R402, log 9). -/
def pdieReset : PDie := { pwrLim := Config.boardLim.setWidth 64 }

/-- The module right after reset (26 R396). -/
def State.reset : State :=
  { pdies := (List.range 8).map (fun d => (d, pdieReset)),
    fns := [(0, pfReset)],
    links := linksReset,
    hub := { modid := Config.boardModid } }

end Sys2Proof.Machine
end

