-- ==== Sys2Proof/Machine/Ops.lean ====
section
/-!
DEFINITION. Named operations over the state: access to its records, registers, bytes of storage, addresses and
their windows, grants, the waiting of a form, taking a trap and returning from a halt.
-/
namespace Sys2Proof.Machine
open Store

/-- The outcome of a step. -/
abbrev Out := Host.Outcome State Fault Refusal

/-! ### Records of the state -/

/-- Context `i`. -/
def State.ctx (s : State) (i : Nat) : Ctx := rd {} s.ctxs i
/-- Replaces context `i`. -/
def State.setCtx (s : State) (i : Nat) (c : Ctx) : State := { s with ctxs := put s.ctxs i c }
/-- The executing context. -/
def State.me (s : State) : Ctx := s.ctx s.cur
/-- Updates the executing context. -/
def State.mod (s : State) (f : Ctx → Ctx) : State := s.setCtx s.cur (f s.me)
/-- Core `i`. -/
def State.core (s : State) (i : Nat) : Core := rd {} s.cores i
/-- Updates core `i`. -/
def State.modCore (s : State) (i : Nat) (f : Core → Core) : State := { s with cores := put s.cores i (f (s.core i)) }
/-- Physical die `d`, or the hub at 8. -/
def State.pdie (s : State) (d : Nat) : PDie := rd {} s.pdies d
/-- Updates physical die `d`. -/
def State.modPdie (s : State) (d : Nat) (f : PDie → PDie) : State := { s with pdies := put s.pdies d (f (s.pdie d)) }
/-- Virtual die `d`. -/
def State.vdie (s : State) (d : Nat) : VDie := rd {} s.vdies d
/-- Updates virtual die `d`. -/
def State.modVdie (s : State) (d : Nat) (f : VDie → VDie) : State := { s with vdies := put s.vdies d (f (s.vdie d)) }
/-- Function `f`. -/
def State.fn (s : State) (f : Nat) : Fn := rd {} s.fns f
/-- Updates function `f`. -/
def State.modFn (s : State) (f : Nat) (g : Fn → Fn) : State := { s with fns := put s.fns f (g (s.fn f)) }
/-- Sends messages to the outside. -/
def State.send (s : State) (os : List Output) : State := { s with out := s.out ++ os }

/-- Physical core of a context. -/
def coreOf (cx : Nat) : Nat := cx / 4
/-- Physical die of a context. -/
def dieOf (cx : Nat) : Nat := cx / 64
/-- Physical die behind virtual die `d`; the hub stays the hub (01 R17). -/
def State.phys (s : State) (d : Nat) : Nat := if d ≥ 8 then 8 else rd d s.remap d

/-- Function of the executing context; a context without a task counts as the PF's. -/
def State.myFn (s : State) : Nat := match s.me.task with | some t => t.fn | none => 0
/-- Virtual die of the executing context. -/
def State.myVdie (s : State) : Nat := match s.me.task with | some t => t.vdie | none => 0
/-- Virtual core number 0-15 of the executing context. -/
def State.myCore (s : State) : Nat := match s.me.task with | some t => t.vcore | none => 0
/-- Whether the executing context has privilege (03 R47). -/
def State.myPriv (s : State) : Bool := match s.me.task with | some t => t.priv | none => false
/-- A bit of the launch's word at offset 32 (14 R246). -/
def State.myFlag (s : State) (i : Nat) : Bool := match s.me.task with | some t => t.lflags.getLsbD i | none => false
/-- Checking on (02 R42, R43). -/
def State.checking (s : State) : Bool := s.myFlag 27

/-! ### Registers: reads see the registers before the bundle (02 R28), s0 and p0 are wired (R37) -/

/-- Read of s n. -/
def rS (s : State) (n : BitVec 6) : Word := if n = 0 then 0 else rd 0 s.me.iss.view.s n.toNat
/-- Write of s n. -/
def wS (s : State) (n : BitVec 6) (x : Word) : State :=
  if n = 0 then s else s.mod fun c => { c with regs := { c.regs with s := wr 0 c.regs.s n.toNat x } }
/-- Read of a n. -/
def rA (s : State) (n : Nat) : Word := rd 0 s.me.iss.view.a n
/-- Write of a n. -/
def wA (s : State) (n : Nat) (x : Word) : State :=
  s.mod fun c => { c with regs := { c.regs with a := wr 0 c.regs.a n x } }
/-- Predicate register named by a 6-bit field and the bank bit (02 R33). -/
def pNum (bank : Bool) (f : BitVec 6) : Nat := if bank then 32 + f.toNat else f.toNat
/-- Read of p n. -/
def rP (s : State) (n : Nat) : Bool := if n = 0 then true else rd false s.me.iss.view.p n
/-- Write of p n. -/
def wP (s : State) (n : Nat) (x : Bool) : State :=
  if n = 0 then s else s.mod fun c => { c with regs := { c.regs with p := wr false c.regs.p n x } }
/-- Read of k n. -/
def rK (s : State) (n : Nat) : KMask := rd 0 s.me.iss.view.k n
/-- Write of k n. -/
def wK (s : State) (n : Nat) (x : KMask) : State :=
  s.mod fun c => { c with regs := { c.regs with k := wr 0 c.regs.k n x } }
/-- Bit n of a v-register bitmap. -/
def bit32 (n : Nat) : BitVec 32 := BitVec.ofNat 32 (2 ^ n)
/-- Whether v n is killed (07 R122). -/
def isDead (s : State) (n : Nat) : Bool := s.me.iss.view.dead.getLsbD n
/-- Read of v n: a killed register reads zero (02 R43). -/
def rV (s : State) (n : Nat) : VReg := if isDead s n then 0 else rd 0 s.me.iss.view.v n
/-- Write of v n, which revives it (02 R43). -/
def wV (s : State) (n : Nat) (x : VReg) : State :=
  s.mod fun c => { c with
    regs := { c.regs with v := wr 0 c.regs.v n x, dead := c.regs.dead &&& ~~~ bit32 n },
    iss := { c.iss with wrote := c.iss.wrote ||| bit32 n } }
/-- Contents of v n that a narrow write keeps (02 R38): zero when v n was killed before the bundle and nothing has revived it
since (07 R122). -/
def keepV (s : State) (n : Nat) : VReg := if isDead s n && s.me.regs.dead.getLsbD n then 0 else rd 0 s.me.regs.v n
/-- Writes the low `w` bits of v n of a context outside the slots of a bundle, as a delivery does: the rest is kept as the
register now stands, zero when it is killed (02 R38, 07 R122), and the register is revived. -/
def landV (n w x : Nat) (c : Ctx) : Ctx :=
  let old : VReg := if c.regs.dead.getLsbD n then 0 else rd 0 c.regs.v n
  { c with regs := { c.regs with
      v := wr 0 c.regs.v n (BitVec.ofNat 1024 (old.toNat / 2 ^ w * 2 ^ w + x % 2 ^ w)), dead := c.regs.dead &&& ~~~ bit32 n } }
/-- Kills v n after its last use, unless a slot of the bundle writes it (02 R43). -/
def kill (n : Nat) (s : State) : State :=
  s.mod fun c =>
    if c.iss.wrote.getLsbD n then c else { c with regs := { c.regs with dead := c.regs.dead ||| bit32 n } }

/-- Register keys: s, a, p, k, v, lc, format entries, accumulator tiles, landing slots, main rows. -/
def keyS (n : Nat) : Nat := n
def keyA (n : Nat) : Nat := 64 + n
def keyP (n : Nat) : Nat := 96 + n
def keyK (n : Nat) : Nat := 192 + n
def keyV (n : Nat) : Nat := 208 + n
def keyLc (n : Nat) : Nat := 240 + n
def keyFt (n : Nat) : Nat := 244 + n
def keyZ (n : Nat) : Nat := 260 + n
def keyLs (n : Nat) : Nat := 264 + n
def keyM (n : Nat) : Nat := 328 + n

/-! ### Bytes -/

/-- Little-endian value of a byte list (00 R5). -/
def ofBytes : List Byte → Nat
  | [] => 0
  | b :: bs => b.toNat + 256 * ofBytes bs

/-- The `n` low bytes of a number, lowest first. -/
def toBytes : Nat → Nat → List Byte
  | 0, _ => []
  | n + 1, x => BitVec.ofNat 8 x :: toBytes n (x / 256)

/-- `n` consecutive numbers from `k`. -/
def span : Nat → Nat → List Nat
  | _, 0 => []
  | k, n + 1 => k :: span (k + 1) n

/-! ### Storage keys -/

/-- DRAM of a tower: 64 GiB each (01 R11, 10 R174). -/
def keyDram (pdie off : Nat) : Nat := pdie * 2 ^ 36 + off
/-- Die shared memory: 64 MiB each (10 R173). -/
def keyShared (pdie off : Nat) : Nat := 2 ^ 40 + pdie * 2 ^ 26 + off
/-- Scratchpads: 8 MiB for each physical core (10 R172). -/
def keyScratch (core off : Nat) : Nat := 2 ^ 41 + core * 2 ^ 23 + off
/-- B-slices: 192 columns of 128 KiB for each physical core (08 R150). -/
def keyBslice (core col off : Nat) : Nat := 2 ^ 42 + (core * 256 + col) * 2 ^ 17 + off
/-- Host memory (10 R175). -/
def keyHost (addr : Nat) : Nat := 2 ^ 65 + addr

/-- Storage kinds of R365; 0 for host memory. -/
def keyKind (k : Nat) : Nat :=
  if k < 2 ^ 40 then 3 else if k < 2 ^ 41 then 2 else if k < 2 ^ 42 then 1 else if k < 2 ^ 65 then 4 else 0
/-- ECC granule of a kind in bytes (23 R365). -/
def granule (k : Nat) : Nat := if keyKind k = 1 ∨ keyKind k = 2 then 8 else 32
/-- Physical die whose storage the key lies in; 8 for the host. -/
def keyDie (k : Nat) : Nat :=
  match keyKind k with
  | 3 => k / 2 ^ 36
  | 2 => (k - 2 ^ 40) / 2 ^ 26
  | 1 => (k - 2 ^ 41) / 2 ^ 27
  | 4 => (k - 2 ^ 42) / 2 ^ 29
  | _ => 8

/-! ### Memory: canonical lists of listed bytes -/

/-- The canonical form of memory: addresses rising and no listed zero. -/
def Memory.wf (m : List Host.Cell) : Bool := canon (0 : Byte) m

/-- One byte. -/
def State.byte (s : State) (k : Nat) : Byte := rd (0 : Byte) s.mem k

/-- `n` bytes from key `k`. -/
def State.bytes (s : State) (k n : Nat) : List Byte := (span k n).map s.byte

/-- Writes bytes from key `k`. -/
def Memory.store : List Host.Cell → Nat → List Byte → List Host.Cell
  | m, _, [] => m
  | m, k, b :: bs => Memory.store (wr (0 : Byte) m k b) (k + 1) bs

/-- Stamps bytes from key `k`. -/
def stampBytes : PMap Clock → Nat → Nat → Clock → PMap Clock
  | m, _, 0, _ => m
  | m, k, n + 1, v => stampBytes (wr [] m k v) (k + 1) n v

/-- Entry-by-entry larger of two clocks, as 32-bit serial numbers (11 R196). -/
def below (a b : BitVec 32) : Bool := decide (1 ≤ (b - a).toNat) && decide ((b - a).toNat ≤ 2 ^ 31 - 1)
def clkGet (c : Clock) (d : Nat) : BitVec 32 := rd 0 c d
def clkMerge (a b : Clock) : Clock :=
  (List.range 8).foldl (fun c d => if below (clkGet c d) (clkGet b d) then wr 0 c d (clkGet b d) else c) a
/-- Whether `F` covers clock `C` in every entry. -/
def clkCovers (F C : Clock) : Bool := (List.range 8).all fun d => !below (clkGet F d) (clkGet C d)

/-- Merged stamp of the last writes of some bytes. -/
def State.stampKeys (s : State) (ks : List Nat) : Clock :=
  if s.stamps.isEmpty then [] else ks.foldl (fun c k => clkMerge c (rd [] s.stamps k)) []

/-- Merged stamp of the last writes of `n` bytes. -/
def State.stampOf (s : State) (k n : Nat) : Clock :=
  if s.stamps.isEmpty then [] else (span k n).foldl (fun c i => clkMerge c (rd [] s.stamps i)) []

/-- Whether any of `n` bytes lies in a poisoned granule (23 R365). -/
def State.poisoned (s : State) (k n : Nat) : Bool :=
  s.poison.any fun g => decide (g < k + n) && decide (k < g + granule g)

/-- A write of whole granules clears their poison; a partial write leaves it (23 R365). -/
def clearPoison (p : List Nat) (k n : Nat) : List Nat :=
  p.filter fun g => !(decide (k ≤ g) && decide (g + granule g ≤ k + n))

/-! ### Elided regions (12 R234) -/

/-- Blocks of 64 bytes that `n` bytes from `k` touch. -/
def blocks (k n : Nat) : List Nat := if n = 0 then [] else span (k / 64) ((k + n - 1) / 64 - k / 64 + 1)

/-- Abort of an elided region: buffered stores go, the saved registers return, sd holds 0x100 | cause, and the
context resumes at the bundle after XBEGIN's (12 R233). -/
def abortCtx (cause : BitVec 8) (c : Ctx) : Ctx :=
  match c.region with
  | .elided e =>
    { c with
      region := .none, aborts := min 4 (c.aborts + 1),
      regs := { c.regs with
        s := if e.dest = 0 then e.s else wr 0 e.s e.dest (0x100#64 ||| cause.setWidth 64)
        a := e.a, p := e.p },
      wait := [], waitKey := none,
      pc := e.resume,
      iss := { c.iss with target := some e.resume, aborted := true } }
  | _ => c

/-- Whether an access of another agent conflicts with a region (12 R234 cause 0x01). -/
def conflicts (c : Ctx) (bs : List Nat) (write : Bool) : Bool :=
  match c.region with
  | .elided e => bs.any fun b => e.wset.contains b || (write && e.rset.contains b)
  | _ => false

/-- Another agent's access: every region it conflicts with aborts. `by_` is the accessing context, if one. -/
def State.touch (s : State) (by_ : Option Nat) (k n : Nat) (write : Bool) : State :=
  let bs := blocks k n
  { s with ctxs := mapVals (fun i c =>
      if by_ ≠ some i ∧ conflicts c bs write then abortCtx 0x01 c else c) s.ctxs }

/-- A write that takes effect at its home: bytes, stamps, poison and conflicts. -/
def State.store (s : State) (by_ : Option Nat) (k : Nat) (bs : List Byte) (stamp : Clock) : State :=
  let s := s.touch by_ k bs.length true
  { s with mem := Memory.store s.mem k bs, stamps := stampBytes s.stamps k bs.length stamp,
           poison := clearPoison s.poison k bs.length }

/-! ### Addresses (10 R168, 06 R103) -/

/-- Base of a window. -/
def winBase : Window → Nat
  | .device => 0
  | .local_ => 0x0001_0000_0000_0000
  | .peer => 0x0001_0000_0800_0000
  | .shared => 0x0001_0000_2000_0000
  | .fabric => 0x0040_0000_0000_0000

/-- Size of a window. -/
def winSize : Window → Nat
  | .device => 2 ^ 48
  | .local_ => 2 ^ 23
  | .peer => 2 ^ 27
  | .shared => 2 ^ 29
  | .fabric => 2 ^ 54

/-- Whether an address lies in a window. -/
def inWindow (w : Window) (a : Nat) : Bool := decide (winBase w ≤ a) && decide (a < winBase w + winSize w)

/-- The window of a generic address and its relative form; none outside every window. -/
def window (a : Word) : Option (Window × Nat) :=
  [Window.device, .local_, .peer, .shared, .fabric].findSome? fun w =>
    if inWindow w a.toNat then some (w, a.toNat - winBase w) else none

/-! ### Grants (21 R342, R343) -/

/-- PRNG of a function and virtual die. -/
def State.prngOf (s : State) (f d : Nat) : Word := rd 0 (s.fn f).prng d
/-- Offset of die shared memory granted to the function. -/
def State.grantShared (s : State) (f d off : Nat) : Bool :=
  let p := s.prngOf f d
  p.getLsbD 31 && decide ((p.extractLsb' 0 6).toNat ≤ off / 2 ^ 20) && decide (off / 2 ^ 20 ≤ (p.extractLsb' 8 6).toNat)
/-- DRAM offset granted to the function. -/
def State.grantDram (s : State) (f d off : Nat) : Bool :=
  let p := s.prngOf f d
  p.getLsbD 63 && decide ((p.extractLsb' 32 9).toNat ≤ off / 2 ^ 27) && decide (off / 2 ^ 27 ≤ (p.extractLsb' 48 9).toNat)

/-- Physical core of a virtual core of a function (01 R13, 21 R340). -/
def State.vcorePhys (s : State) (f vdie core : Nat) : Option Nat :=
  (look (s.fn f).vmap (16 * vdie + core)).map fun j =>
    16 * s.phys vdie + j % 16

/-! ### Waiting -/

/-- The form waits: its slot is run again when the context gets its turn. -/
def waitFor (i : Instr) (s : State) : Out := .next (s.mod fun c => { c with wait := c.wait ++ [(c.iss.slot, i)] })

/-! ### Halts, freezes and stop records (23 R361 to R363, 21 R347 to R349) -/

/-- Trap codes that freeze the function (21 R347). -/
def freezing (code : BitVec 8) : Bool := code = 0x03 || code = 0x04 || code = 0x06 || code = 0x10

/-- FSTAT.STATE (21 R348): 0 running, 1 frozen, 2 in reset, 3 no core granted. -/
def fstate (f : Fn) : BitVec 64 :=
  if f.resetting then 2 else if f.frozen then 1 else if f.pcore = 0 then 3 else 0

/-- The FSTAT word. -/
def fstatWord (f : Fn) : Word := (f.fcause.setWidth 64 <<< 2) ||| fstate f

/-- FSTAT bits 63:2 of a cause and its master: virtual die, core, context, engine. -/
def fcauseOf (cause : BitVec 8) (vdie core cx : Nat) (eng : Bool) : BitVec 62 :=
  ((cause.setWidth 62) <<< 54) ||| (BitVec.ofNat 62 vdie <<< 43) ||| (BitVec.ofNat 62 core <<< 39)
    ||| (BitVec.ofNat 62 cx <<< 37) ||| (BitVec.ofNat 62 (if eng then 1 else 0) <<< 36)

/-- A member entry (15 R274). -/
def memberOf (w : Word) : Member :=
  { rank := (w.extractLsb' 40 12).toNat, modid := (w.extractLsb' 18 11).toNat,
    vdie := (w.extractLsb' 15 3).toNat, core := (w.extractLsb' 11 4).toNat }

/-- The handle of a tree at an index (15 R273). -/
def handleOf (i : Nat) (t : Tree) : BitVec 32 := BitVec.ofNat 32 (t.kind * 2 ^ 30 + i * 2 ^ 16 + t.gen)

/-- Other modules with members of a tree. -/
def otherMods (s : State) (t : Tree) : List Nat :=
  ((t.members ++ t.edits.map fun e => memberOf e.word1).map (·.modid)).eraseDups.filter (· ≠ s.hub.modid.toNat)

/-- A message that tells another module of a tree. -/
def treeMsg (f : Nat) (h : BitVec 32) (c : TreeCmd) (m : Nat) (s : State) : Msg :=
  { dst := 8, body := .treeCmd f h s.hub.modid.toNat c, born := s.cycleG, toMod := some m }

/-- Whether an order at hub cycle `now` freezes a tree: an ACTIVE one, or one that its timer froze in this very cycle (15 R280,
24 R381). -/
def Tree.takesOrder (now : Nat) (t : Tree) : Bool :=
  t.valid && (decide (t.state = 0) || (decide (t.state = 1) && t.byStall && decide (t.stallAt = now)))

/-- A tree frozen by order; `halt` says that a halt gave it (24 R381, R382). -/
def Tree.ordered (halt : Bool) (now : Nat) (t : Tree) : Tree :=
  if t.takesOrder now then { t with state := 1, byStall := false, byHalt := halt } else t

/-- The trees of a function freeze as TRFRZ freezes them, in the other modules of each too (21 R347, 23 R361). -/
def freezeTrees (f : Nat) (s : State) : State :=
  let told := (s.fn f).trees.flatMap fun t => if t.2.takesOrder s.cycleG then
    (otherMods s t.2).map fun m => treeMsg f (handleOf t.1 t.2) (.freeze false) m s else []
  let s := s.modFn f fun g => { g with trees := mapVals (fun _ t => t.ordered true s.cycleG) g.trees }
  { s with hub := { s.hub with fabQ := s.hub.fabQ ++ told } }

/-- The partition's halt line rises, once for each halt. -/
def raiseHalt (f : Nat) (vec0 : Bool) (s : State) : State :=
  if (s.fn f).halted then s
  else
    let s := freezeTrees f (s.modFn f fun g => { g with halted := true, haltAt := s.cycleG, haltDies := List.range 8 })
    if vec0 then s.send [.msix f 0] else s

/-- The hub has broadcast the halt line of a function, 16 hub cycles, and 256 core cycles have gone by since it came to a
virtual die: by then every unit of the function there has stopped (23 R361). -/
def haltOverdue (s : State) (f v : Nat) : Bool :=
  let g := s.fn f
  g.halted && g.haltDies.contains v && decide (s.cycleG > g.haltAt + 144)

/-- Place of a freezing cause among those of one hub cycle: traps before orders, and of traps the lowest virtual die first,
contexts before engines, core, context (21 R349). -/
def causeOrder (c : BitVec 62) : Nat :=
  if (c.extractLsb' 54 8).toNat ≥ 0x20 then 2 ^ 16
  else (c.extractLsb' 43 3).toNat * 128 + (c.extractLsb' 36 1).toNat * 64 + (c.extractLsb' 39 4).toNat * 4 + (c.extractLsb' 37 2).toNat

/-- The last message that carries `x` carries `y`. -/
def reword (x y : Output) (l : List Output) : List Output :=
  match l.reverse.span (fun o => decide (o ≠ x)) with
  | (a, _ :: b) => (a ++ y :: b).reverse
  | _ => l

/-- The cause of a freeze gives way to another of the same hub cycle; FSTAT and the message about the freeze follow. -/
def recause (f : Nat) (cause : BitVec 62) (s : State) : State :=
  let old := fstatWord (s.fn f)
  let s := s.modFn f fun g => { g with fcause := cause }
  { s with out := reword (.mctp f old) (.mctp f (fstatWord (s.fn f))) s.out }

/-- A freeze with its cause: FSTAT keeps the first cause, within one hub cycle the one that comes first by R349; the queues
stop, the messages go out. -/
def freezeFn (f : Nat) (cause : BitVec 62) (vec0 : Bool) (s : State) : State :=
  let g := s.fn f
  if g.frozen then (if g.frozenAt = s.cycleG ∧ causeOrder cause < causeOrder g.fcause then recause f cause s else s)
  else
    let s := raiseHalt f false s
    let s := freezeTrees f (s.modFn f fun g =>
      { g with frozen := true, frozenAt := s.cycleG, fcause := cause, haltDies := List.range 8 })
    let s := { s with hub := { s.hub with interp :=
      match s.hub.interp with
      | some i => if i.fn = f then none else some i
      | none => none } }
    s.send ((if vec0 then [.msix f 0] else []) ++ [.msix 0 1, .mctp f (fstatWord (s.fn f))])

/-- Place of a stop record behind record 0: by virtual die, contexts before engines, core, context (23 R363). -/
def recOrder (r : List Word) : Nat :=
  let w := r.getD 0 0
  (w.extractLsb' 42 3).toNat * 1024 + (w.extractLsb' 45 3).toNat * 128 + (w.extractLsb' 38 4).toNat * 4
    + (w.extractLsb' 36 2).toNat

/-- Inserts a record behind the ones that come before it. -/
def insertRec (r : List Word) : List (List Word) → List (List Word)
  | [] => [r]
  | q :: qs => if recOrder r < recOrder q then r :: q :: qs else q :: insertRec r qs

/-- Adds a stop record; the first of a halt is record 0 with FIRST set, and 1,024 are held. -/
def addRec (r : List Word) (f : Fn) : Fn :=
  match f.recs with
  | [] => { f with recs := [match r with | w :: ws => (w ||| 0x1_0000_0000#64) :: ws | [] => []] }
  | q :: qs => if f.recs.length ≥ 1024 then f else { f with recs := q :: insertRec r qs }

/-- Word 0 of a stop record. -/
def recWord0 (code : BitVec 8) (mask : BitVec 8) (kind vdie core cx fn : Nat) (detail : BitVec 8) : Word :=
  (code.setWidth 64 <<< 56) ||| ((mask.extractLsb' 0 4).setWidth 64 <<< 52) ||| ((mask.extractLsb' 4 4).setWidth 64 <<< 48)
    ||| (BitVec.ofNat 64 kind <<< 45) ||| (BitVec.ofNat 64 vdie <<< 42) ||| (BitVec.ofNat 64 core <<< 38)
    ||| (BitVec.ofNat 64 cx <<< 36) ||| (BitVec.ofNat 64 fn <<< 33) ||| (detail.setWidth 64 <<< 24)

/-- Word 3 of a stop record: the task's index and its launch. -/
def recTask (n : Nat) (lnch : BitVec 32) : Word := (BitVec.ofNat 64 n <<< 32) ||| lnch.setWidth 64

/-- Stop record of a context that runs a task. -/
def ctxRec (s : State) (i : Nat) (code detail : BitVec 8) (addr stopPc : Word) : List Word :=
  let c := s.ctx i
  match c.task with
  | none => []
  | some t =>
    [ recWord0 code c.trapMask 0 t.vdie t.vcore (i % 4) t.fn detail,
      c.trapPC, addr,
      recTask t.n t.lnch,
      stopPc,
      ((if t.lflags.getLsbD 28 then 1#64 else 0) <<< 63)
        ||| BitVec.ofNat 64 (match c.mat.running with | some r => r.left | none => 0),
      BitVec.ofNat 64 s.cycleG, 0 ]

/-- Whether a record is the one of context `i` and of its task. -/
def recIs (t : Task) (i : Nat) (r : List Word) : Bool :=
  let w := r.getD 0 0
  decide ((w.extractLsb' 45 3).toNat = 0) && decide ((w.extractLsb' 42 3).toNat = t.vdie)
    && decide ((w.extractLsb' 38 4).toNat = t.vcore) && decide ((w.extractLsb' 36 2).toNat = i % 4)
    && decide (r.getD 3 0 = recTask t.n t.lnch)

/-- Rewrites the stop record of a context: a further code of the same bundle (02 R41). -/
def fixRec (t : Task) (i : Nat) (r : List Word) (f : Fn) : Fn :=
  { f with recs := f.recs.map fun q =>
      if recIs t i q then
        match r, q with
        | w :: ws, w0 :: _ => (w ||| (w0 &&& 0x1_0000_0000#64)) :: ws
        | _, _ => q
      else q }

/-- Marks the slots of a further code in the stop record of a context, which keeps its lowest code (02 R41, 23 R363). -/
def markRec (t : Task) (i : Nat) (mask : BitVec 8) (f : Fn) : Fn :=
  { f with recs := f.recs.map fun q =>
      if recIs t i q then
        match q with
        | w :: ws => (w ||| ((mask.extractLsb' 0 4).setWidth 64 <<< 52)) :: ws
        | [] => q
      else q }

/-- Releases the region lock that a locked region of context `i` holds (12 R233). -/
def releaseLock (i : Nat) (s : State) : State :=
  let c := s.ctx i
  match c.task, c.region with
  | some t, .locked =>
    (s.modVdie t.vdie fun d => if look d.locks t.fn = some i then { d with locks := del d.locks t.fn } else d).setCtx i
      { c with region := .none }
  | _, _ => s

/-! ### Where flow goes (06 R108 to R113) -/

/-- Address of a loop's last body bundle. -/
def loopEnd (l : Loop) : Word := l.body + BitVec.ofNat 64 (16 * (l.len - 1))

/-- Whether a bundle address lies in a loop's body. -/
def inBody (l : Loop) (a : Word) : Bool := decide (l.body.toNat ≤ a.toNat) && decide (a.toNat ≤ (loopEnd l).toNat)

/-- Loops that stay active after a taken branch: those whose body, with every outer one, holds the target (06 R112). -/
def loopsKept (t : Word) : List Loop → List Loop
  | [] => []
  | l :: ls =>
    let r := loopsKept t ls
    if r.length = ls.length ∧ inBody l t then l :: r else r

/-- Where flow goes after the bundle at `x` ends: inner control first, an enclosing loop's when the inner ends
(06 R111, R112). Answers the address, the loops and the counters. -/
def flowAfter (x : Word) : List Loop → PMap (BitVec 32) → Word × List Loop × PMap (BitVec 32)
  | [], lc => (x + 16, [], lc)
  | l :: ls, lc =>
    if x = loopEnd l then
      let n := (rd 0 lc l.lc).toNat + 1
      let lc := wr 0 lc l.lc (BitVec.ofNat 32 n)
      if n < l.trip then (l.body, l :: ls, lc) else flowAfter x ls lc
    else (x + 16, l :: ls, lc)

/-- The next pc and the loops of a context whose bundle has run. -/
def endFlow (c : Ctx) : Ctx :=
  match c.iss.target with
  | some t => { c with pc := t, loops := loopsKept t c.loops }
  | none =>
    let (x, ls, lc) := flowAfter (c.iss.after.getD c.iss.pc) c.loops c.regs.lc
    { c with pc := x, loops := ls, regs := { c.regs with lc := lc } }

/-! ### Traps and stop records -/

/-- Address of the bundle that context `i` would issue next. -/
def State.nextPc (s : State) (i : Nat) : Word := let c := s.ctx i; if c.wait.isEmpty then c.pc else (endFlow c).pc

/-- TAKING A TRAP (23 R360, R361, 02 R41): TRAPPC, TRAPCODE and TRAPMASK of context `i` are saved, the context
halts and gives up its region lock and bank hold, its stop record is written, the halt line rises, and a freezing code freezes the function. A further code of
the same bundle keeps the lowest code and marks its slot as well. -/
def trapAt (i : Nat) (pc : Word) (mask code detail : BitVec 8) (addr stopPc : Word) (s : State) : State :=
  let c := s.ctx i
  match c.task with
  | none => s
  | some t =>
    let again := decide (c.mode = .halted)
    let low := decide (again = false) || decide (code.toNat < c.trapCode.toNat)
    let c' := { c with
      mode := .halted, hold := none, trapPC := pc,
      trapCode := if low then code else c.trapCode,
      trapMask := if again then c.trapMask ||| mask else mask,
      iss := { c.iss with codes := code :: c.iss.codes } }
    let s := releaseLock i (s.setCtx i c')
    let r := ctxRec s i c'.trapCode (if low then detail else 0) addr stopPc
    let s := if again then s.modFn t.fn (if low then fixRec t i r else markRec t i mask)
             else s.modFn t.fn (addRec r)
    let s := raiseHalt t.fn (!freezing code) s
    if freezing code then
      if again && (s.fn t.fn).frozen && decide (((s.fn t.fn).fcause.extractLsb' 54 8).toNat > code.toNat)
          && decide (((s.fn t.fn).fcause.extractLsb' 36 18) =
            ((fcauseOf 0 t.vdie t.vcore (i % 4) false).extractLsb' 36 18)) then
        recause t.fn (fcauseOf code t.vdie t.vcore (i % 4) false) s
      else freezeFn t.fn (fcauseOf code t.vdie t.vcore (i % 4) false) (!again) s
    else s

/-- The bit of the executing slot in TRAPMASK.SLOTS. -/
def slotBit (n : Nat) : BitVec 8 := BitVec.ofNat 8 (2 ^ n)

/-- THE TRAP OF AN ACCESS WHOSE TASK HAS LEFT ITS CONTEXT (10 R184, 23 R360, log 11): the stop record names the task as the request
does, the halt line rises and a freezing code freezes the function. The registers of the context take the trap while no other
task has entered. -/
def lateTrap (i : Nat) (r : Req) (code detail : BitVec 8) (s : State) : State :=
  let c := s.ctx i
  let s := if c.serial = r.serial then
    s.setCtx i { c with trapPC := r.pc, trapCode := code, trapMask := slotBit r.slot } else s
  let s := s.modFn r.fn (addRec
    [ recWord0 code (slotBit r.slot) 0 r.vdie r.vcore (i % 4) r.fn detail, r.pc, r.addr, recTask r.tile r.node, 0,
      (if r.restart then 1#64 else 0) <<< 63, BitVec.ofNat 64 s.cycleG, 0 ])
  let s := raiseHalt r.fn (!freezing code) s
  if freezing code then freezeFn r.fn (fcauseOf code r.vdie r.vcore (i % 4) false) true s else s

/-- The executing slot raises a trap at its bundle. -/
def trap (code detail : BitVec 8) (addr : Word) (s : State) : State :=
  trapAt s.cur s.me.iss.pc (slotBit s.me.iss.slot) code detail addr (s.me.iss.pc + 16) s

/-- Whether the executing context is in an elided region. -/
def State.inElided (s : State) : Bool := match s.me.region with | .elided _ => true | _ => false

/-- Abort of the executing context's elided region. -/
def abortMe (cause : BitVec 8) (s : State) : State := s.mod (abortCtx cause)

/-- A fault of an access: in an elided region it aborts the region with cause 0x04 and is not reported (12 R234). -/
def accessFault (code detail : BitVec 8) (addr : Word) (s : State) : State :=
  if s.inElided then abortMe 0x04 s else trap code detail addr s

/-- A form that an elided region does not allow aborts it with cause 0x03 (12 R234). -/
def notElided (s : State) (k : State → Out) : Out := if s.inElided then .next (abortMe 0x03 s) else k s

/-- A privileged form: trap 0x02 without privilege (03 R47). -/
def privileged (s : State) (k : State → Out) : Out := if s.myPriv then k s else .next (trap 0x02 0 0 s)

/-! ### The end of a task -/

/-- Releases what a task holds: region lock, bank hold, landing slots, waits. Registers, tiles and rows keep what the
task left until the next task enters (06 R115, 08 R145, 14 R256). -/
def dropTask (i : Nat) (s : State) : State :=
  let s := releaseLock i s
  let c := s.ctx i
  s.setCtx i { c with
    mode := .free, task := none, loops := [], lbuf := [], region := .none, hold := none, landings := [], wait := [],
    waitKey := none, mat := { c.mat with running := none, armed := none }, port := [], portKeep := [],
    preempt := none, fences := [], staged := none, slackLeft := 0, drainSnap := none, syncClk := none }

/-! ### Time (log 17) -/

/-- `n` core cycles pass, by the clock of physical die `d`: the other dies' clocks and hub time go on with it, hub time at
half the rate. -/
def pass (d n : Nat) (s : State) : State :=
  let t := (s.pdie d).cycle
  let s := { s with
    pdies := mapVals (fun i p => if i = d then p else { p with cycle := p.cycle + n }) s.pdies
    cycleG := s.cycleG + ((t + n) / 2 - t / 2) }
  s.modPdie d fun p => { p with cycle := p.cycle + n }

/-- The moment `t` of hub time has come. -/
def due (t : Nat) (s : State) : State := { s with cycleG := max s.cycleG t }

end Sys2Proof.Machine
end

