-- ==== Sys2Proof/Machine/Access.lean ====
section
/-!
DEFINITION. Translation, locations, requests and messages: how an access reaches its home and how its reply comes
back (10 R168 to R178, 11 R196 to R198, 18 R307 to R320).
-/
namespace Sys2Proof.Machine
open Store

/-! ### Translation (10 R175 to R177, 21 R344, R345) -/

/-- Kinds of access that a leaf's bits permit (10 R176). -/
inductive Acc where | read | write | atomic | fetch
  deriving DecidableEq, Repr

/-- Virtual die and DRAM offset of a translated device address; none when bits 47:39 are not zero (10 R175, R176). -/
def devSplit (a : Nat) : Option (Nat × Nat) := if a < 2 ^ 39 then some (a / 2 ^ 36, a % 2 ^ 36) else none

/-- Reserved fields of a table entry (10 R176). -/
def entryRsv (e : Word) : Bool :=
  decide (e.extractLsb' 48 16 ≠ 0) || decide (e.extractLsb' 8 6 ≠ 0) || decide (e.extractLsb' 5 2 ≠ 0)

/-- Reads a table entry: the table must lie in the function's DRAM range, else 0x03; poison gives 0x10 (21 R345). -/
def State.tableEntry (s : State) (f base idx : Nat) : Except (BitVec 8) Word :=
  match devSplit base with
  | none => .error 0x03
  | some (d, o) =>
    if s.grantDram f d o then
      let k := keyDram (s.phys d) (o + 8 * idx)
      if s.poisoned k 8 then .error 0x10
      else
        let e := BitVec.ofNat 64 (ofBytes (s.bytes k 8))
        if e.getLsbD 0 = false ∨ entryRsv e then .error 0x03 else .ok e
    else .error 0x03

/-- Next-table address of a pointer entry. -/
def nextTable (e : Word) : Nat := (e.extractLsb' 14 34).toNat * 2 ^ 14

/-- The three-level walk from a root: the leaf, and whether it maps a block. -/
def State.walkFrom (s : State) (root : Word) (f va : Nat) : Except (BitVec 8) (Word × Bool) := do
  if root.getLsbD 0 = false then .error 0x03
  let e1 ← s.tableEntry f ((root.extractLsb' 14 34).toNat * 2 ^ 14) (va / 2 ^ 37 % 2 ^ 11)
  if e1.getLsbD 1 = false then .error 0x03
  let e2 ← s.tableEntry f (nextTable e1) (va / 2 ^ 27 % 2 ^ 10)
  if e2.getLsbD 1 = false then
    if e2.extractLsb' 14 2 ≠ 0 ∨ e2.extractLsb' 16 11 ≠ 0 then .error 0x03 else .ok (e2, true)
  else
    let e3 ← s.tableEntry f (nextTable e2) (va / 2 ^ 16 % 2 ^ 11)
    if e3.getLsbD 1 = true ∨ e3.extractLsb' 14 2 ≠ 0 then .error 0x03 else .ok (e3, false)

/-- DETAIL of a fault of a translation: the tables lie in DRAM (23 R363, R365). -/
def walkDetail (code : BitVec 8) : BitVec 8 := if code = 0x10 then 3 else 0

/-- The cached leaf for an address (10 R177). -/
def tlbFind (f va : Nat) : List TlbEntry → Option (Word × Bool)
  | [] => none
  | e :: es =>
    if e.fn = f ∧ (if e.block then e.va / 2 ^ 27 = va / 2 ^ 27 else e.va / 2 ^ 16 = va / 2 ^ 16) then some (e.leaf, e.block)
    else tlbFind f va es

/-- Fills the cache of 256 entries; the oldest entry makes room. -/
def tlbFill (e : TlbEntry) (l : List TlbEntry) : List TlbEntry :=
  (if l.length ≥ 256 then l.drop 1 else l) ++ [e]

/-- What a leaf permits: 0x04 when its bits forbid the access; an atomic never goes to a host page (12 R222). -/
def leafForbids (leaf : Word) : Acc → Bool
  | .read => !leaf.getLsbD 2
  | .write => !leaf.getLsbD 3
  | .atomic => !leaf.getLsbD 2 || !leaf.getLsbD 3 || leaf.getLsbD 7
  | .fetch => !leaf.getLsbD 4

/-- Location that a leaf gives an address, with the checks of 10 R176 and 21 R343, R345. -/
def State.leafLoc (s : State) (f : Nat) (leaf : Word) (block : Bool) (va : Nat) (acc : Acc) : Except (BitVec 8) Loc :=
  let out := if block then (leaf.extractLsb' 27 21).toNat * 2 ^ 27 + va % 2 ^ 27
             else (leaf.extractLsb' 16 32).toNat * 2 ^ 16 + va % 2 ^ 16
  if leaf.getLsbD 7 then
    if leafForbids leaf acc then .error 0x04
    else if s.hub.atsDeny.contains (f, out / 2 ^ 12, decide (acc = .write)) then .error 0x04
    else .ok (.host (Config.atsMap f (out / 2 ^ 12) * 2 ^ 12 + out % 2 ^ 12))
  else match devSplit out with
    | none => .error 0x03
    | some (d, o) =>
      if leafForbids leaf acc ∨ s.grantDram f d o = false then .error 0x04 else .ok (.dram d o)

/-- The leaf of an address from the core's cache, or by a walk from a root. -/
def State.leafFrom (s : State) (root : Word) (core f va : Nat) : Except (BitVec 8) (Word × Bool) :=
  match tlbFind f va (s.core core).tlb with
  | some x => .ok x
  | none => s.walkFrom root f va

/-- The leaf of an address from the core's cache, or by a walk from TROOT as it stands. -/
def State.leafOf (s : State) (core f va : Nat) : Except (BitVec 8) (Word × Bool) := s.leafFrom (s.fn f).troot core f va

/-- Translates at once, through the cache or a walk. -/
def State.xlat (s : State) (core f va : Nat) (acc : Acc) : Except (BitVec 8) Loc := do
  let (leaf, block) ← s.leafOf core f va
  s.leafLoc f leaf block va acc

/-- The cache takes a leaf for an address, unless it has one. -/
def State.fillLeaf (s : State) (core f va : Nat) (x : Word × Bool) : State :=
  match tlbFind f va (s.core core).tlb with
  | some _ => s
  | none => s.modCore core fun c => { c with tlb := tlbFill ⟨f, va, x.2, x.1⟩ c.tlb }

/-- Fills the cache for an address, when a walk succeeds. -/
def State.fill (s : State) (core f va : Nat) : State :=
  match s.leafOf core f va with
  | .ok x => s.fillLeaf core f va x
  | .error _ => s

/-- Storage key of a location of this module. -/
def State.locKey (s : State) : Loc → Nat
  | .dram d o => keyDram (s.phys d) o
  | .shared d o => keyShared (s.phys d) o
  | .host a => keyHost a
  | .fabric _ d o => keyDram d o
  | .object d _ _ => keyDram d 0
  | .near _ k => k

/-- Home of a location: a virtual die, or 8 for the hub (10 R170). -/
def Loc.home : Loc → Nat
  | .dram d _ => d
  | .shared d _ => d
  | .host _ => 8
  | .fabric _ d _ => d
  | .object d _ _ => d
  | .near d _ => d

/-- Location that an agent of function `f` on virtual die `vdie` reaches: engines, record reads, fetches. LOCAL is the
scratchpad of physical core `core`. -/
def State.agentLoc (s : State) (f vdie core : Nat) (a : Word) (acc : Acc) : Except (BitVec 8) Loc :=
  match window a with
  | none => .error 0x06
  | some (.fabric, _) => .error 0x06
  | some (.local_, o) => .ok (.near vdie (keyScratch core o))
  | some (.peer, o) =>
    match s.vcorePhys f vdie (o / 2 ^ 23) with
    | some p => .ok (.near vdie (keyScratch p (o % 2 ^ 23)))
    | none => .error 0x04
  | some (.shared, o) =>
    let d := o / 2 ^ 26
    if s.grantShared f d (o % 2 ^ 26) then .ok (.shared d (o % 2 ^ 26)) else .error 0x04
  | some (.device, va) => s.xlat core f va acc

/-- Storage key of an address of an agent. -/
def State.agentKey (s : State) (f vdie core : Nat) (a : Word) (acc : Acc) : Except (BitVec 8) Nat :=
  (s.agentLoc f vdie core a acc).map s.locKey

/-- Keys of `n` bytes from a generic address, resolved byte by byte where it may cross a page. -/
def State.agentKeys (s : State) (f vdie core : Nat) (a : Word) (acc : Acc) : Nat → Except (BitVec 8) (List Nat)
  | 0 => .ok []
  | n + 1 => do
    let k ← s.agentKey f vdie core a acc
    let ks ← s.agentKeys f vdie core (a + 1) acc n
    .ok (k :: ks)

/-- Reads `n` bytes as an agent; poison gives 0x10. -/
def State.agentRead (s : State) (f vdie core : Nat) (a : Word) (n : Nat) : Except (BitVec 8) (List Byte) := do
  let ks ← s.agentKeys f vdie core a .read n
  if !s.poison.isEmpty && ks.any (fun k => s.poisoned k 1) then .error 0x10 else .ok (ks.map s.byte)

/-- Merged stamp of the bytes that such a read gives; empty when it faults. -/
def State.agentStamp (s : State) (f vdie core : Nat) (a : Word) (n : Nat) : Clock :=
  if s.stamps.isEmpty then [] else match s.agentKeys f vdie core a .read n with
    | .ok ks => s.stampKeys ks
    | .error _ => []

/-- Reads `n` words as an agent, or answers the fault and the address of the first word that has one. -/
def State.agentWords (s : State) (f vdie core : Nat) (a : Word) : Nat → Except (BitVec 8 × Word) (List Word)
  | 0 => .ok []
  | n + 1 =>
    match s.agentRead f vdie core a 8 with
    | .error c => .error (c, a)
    | .ok bs => (s.agentWords f vdie core (a + 8) n).map fun ws => BitVec.ofNat 64 (ofBytes bs) :: ws

/-- The address of the fault that an access of `n` bytes at an address of DEVICE meets, by 8-byte words. -/
def State.faultAt (s : State) (f vdie core : Nat) (a : Word) (acc : Acc) (n : Nat) : Word :=
  let bad (w : Word) : Bool := match s.agentKey f vdie core w acc with
    | .error _ => true
    | .ok k => acc = .read && s.poisoned k 8
  (((List.range (n / 8)).map fun j => a + BitVec.ofNat 64 (8 * j)).find? bad).getD a

/-- An agent's access meets the elided regions of all contexts but its own (12 R234). -/
def State.touchKeys (s : State) (by_ : Option Nat) (ks : List Nat) (write : Bool) : State :=
  if s.ctxs.any fun c => match c.2.region with | .elided _ => true | _ => false then
    ks.foldl (fun s k => s.touch by_ k 1 write) s
  else s

/-- Words of a byte list. -/
def wordsOf : Nat → List Byte → List Word
  | 0, _ => []
  | n + 1, bs => BitVec.ofNat 64 (ofBytes (bs.take 8)) :: wordsOf n (bs.drop 8)

/-- Bytes of words. -/
def bytesOfWords (ws : List Word) : List Byte := ws.flatMap fun w => toBytes 8 w.toNat

/-! ### Clocks (11 R196) -/

/-- A write issued from virtual die `d`: its clock entry rises by one. -/
def bump (d : Nat) (s : State) : State :=
  s.modVdie d fun v => { v with clock := wr 0 v.clock d (clkGet v.clock d + 1) }

/-- Merges a stamp into the clock of virtual die `d`. -/
def mergeClock (d : Nat) (c : Clock) (s : State) : State :=
  if c.isEmpty then s else s.modVdie d fun v => { v with clock := clkMerge v.clock c }

/-- Writes bytes at once by an agent of virtual die `d`, with the stamp of that die (11 R197). -/
def agentStore (d : Nat) (by_ : Option Nat) (k : Nat) (bs : List Byte) (s : State) : State :=
  let s := bump d s
  s.store by_ k bs (s.vdie d).clock

/-- Virtual die behind physical die `p`; the hub stays the hub. -/
def State.virt (s : State) (p : Nat) : Nat := if p ≥ 8 then 8 else ((List.range 8).find? fun v => s.phys v = p).getD p

/-- Non-idempotent requests: they write, perform an atomic, append a call or step a barrier (18 R316). -/
def MemOp.writes : MemOp → Bool
  | .read _ | .barw _ => false
  | _ => true

/-! ### Frontiers at a home (11 R197) -/

/-- What home `h` now knows of the writes of die `f`: up to the predecessor of a write that has come, and up to the
issue figure of a beacon once the last write it names is applied. -/
def rechain (h f : Nat) (s : State) : State :=
  let raise_ (F x : BitVec 32) : BitVec 32 := if below F x then x else F
  let past (F prev n : BitVec 32) : BitVec 32 := if below F prev then F else raise_ F (n - 1)
  let F := clkGet (s.vdie h).front f
  let F := (s.pdie (s.phys h)).pend.foldl (fun F r =>
    if r.op.writes ∧ r.loc.home = h ∧ r.vdie = f then past F r.prev (clkGet r.clk f) else F) F
  let F := s.cores.foldl (fun F k => if k.1 / 16 = s.phys h then k.2.chunks.foldl (fun F x =>
    if !x.clk.isEmpty ∧ x.vdie = f then past F x.prev (clkGet x.clk f) else F) F else F) F
  let F := if below F (rd 0 (s.vdie h).beacLast f) then F else raise_ F (rd 0 (s.vdie h).beacHi f)
  s.modVdie h fun v => { v with front := wr 0 v.front f F }

/-- Home `h` has applied, or dropped, a write of die `f` with sequence number `n`. -/
def frontPast (h f : Nat) (n : BitVec 32) (s : State) : State :=
  rechain h f (s.modVdie h fun v => { v with
    front := if below (clkGet v.front f) n then wr 0 v.front f n else v.front, lastFrom := wr 0 v.lastFrom f n })

/-- A transfer of a loop nest is over: its source die counts it no longer, and a dropped one counts as applied (11 R197, R203). -/
def moveOver (x : Chunk) (s : State) : State :=
  let s := if x.src / 128 = s.hub.modid.toNat then
    s.modPdie x.die fun p => { p with moves := p.moves.filter fun m => m.no ≠ x.no } else s
  if x.clk.isEmpty then s else frontPast (x.rank / 16 % 8) x.vdie (clkGet x.clk x.vdie) s

/-! ### Links (18 R307 to R311) -/

/-- The link on which a router sends toward a die: 3-cube links lowest bit first, or the hub link (01 R17). -/
def hopLink (src dst : Nat) : Nat :=
  if src = 8 then 40 + dst
  else if dst = 8 then src * 5 + 4
  else if src % 2 ≠ dst % 2 then src * 5
  else if src / 2 % 2 ≠ dst / 2 % 2 then src * 5 + 1
  else src * 5 + 2

/-- The router at the far end of a link. -/
def linkEnd (l : Nat) : Nat :=
  if l ≥ 40 then l - 40
  else match l % 5 with
    | 4 => 8
    | 0 => if l / 5 % 2 = 0 then l / 5 + 1 else l / 5 - 1
    | 1 => if l / 5 / 2 % 2 = 0 then l / 5 + 2 else l / 5 - 2
    | _ => if l / 5 / 4 % 2 = 0 then l / 5 + 4 else l / 5 - 4

/-- The other direction of a link. -/
def backLink (l : Nat) : Nat := if l ≥ 40 then (l - 40) * 5 + 4 else if l % 5 = 4 then 40 + l / 5 else linkEnd l * 5 + l % 5

/-- Sends messages as flits while the replay buffer has room and the link is up (18 R308); answers those that wait. -/
def pumpQ (l : Link) : List Msg → Link × List Msg
  | [] => (l, [])
  | m :: ms =>
    if l.state = 2 ∧ l.buf.length < 512 then
      pumpQ { l with txSeq := l.txSeq + 1, buf := l.buf ++ [(l.txSeq, m)], wire := l.wire ++ [(l.txSeq, m)] } ms
    else (l, m :: ms)

/-- A transmitter sends what it can: responses never wait for requests (18 R312). -/
def pump (l : Link) : Link :=
  let (l, rs) := pumpQ l l.respQ
  let (l, qs) := pumpQ l l.sendQ
  { l with respQ := rs, sendQ := qs }

/-- Link `i`. -/
def State.link (s : State) (i : Nat) : Link := rd {} s.links i
/-- Updates link `i` and sends what it may. -/
def State.modLink (s : State) (i : Nat) (f : Link → Link) : State := { s with links := put s.links i (pump (f (s.link i))) }

/-- Response-class bodies (18 R311). -/
def Body.isResponse : Body → Bool
  | .reply _ | .ack _ _ _ | .beacon _ => true
  | _ => false

/-- Marks the outstanding requests of a die that satisfy `p`. -/
def markSent (die : Nat) (p : Sent → Bool) (f : Sent → Sent) (s : State) : State :=
  s.modPdie die fun d => { d with sent := d.sent.map fun q => if p q then f q else q }

/-- The package router accepts a message to another module (11 R203). -/
def acceptMsg (m : Msg) (s : State) : State :=
  let s := { s with hub := { s.hub with fabQ := s.hub.fabQ ++ [m] } }
  match m.body with
  | .req r =>
    if r.srcMod = s.hub.modid.toNat then
      markSent r.srcDie (fun q => decide (q.req.tag = r.tag)) (fun q => { q with accepted := true }) s
    else s
  | .chunk c => moveOver c s
  | _ => s

/-- Puts a message behind the others of its class; a newer beacon of the transmitter's own die replaces the unsent one
(18 R321). -/
def enqueue (own : Bool) (q : List Msg) (m : Msg) : List Msg :=
  match m.body with
  | .beacon b => (if own then q.filter fun x => match x.body with | .beacon c => c.from_ ≠ b.from_ | _ => true else q) ++ [m]
  | _ => q ++ [m]

/-! ### Core routers (01 R13, R16, R17, 18 R312) -/

/-- The next router of a ring of four from `a` toward `b`, by the shorter way and by increasing coordinate when both are
two hops, and whether the message crosses the wraparound link. -/
def ringNext (a b : Nat) : Nat × Bool :=
  if (b + 4 - a) % 4 ≤ 2 then ((a + 1) % 4, decide (a = 3)) else ((a + 3) % 4, decide (a = 0))

/-- A message goes on by one core router: first in x, then in y. It moves to channel 1 of a ring at the wraparound link. -/
def rideNext (r : Ride) : Ride :=
  let x := r.pos % 4
  let y := r.pos / 4
  if x ≠ r.dst % 4 then
    let n := ringNext x (r.dst % 4)
    { r with pos := 4 * y + n.1, ch := if n.1 = r.dst % 4 then 0 else if n.2 then 1 else r.ch }
  else
    let n := ringNext y (r.dst / 4)
    { r with pos := 4 * n.1 + x, ch := if n.2 then 1 else r.ch }

/-- A flit of a tree joins those of the tree. -/
def joinFlit (f : Nat) (h : BitVec 32) (fl : TFlit) (s : State) : State :=
  let idx := (h.extractLsb' 16 14).toNat
  match look (s.fn f).trees idx with
  | some t => if t.valid ∧ t.gen = (h.extractLsb' 0 16).toNat then
      s.modFn f fun g => { g with trees := put g.trees idx { t with flits := t.flits ++ [fl] } } else s
  | none => s

/-- Records forwarded by LNCH and LNCHI wait in this place of the function's banks. -/
def fwdQueue : Nat := 64

/-- Physical core of a rank of this module. -/
def State.rankCore (s : State) (f code : Nat) : Option Nat :=
  if code / 128 = s.hub.modid.toNat then s.vcorePhys f (code / 16 % 8) (code % 16) else none

/-- The core of this module that a tree flit or a transfer is for. -/
def Body.core (s : State) : Body → Option Nat
  | .tree f _ fl => if fl.level = 1 then s.vcorePhys f fl.vdie fl.core else none
  | .chunk c => s.rankCore c.fn c.rank
  | .nest f _ _ dst _ => s.rankCore f dst
  | _ => none

/-- A tree flit or a transfer has come to its router. -/
def settleMsg (m : Msg) (s : State) : State :=
  match m.body with
  | .tree f h fl => joinFlit f h fl s
  | .chunk c => match s.rankCore c.fn c.rank with
    | some k => s.modCore k fun x => { x with chunks := x.chunks ++ [c] }
    | none => moveOver c s
  | .nest f n src dst c => match s.rankCore f dst with
    | some k => s.modCore k fun x => { x with nestIn := x.nestIn ++ [(f, n, src, dst, c)] }
    | none => s
  | .record f v id => s.modFn f fun g => match g.coming.find? fun x => x.1 = v ∧ x.2.2 = id with
    | none => g
    | some x => { g with
        coming := g.coming.erase x
        queues := put g.queues fwdQueue (let q := rd {} g.queues fwdQueue; { q with
          banks := q.banks ++ [(v, .launch, x.2.1, some id)] }) }
  | _ => s

/-- A message enters the core routers of a die at router 0, for a core. -/
def rideIn (die core : Nat) (m : Msg) (s : State) : State :=
  s.modPdie die fun p => { p with rides := p.rides ++ [{ pos := 0, dst := core % 16, leaves := false, msg := m }] }

/-- A message has come to the router of die `x`, or of the hub. -/
def arriveAt (x : Nat) (m : Msg) (s : State) : State :=
  match m.body with
  | .tree _ _ _ | .chunk _ | .nest _ _ _ _ _ | .record _ _ _ => match m.body.core s with
    | some k => if k % 16 = 0 ∨ k / 16 ≠ x then settleMsg m s else rideIn x k m s
    | none => settleMsg m s
  | b => s.modPdie x fun p =>
    if b.isResponse then { p with rinbox := p.rinbox ++ [m] } else { p with inbox := p.inbox ++ [m] }

/-- A copy of a request between modules. -/
def isFabricCopy (s : State) (m : Msg) : Bool :=
  match m.body with
  | .req r => m.toMod.isSome || decide (r.srcMod ≠ s.hub.modid.toNat)
  | _ => false

/-- A copy between modules that is older than 8,192 hub cycles: the router that holds it discards it (18 R319, R320). -/
def Msg.aged (s : State) (m : Msg) : Bool := isFabricCopy s m && decide (s.cycleG > m.born + 8192)

/-- A message is at the router of die `x`: it is there, or goes on by the fixed route (01 R17), unless it has grown too old. A
beacon goes on by each link that leads to a router it is for. -/
def route (x : Nat) (m : Msg) (s : State) : State :=
  if m.aged s then s
  else match m.body with
  | .beacon b =>
    let ds := m.dst :: m.more
    let s := if ds.contains x then arriveAt x { m with dst := x, more := [] } s else s
    ((ds.filter (· ≠ x)).map (hopLink x)).eraseDups.foldl (fun s l =>
      match ds.filter fun d => d ≠ x ∧ hopLink x d = l with
      | [] => s
      | d :: es => s.modLink l fun k =>
          { k with respQ := enqueue (decide (b.from_ = s.virt x)) k.respQ { m with dst := d, more := es } }) s
  | b =>
    if m.dst = x then if m.toMod.isSome ∧ x = 8 then acceptMsg m s else arriveAt x m s
    else s.modLink (hopLink x m.dst) fun l =>
      if b.isResponse then { l with respQ := l.respQ ++ [m] } else { l with sendQ := l.sendQ ++ [m] }

/-- A message leaves a die: the virtual die it is for is translated now (01 R17). -/
def leaveDie (die : Nat) (m : Msg) (s : State) : State :=
  route die (if m.toMod.isSome then { m with dst := 8 } else match m.body with
    | .req r => { m with dst := s.phys r.loc.home }
    | .chunk c => { m with dst := s.phys (c.rank / 16 % 8) }
    | .tree _ _ fl => { m with dst := if fl.level = 3 then 8 else s.phys fl.vdie }
    | .nest _ _ _ dst _ => { m with dst := s.phys (dst / 16 % 8) }
    | .record _ v _ => { m with dst := s.phys v }
    | _ => m) s

/-- A message leaves a core, through the core routers between it and the die router. -/
def sendFrom (core : Nat) (m : Msg) (s : State) : State :=
  if core % 16 = 0 then leaveDie (core / 16) m s
  else s.modPdie (core / 16) fun p => { p with rides := p.rides ++ [{ pos := core % 16, dst := 0, leaves := true, msg := m }] }

/-! ### Requests (11 R196, 18 R315 to R317) -/

/-- An operation that reads: its reply carries the stamp of what it read (11 R195, R198). -/
def MemOp.reads : MemOp → Bool
  | .write _ => false
  | _ => true

/-- Bytes of the location that an operation touches. -/
def MemOp.size : MemOp → Nat
  | .read n => n
  | .write bs => bs.length
  | .atom _ n _ _ => n
  | .rred fl _ _ _ _ => if fl then 4 else 8
  | .barp _ | .bara _ | .barw _ => 16
  | .rocall _ _ _ _ => 0

/-- The module a request goes to, when it is another one. -/
def Loc.other : Loc → Option Nat
  | .fabric m _ _ => some m
  | _ => none

/-- First tag from `t` that no outstanding request holds (18 R316). -/
def freeTag (used : List Nat) (t : Nat) : Nat → Nat
  | 0 => t
  | n + 1 => if used.contains t then freeTag used ((t + 1) % 65536) n else t

/-- A copy of a request. -/
def copyOf (r : Req) (s : State) : Msg :=
  { dst := 8, body := .req r, born := s.cycleG, toMod := r.loc.other, toDie := r.loc.home }

/-- A copy of a request leaves its source die. -/
def sendReq (r : Req) (s : State) : State := leaveDie r.srcDie (copyOf r s) s

/-- The first copy of a request: one of a context starts at its core (01 R17). -/
def sendFirst (r : Req) (s : State) : State :=
  match r.cx with
  | some i => sendFrom (coreOf i) (copyOf r s) s
  | none => sendReq r s

/-- Whether two FABRIC requests touch one 64-byte block of one module (18 R315). -/
def sameBlock (a b : Req) : Bool :=
  match a.loc, b.loc with
  | .fabric m d o, .fabric m' d' o' =>
    m == m' && d == d' && decide (o / 64 ≤ (o' + b.op.size - 1) / 64) && decide (o' / 64 ≤ (o + a.op.size - 1) / 64)
  | _, _ => false

/-- Puts a request among the outstanding ones of its source and sends it, unless R315 holds it back, its function is in reset (21
R350), or every tag is in use (18 R316): such a request has a number past the tags until one is free. -/
def launchReq (r : Req) (s : State) : State :=
  let p := s.pdie r.srcDie
  let used := p.sent.map (·.req.tag)
  let full := decide ((used.filter (· < 65536)).length ≥ 65536)
  let tag := if full then used.foldl Nat.max 65535 + 1 else freeTag used p.tagNext used.length
  let r := { r with tag := tag }
  let held := full || (s.fn r.fn).resetting || p.sent.any fun q => sameBlock q.req r && !q.replied
  let s := s.modPdie r.srcDie fun p =>
    { p with tagNext := (tag + 1) % 65536,
             sent := p.sent ++ [{ req := r, sends := if held then 0 else 1, firstAt := s.cycleG, lastAt := s.cycleG, replied := false,
                                  copies := 0, done := false }] }
  if held then s else sendFirst r s

/-- A request of the executing context, without tag, clock and order of its home. -/
def newReq (loc : Loc) (op : MemOp) (dest : Dest) (addr : Word) (park : Bool) (s : State) : Req :=
  let c := s.me
  { srcMod := s.hub.modid.toNat, srcDie := dieOf s.cur, tag := 0, fn := s.myFn, cx := some s.cur, serial := c.serial,
    vcore := s.myCore, node := match c.task with | some t => t.lnch | none => 0,
    tile := match c.task with | some t => t.n | none => 0, restart := s.myFlag 28,
    loc := loc, op := op, dest := dest, park := park, po := c.po, clk := [], vdie := s.myVdie, prev := 0,
    pc := c.iss.pc, slot := c.iss.slot, addr := addr }

/-- A request is issued: a read takes the die's clock, a write its stamp and its predecessor at the home (11 R196). -/
def stampReq (r : Req) (s : State) : Req × State :=
  let d := r.vdie
  let prev := rd 0 (s.vdie d).lastTo r.loc.home
  let s := if r.op.writes then bump d s else s
  let clk := (s.vdie d).clock
  let s := if r.op.writes ∧ r.loc.other.isNone then
    s.modVdie d fun v => { v with lastTo := wr 0 v.lastTo r.loc.home (clkGet clk d) } else s
  ({ r with clk := clk, prev := prev }, s)

/-- A request is issued and sent. -/
def launchLate (r : Req) (s : State) : State := let (r, s) := stampReq r s; launchReq r s

/-- The executing context issues a request. -/
def request (loc : Loc) (op : MemOp) (dest : Dest) (addr : Word) (park : Bool) (s : State) : State :=
  launchLate (newReq loc op dest addr park s) (s.mod fun c => { c with po := c.po + 1 })

/-- A DEVICE access that misses the translation cache waits for a walk (10 R177): nothing else waits for it. A write takes its
stamp in program order. -/
def requestWalk (va : Nat) (loc : Loc) (op : MemOp) (dest : Dest) (addr : Word) (park ownDie : Bool) (s : State) : State :=
  let r := newReq loc op dest addr park s
  let s := s.mod fun c => { c with po := c.po + 1 }
  let (r, s) := if op.writes then stampReq r s else (r, s)
  s.modPdie r.srcDie fun p => { p with walks := p.walks ++ [⟨coreOf s.cur, r.fn, va, r, op.writes, ownDie, s.cycleG, (s.fn r.fn).troot⟩] }

/-- A request of an engine of virtual die `v`, or its power controller, on behalf of a node: a write of nothing, for the
engine to fill in. -/
def agentReq (v f vcore : Nat) (node : BitVec 32) (loc : Loc) (addr : Word) (s : State) : Req :=
  { srcMod := s.hub.modid.toNat, srcDie := s.phys v, tag := 0, fn := f, cx := none, serial := 0, vcore := vcore, node := node,
    loc := loc, op := .write [], dest := .none, park := false, po := 0, clk := [], vdie := v, prev := 0, pc := 0, slot := 0,
    addr := addr }

/-- A write by such an agent: at once where the die homes a scratchpad, else by a request to its home. -/
def agentWrite (v f vcore : Nat) (node : BitVec 32) (loc : Loc) (addr : Word) (bs : List Byte) (s : State) : State :=
  match loc with
  | .near _ k => agentStore v none k bs s
  | l => launchLate { agentReq v f vcore node l addr s with op := .write bs } s

/-! ### Order within a context (10 R183, 11 R198, R200) -/

/-- A request that reads a location of this module for a context: what comes later in its order comes after it. -/
def Req.awaited (i : Nat) (r : Req) : Bool := decide (r.cx = some i) && r.op.reads && r.loc.other.isNone

/-- Whether a read or atomic that satisfies `p`, of those that a die has sent, has not merged the stamp of its reply yet. -/
def State.readsLeft (s : State) (die : Nat) (p : Req → Bool) : Bool :=
  (s.pdie die).sent.any (fun q => p q.req && !q.merged) || (s.pdie die).walks.any fun w => p w.req

/-- Whether an earlier read or atomic of the executing context has not merged the stamp of its reply yet. What the context
then writes, signals or releases would be seen before that read: it waits (causality, 11 R202). -/
def State.readsOpen (s : State) : Bool := s.readsLeft (dieOf s.cur) (Req.awaited s.cur)

/-- A request by its issuer and its place in the order of that: of a context, or by its tag. -/
def Req.key (r : Req) : Nat × Nat := match r.cx with | some i => (i, r.po) | none => (65536 + r.srcDie, r.tag)

/-! ### FENCEs in progress (12 R235) -/

/-- Bits of a storage set that an address of the executing context falls under; the leaf says whether DEVICE is DRAM or a host
page. -/
def setBits (s : State) (a : Word) : BitVec 6 :=
  match window a with
  | some (.local_, _) => 1
  | some (.peer, _) => 2
  | some (.shared, _) => 4
  | some (.device, va) => match s.leafOf (coreOf s.cur) s.myFn va with
    | .ok (leaf, _) => if leaf.getLsbD 7 then 0x20 else 8
    | .error _ => 8
  | some (.fabric, _) => 0x10
  | none => 0

/-- Whether a FENCE in progress of the executing context holds accesses to the storage of an address. -/
def fenceSets (s : State) (a : Word) : Bool := s.me.fences.any fun f => decide (f.set &&& setBits s a ≠ 0)

/-! ### Frontiers (11 R197, R198) -/

/-- Whether a request is a write of virtual die `d` homed on it and not yet applied. -/
def ownPending (d : Nat) (r : Req) : Bool := r.op.writes && decide (r.vdie = d) && decide (r.loc.home = d) && r.loc.other.isNone

/-- F_h[f]. A home knows its own die's writes at once; other dies it knows through chains and beacons. -/
def State.front (s : State) (h f : Nat) : BitVec 32 :=
  if h = f then
    let p := s.pdie (s.phys h)
    let open_ := (p.sent.filter (fun q => ownPending h q.req && !q.done)).map (·.req) ++
      p.pend.filter (fun r => ownPending h r) ++ (p.walks.map (·.req)).filter (fun r => ownPending h r)
    let now := clkGet (s.vdie h).clock h
    open_.foldl (fun m r => if below (clkGet r.clk h - 1) m then clkGet r.clk h - 1 else m) now
  else clkGet (s.vdie h).front f

/-- The frontier of a home as a clock. -/
def State.frontier (s : State) (h : Nat) : Clock := (List.range 8).foldl (fun c f => wr 0 c f (s.front h f)) []

/-- G_h[f]: the least F_x[f] that h holds over all dies and the hub. -/
def State.frontAll (s : State) (h f : Nat) : BitVec 32 :=
  (List.range 9).foldl (fun m x =>
    let v := if x = h then s.front h f else rd 0 (s.vdie h).frontOf (8 * x + f)
    if below v m then v else m) (s.front h f)

/-- Condition of R197 for applying a write of die `v` with stamp `c` at home `h`. -/
def State.mayStamp (s : State) (h v : Nat) (c : Clock) : Bool :=
  (List.range 8).all fun f => !below (s.frontAll h f) (if f = v then clkGet c f - 1 else clkGet c f)

/-- Condition of R197 for applying a request that writes. -/
def State.mayApply (s : State) (r : Req) : Bool := s.mayStamp r.loc.home r.vdie r.clk

/-- Condition of R198 for serving a read of home `h`, and for merging a stamp at die `h`. -/
def State.covers (s : State) (h : Nat) (c : Clock) : Bool :=
  (List.range 8).all fun f => !below (s.front h f) (clkGet c f)

/-- Whether every home may apply what virtual die `d` writes next (11 R197): an agent of the die that then writes at once writes in
the order of the homes. -/
def State.mayStore (s : State) (d : Nat) : Bool :=
  (List.range 9).all fun h => (List.range 8).all fun f => !below (s.frontAll h f) (clkGet (s.vdie d).clock f)

/-- Every home has applied every write that the clock of virtual die `d` names: what forms and engines wait for that read
storage at once (log 14). -/
def State.settled (s : State) (d : Nat) : Bool :=
  (List.range 9).all fun h => s.covers h (s.vdie d).clock

/-! ### Ways to storage that is reached at once (01 R11, R17; log 14) -/

/-- Whether the links of the fixed route from router `a` to router `b` are up. -/
def State.wayUp (s : State) : Nat → Nat → Nat → Bool
  | 0, a, b => decide (a = b)
  | n + 1, a, b => decide (a = b) || (decide ((s.link (hopLink a b)).state = 2) && s.wayUp n (linkEnd (hopLink a b)) b)

/-- Whether a request comes from router `a` to router `b` and its reply comes back. -/
def State.linked (s : State) (a b : Nat) : Bool := s.wayUp 4 a b && s.wayUp 4 b a

/-- Physical dies whose tables a walk from a root reads. -/
def State.walkDies (s : State) (root : Word) (f va : Nat) : List Nat :=
  let die (b : Nat) : List Nat := ((devSplit b).map fun x => s.phys x.1).toList
  let below_ (b idx : Nat) (k : Nat → List Nat) : List Nat := die b ++ match s.tableEntry f b idx with
    | .ok e => if e.getLsbD 1 then k (nextTable e) else []
    | .error _ => []
  if root.getLsbD 0 = false then []
  else below_ ((root.extractLsb' 14 34).toNat * 2 ^ 14) (va / 2 ^ 37 % 2 ^ 11) fun b =>
    below_ b (va / 2 ^ 27 % 2 ^ 10) fun b => die b

/-- Physical dies that an access of an agent to an address reaches: those of the tables that it walks, and the home. -/
def State.diesOf (s : State) (f vdie core : Nat) (a : Word) (acc : Acc) : List Nat :=
  (match window a with
   | some (.device, va) => if (tlbFind f va (s.core core).tlb).isSome then [] else s.walkDies (s.fn f).troot f va
   | _ => []) ++
  (match s.agentKey f vdie core a acc with
   | .ok k => [keyDie k]
   | .error _ => [])

/-- Whether an agent at router `d` reaches the tables and the homes of `n` bytes: a link that is down or trains holds the access. -/
def State.linkedTo (s : State) (d f vdie core : Nat) (a : Word) (acc : Acc) (n : Nat) : Bool :=
  (List.range (n / 2 ^ 16 + 2)).all fun j =>
    (s.diesOf f vdie core (a + BitVec.ofNat 64 (Nat.min (2 ^ 16 * j) (n - 1))) acc).all (s.linked d)

/-! ### Requests served at once (11 R198) -/

/-- A LOCAL or PEER read of the executing context behind an earlier read that is still open: it is served at once, and its
reply waits at the router for the earlier ones. -/
def requestNear (k n : Nat) (dest : Dest) (addr : Word) (park : Bool) (data : List Byte) (s : State) : State :=
  let r := newReq (.near s.myVdie k) (.read n) dest addr park s
  let clk := (s.vdie s.myVdie).clock
  let p := s.pdie r.srcDie
  let used := p.sent.map (·.req.tag)
  let tag := used.foldl Nat.max 65535 + 1
  let r := { r with tag := tag, clk := clk }
  let rep : Reply := { srcMod := r.srcMod, srcDie := r.srcDie, tag := tag, data := data, stamp := s.stampOf k n, status := 0,
                       trap := 0, detail := 0, copies := 1, cover := wr 0 (s.frontier s.myVdie) s.myVdie (clkGet clk s.myVdie) }
  let s := s.modPdie r.srcDie fun p => { p with
    sent := p.sent ++ [{ req := r, sends := 1, firstAt := s.cycleG, lastAt := s.cycleG, replied := true, copies := 1, done := true,
                         acked := true }]
    waitRep := p.waitRep ++ [rep] }
  mergeClock s.myVdie rep.stamp (s.mod fun c => { c with po := c.po + 1 })

end Sys2Proof.Machine
end

