-- ==== Sys2Proof/Machine/Flags.lean ====
section
/-!
DEFINITION. ASTAT: the bits an operation raises, how they enter the register, and the traps they take (05 R84 to R87).
-/
namespace Sys2Proof.Machine

/-- Status bits of 05 R84. -/
abbrev Status := BitVec 8

def stInv : Status := 0x01
def stOvf : Status := 0x02
def stUnf : Status := 0x04
def stInx : Status := 0x08
def stSat : Status := 0x10
def stRtd : Status := 0x20
def stDead : Status := 0x40
def stRcd : Status := 0x80

/-- A status bit that is set when a condition holds. -/
def stIf (b : Bool) (st : Status) : Status := if b then st else 0

/-- The launch's arithmetic-trap mask (05 R87); its bit 6 acts only with checking off. -/
def atrapMask (s : State) : Status :=
  match s.me.task with
  | some t => (t.lflags.extractLsb' 32 8) &&& (if t.lflags.getLsbD 27 then 0xBF else 0xFF)
  | none => 0

/-- Bits accumulate in ASTAT, and are remembered for an SWR of the same bundle (05 R85). -/
def raise (st : Status) (s : State) : State :=
  if st = 0 then s
  else s.mod fun c => { c with astat := c.astat ||| st.setWidth 64, iss := { c.iss with raised := c.iss.raised ||| st } }

/-- A slot that raises `st` and then commits `k`: an enabled bit takes trap 0x0A and holds the commit back (05 R87). -/
def withStatus (st : Status) (k : State → State) (s : State) : State :=
  if st &&& atrapMask s ≠ 0 then trap 0x0A 0 0 (raise st s) else k (raise st s)

/-- An SWR of ASTAT clears the bits written as 1, but for bits that a slot of the same bundle raises (05 R85). It does
not wait for matrix slots or a repeat of earlier bundles: their bits come into ASTAT after it. DESIGN CHOICE, log 46. -/
def clearAstat (x : Word) (s : State) : State :=
  s.mod fun c => { c with astat := (c.astat &&& ~~~ x) ||| (c.iss.raised.setWidth 64) }

/-- Reads of v registers: with checking on, a killed one takes trap 0x08; otherwise ASTAT.dead is raised (02 R43). -/
def readingV (ns : List Nat) (s : State) (k : Status → State) : State :=
  if ns.any (isDead s) then (if s.checking then trap 0x08 0 0 s else k stDead) else k 0

end Sys2Proof.Machine
end

