-- ==== Sys2Proof/Machine/Float.lean ====
section
/-!
DEFINITION. Floating formats as exact values, the one rounding step and the exact operations before it
(05 R74 to R83, 07 R125, R132). A finite value is a sign, a natural significand and a power of two.
-/
namespace Sys2Proof.Machine

/-- The five floating formats (05 R75). -/
inductive FFmt where | f32 | f16 | bf16 | f8e4 | f8e5
  deriving DecidableEq, Repr

namespace FFmt

/-- Significand bits p. -/
def p : FFmt → Nat
  | .f32 => 24 | .f16 => 11 | .bf16 => 8 | .f8e4 => 4 | .f8e5 => 3
/-- Exponent bits. -/
def ebits : FFmt → Nat
  | .f32 => 8 | .f16 => 5 | .bf16 => 8 | .f8e4 => 4 | .f8e5 => 5
def bias : FFmt → Nat
  | .f32 => 127 | .f16 => 15 | .bf16 => 127 | .f8e4 => 7 | .f8e5 => 15
/-- Width in bits. -/
def bits (f : FFmt) : Nat := f.p + f.ebits
/-- Canonical NaN (05 R76). -/
def nan : FFmt → Nat
  | .f32 => 0x7FC0_0000 | .f16 => 0x7E00 | .bf16 => 0x7FC0 | .f8e4 => 0x7F | .f8e5 => 0x7E
/-- Significand and exponent of the largest finite value: significand × 2^(exponent − p + 1). -/
def maxSig (f : FFmt) : Nat := match f with | .f8e4 => 14 | _ => 2 ^ f.p - 1
def emax (f : FFmt) : Int := match f with | .f8e4 => 8 | _ => f.bias
/-- The format has infinities. -/
def hasInf : FFmt → Bool | .f8e4 => false | _ => true
/-- Sign bit of an encoding. -/
def signBit (f : FFmt) : Nat := 2 ^ (f.bits - 1)
/-- Exponent field of all ones with fraction zero. -/
def expOnes (f : FFmt) : Nat := (2 ^ f.ebits - 1) * 2 ^ (f.p - 1)

end FFmt

/-- A decoded value. -/
inductive FVal where
  | nan (signalling : Bool)
  | inf (neg : Bool)
  /-- ± m × 2^e. -/
  | fin (neg : Bool) (m : Nat) (e : Int)
  deriving DecidableEq, Repr

/-- Value of an encoding; with FTZ a subnormal reads as a zero of its sign (05 R78). -/
def fdecode (f : FFmt) (ftz : Bool) (x : Nat) : FVal :=
  let neg := decide (x / f.signBit % 2 = 1)
  let ex := x / 2 ^ (f.p - 1) % 2 ^ f.ebits
  let fr := x % 2 ^ (f.p - 1)
  let special := match f with
    | .f8e4 => decide (ex = 15) && decide (fr = 7)
    | _ => decide (ex = 2 ^ f.ebits - 1)
  if special then
    match f with
    | .f8e4 => .nan false
    | _ => if fr = 0 then .inf neg else .nan (fr / 2 ^ (f.p - 2) = 0)
  else if ex = 0 then .fin neg (if ftz then 0 else fr) (2 - f.bias - f.p)
  else .fin neg (fr + 2 ^ (f.p - 1)) (ex - f.bias - f.p + 1)

def fsign (f : FFmt) (neg : Bool) : Nat := if neg then f.signBit else 0
def fzero (f : FFmt) (neg : Bool) : Nat := fsign f neg
def finf (f : FFmt) (neg : Bool) : Nat := fsign f neg + f.expOnes
def fmax (f : FFmt) (neg : Bool) : Nat :=
  fsign f neg + ((f.emax + f.bias - 1).toNat * 2 ^ (f.p - 1) + f.maxSig)

/-- Overflow (05 R82). -/
def foverflow (f : FFmt) (r : RMode) (sat neg : Bool) : Nat × Status :=
  if sat then (fmax f neg, stSat ||| stInx)
  else
    let toInf := match r with
      | .rne => true
      | .rtz => false
      | .rdn => neg
      | .rup => !neg
    (if toInf then (if f.hasInf then finf f neg else f.nan) else fmax f neg, stOvf ||| stInx)

/-- Whether a quotient `n` with remainder `r` of `2^sh` (and a sticky rest below) rounds up in magnitude. -/
def roundsUp (md : RMode) (neg : Bool) (n r sh : Nat) (sticky : Bool) : Bool :=
  match md with
  | .rne => decide (2 * r > 2 ^ sh) || (decide (2 * r = 2 ^ sh) && (sticky || decide (n % 2 = 1)))
  | .rtz => false
  | .rdn => neg && (decide (r ≠ 0) || sticky)
  | .rup => !neg && (decide (r ≠ 0) || sticky)

/-- `m × 2^e` (and a sticky rest below one unit) in units of `2^qe`: the rounded count, and whether it differs. -/
def toUnits (md : RMode) (neg : Bool) (m : Nat) (e qe : Int) (sticky : Bool) : Nat × Bool :=
  if qe ≤ e then (m * 2 ^ (e - qe).toNat, sticky)
  else
    let sh := (qe - e).toNat
    let n := m / 2 ^ sh
    let r := m % 2 ^ sh
    (n + (if roundsUp md neg n r sh sticky then 1 else 0), decide (r ≠ 0) || sticky)

/-- Round(fmt, mode, x) for `x = ± m × 2^e` with an optional sticky rest (05 R81). -/
def fround (f : FFmt) (md : RMode) (ftz sat neg : Bool) (m : Nat) (e : Int) (sticky : Bool := false) : Nat × Status :=
  if m = 0 ∧ sticky = false then (fzero f neg, 0)
  else
    let lead : Int := (Nat.log2 m : Int) + e
    let emin : Int := 1 - (f.bias : Int)
    let ee : Int := max lead emin
    let qe : Int := ee - (f.p : Int) + 1
    let u := toUnits md neg m e qe sticky
    let tiny := decide (lead < emin) &&
      !(decide (lead + 1 = emin) && decide ((toUnits md neg m e (lead - (f.p : Int) + 1) sticky).1 = 2 ^ f.p))
    let st := stIf u.2 stInx ||| stIf (tiny && u.2) stUnf
    let qmax : Int := f.emax - (f.p : Int) + 1
    if decide (qe > qmax) || (decide (qe = qmax) && decide (u.1 > f.maxSig)) then
      let o := foverflow f md sat neg
      (o.1, st ||| o.2)
    else if ftz ∧ u.1 ≠ 0 ∧ u.1 < 2 ^ (f.p - 1) then (fzero f neg, st ||| stUnf ||| stInx)
    else (fsign f neg + ((ee + f.bias - 1).toNat * 2 ^ (f.p - 1) + u.1), st)

/-! ### Exact operations -/

/-- Negation of a value. -/
def fnegV : FVal → FVal
  | .nan q => .nan q
  | .inf n => .inf (!n)
  | .fin n m e => .fin (!n) m e

/-- Whether a value is a signalling NaN. -/
def isSig : FVal → Bool | .nan q => q | _ => false
def isNan : FVal → Bool | .nan _ => true | _ => false

/-- Signed significand. -/
def signed (neg : Bool) (m : Nat) : Int := if neg then -(m : Int) else m

/-- Exact sum of finite values; a zero sum has the sign IEEE 754-2019 gives it in the mode. -/
def addFin (md : RMode) (n1 : Bool) (m1 : Nat) (e1 : Int) (n2 : Bool) (m2 : Nat) (e2 : Int) : Bool × Nat × Int :=
  let e := min e1 e2
  let t := signed n1 (m1 * 2 ^ (e1 - e).toNat) + signed n2 (m2 * 2 ^ (e2 - e).toNat)
  if t = 0 then
    (if m1 = 0 ∧ m2 = 0 ∧ n1 = n2 then n1 else decide (md = .rdn), 0, e)
  else (decide (t < 0), t.natAbs, e)

/-- exact(a + b), with the invalid case ∞ − ∞. -/
def addV (md : RMode) : FVal → FVal → FVal × Status
  | .nan q, y => (.nan false, stIf (q || isSig y) stInv)
  | x, .nan q => (.nan false, stIf (q || isSig x) stInv)
  | .inf a, .inf b => if a = b then (.inf a, 0) else (.nan false, stInv)
  | .inf a, _ => (.inf a, 0)
  | _, .inf b => (.inf b, 0)
  | .fin n1 m1 e1, .fin n2 m2 e2 => let r := addFin md n1 m1 e1 n2 m2 e2; (.fin r.1 r.2.1 r.2.2, 0)

/-- exact(a × b), with the invalid case 0 × ∞. -/
def mulV : FVal → FVal → FVal × Status
  | .nan q, y => (.nan false, stIf (q || isSig y) stInv)
  | x, .nan q => (.nan false, stIf (q || isSig x) stInv)
  | .inf a, .inf b => (.inf (a != b), 0)
  | .inf a, .fin n m _ => if m = 0 then (.nan false, stInv) else (.inf (a != n), 0)
  | .fin n m _, .inf b => if m = 0 then (.nan false, stInv) else (.inf (n != b), 0)
  | .fin n1 m1 e1, .fin n2 m2 e2 => (.fin (n1 != n2) (m1 * m2) (e1 + e2), 0)

/-- Encodes a value in a format. -/
def fencode (f : FFmt) (md : RMode) (ftz sat : Bool) (v : FVal) : Nat × Status :=
  match v with
  | .nan q => (f.nan, stIf q stInv)
  | .inf n => if f.hasInf then (finf f n, 0) else if sat then (fmax f n, stSat) else (f.nan, stInv)
  | .fin n m e => fround f md ftz sat n m e

/-- Encodes an exact result with the status that formed it. -/
def fencodeSt (f : FFmt) (md : RMode) (ftz sat : Bool) (v : FVal × Status) : Nat × Status :=
  let r := fencode f md ftz sat v.1
  (r.1, r.2 ||| v.2)

/-- Round(T, m, exact(a + b)) on encodings. -/
def fadd (f : FFmt) (md : RMode) (ftz : Bool) (a b : Nat) : Nat × Status :=
  fencodeSt f md ftz false (addV md (fdecode f ftz a) (fdecode f ftz b))

/-- Round(T, m, exact(a − b)). -/
def fsub (f : FFmt) (md : RMode) (ftz : Bool) (a b : Nat) : Nat × Status :=
  fencodeSt f md ftz false (addV md (fdecode f ftz a) (fnegV (fdecode f ftz b)))

/-- Round(T, m, exact(a × b)). -/
def fmul (f : FFmt) (md : RMode) (ftz : Bool) (a b : Nat) : Nat × Status :=
  fencodeSt f md ftz false (mulV (fdecode f ftz a) (fdecode f ftz b))

/-- Round(T, m, exact(± a × b + c)), one rounding; 0 × ∞ is invalid even when c is a quiet NaN (07 R124). -/
def ffma (f : FFmt) (md : RMode) (ftz : Bool) (negProd : Bool) (a b c : Nat) : Nat × Status :=
  let p := mulV (fdecode f ftz a) (fdecode f ftz b)
  let x := if negProd then fnegV p.1 else p.1
  let r := addV md x (fdecode f ftz c)
  fencodeSt f md ftz false (r.1, r.2 ||| p.2)

/-- Comparison key: −0 below +0 when `zeros`, else equal. `a < b` of non-NaN values. -/
def fltV (zeros : Bool) (a b : FVal) : Bool :=
  match a, b with
  | .nan _, _ => false
  | _, .nan _ => false
  | .inf n1, .inf n2 => n1 && !n2
  | .inf n1, .fin _ _ _ => n1
  | .fin _ _ _, .inf n2 => !n2
  | .fin n1 m1 e1, .fin n2 m2 e2 =>
    if m1 = 0 ∧ m2 = 0 then zeros && n1 && !n2
    else
      let e := min e1 e2
      decide (signed n1 (m1 * 2 ^ (e1 - e).toNat) < signed n2 (m2 * 2 ^ (e2 - e).toNat))

/-- Result bits of an operand that passes through unrounded: a flushed subnormal is the zero of its sign (07 R125). -/
def fpass (f : FFmt) (ftz : Bool) (x : Nat) : Nat :=
  match fdecode f ftz x with
  | .fin n 0 _ => fzero f n
  | _ => x

/-- Minimum or maximum (07 R125, 12 R227). -/
def fminmax (f : FFmt) (ftz isMax : Bool) (a b : Nat) : Nat × Status :=
  let x := fdecode f ftz a
  let y := fdecode f ftz b
  let st := stIf (isSig x || isSig y) stInv
  match isNan x, isNan y with
  | true, true => (f.nan, st)
  | true, false => (fpass f ftz b, st)
  | false, true => (fpass f ftz a, st)
  | false, false =>
    let aFirst := if isMax then fltV true y x else fltV true x y
    (if aFirst then fpass f ftz a else fpass f ftz b, st)

/-- Absolute value or negation (07 R125). -/
def fabsneg (f : FFmt) (ftz isNeg : Bool) (a : Nat) : Nat × Status :=
  match fdecode f ftz a with
  | .nan q => (f.nan, stIf q stInv)
  | _ =>
    let b := fpass f ftz a
    let mag := b % f.signBit
    let neg := decide (b / f.signBit % 2 = 1)
    (mag + (if isNeg && !neg then f.signBit else 0), 0)

/-! ### Integer results -/

/-- Rounds ± m × 2^e (with a sticky rest) to an integer in a mode; whether that changes the value. -/
def roundInt (md : RMode) (neg : Bool) (m : Nat) (e : Int) : Int × Bool :=
  let u := toUnits md neg m e 0 false
  (signed neg u.1, u.2)

/-- Value of an e-bit element as the type reads it. -/
def intVal (sgn : Bool) (e x : Nat) : Int :=
  if sgn ∧ x ≥ 2 ^ (e - 1) then (x : Int) - 2 ^ e else x

/-- Range limits of an integer type. -/
def intMin (sgn : Bool) (e : Nat) : Int := if sgn then -(2 ^ (e - 1)) else 0
def intMax (sgn : Bool) (e : Nat) : Int := if sgn then 2 ^ (e - 1) - 1 else 2 ^ e - 1

/-- The two's-complement bits of an integer. -/
def intBits (e : Nat) (x : Int) : Nat := (x % 2 ^ e).toNat

/-- Clamp to the range of a type. -/
def clampInt (sgn : Bool) (e : Nat) (x : Int) : Int :=
  if x < intMin sgn e then intMin sgn e else if x > intMax sgn e then intMax sgn e else x

/-- Floating or integer value to an integer type (05 R83). -/
def toInt (sgn : Bool) (e : Nat) (md : RMode) (sat : Bool) (v : FVal) : Nat × Status :=
  let range := if sat then stSat else stInv
  match v with
  | .nan _ => (0, stInv)
  | .inf n => (intBits e (if n then intMin sgn e else intMax sgn e), range)
  | .fin n m x =>
    let r := roundInt md n m x
    let c := clampInt sgn e r.1
    (intBits e c, stIf r.2 stInx ||| (if c = r.1 then 0 else range))

/-- Integer to integer (05 R83). -/
def intToInt (sgn : Bool) (e : Nat) (sat : Bool) (x : Int) : Nat × Status :=
  if sat then
    let c := clampInt sgn e x
    (intBits e c, stIf (decide (c ≠ x)) stSat)
  else (intBits e x, 0)

/-- An integer as an exact value. -/
def intV (x : Int) : FVal := .fin (decide (x < 0)) x.natAbs 0

end Sys2Proof.Machine
end

