-- ==== Sys2Proof/Machine/Special.lean ====
section
/-!
DEFINITION. The special functions of 07 R132: the exact result is bracketed by fixed-point arithmetic of
`Config.specialBits` bits with a sticky rest, and rounded once (log 13).
-/
namespace Sys2Proof.Machine
open Sys2Proof.Config

/-- Integer square root by binary digits: `bit` runs over powers of four. -/
def isqrtLoop : Nat → Nat → Nat → Nat
  | 0, _, r => r
  | k + 1, n, r =>
    let t := r + 2 ^ k
    isqrtLoop k n (if t * t ≤ n then t else r)

/-- Floor of the square root. -/
def isqrt (n : Nat) : Nat := isqrtLoop (Nat.log2 n / 2 + 1) n 0

/-- Fixed-point unit: 2^specialBits. -/
def fxOne : Nat := 2 ^ specialBits

/-- Sum of z^(2k+1) / (2k+1): the series of the inverse hyperbolic tangent, `zk` the running power. -/
def atanhLoop : Nat → Nat → Nat → Nat → Nat → Nat
  | 0, _, _, _, acc => acc
  | n + 1, k, zk, z2, acc => atanhLoop n (k + 2) (zk * z2 / fxOne) z2 (acc + zk / k)

/-- Inverse hyperbolic tangent of a fixed-point z ≤ 1/3. -/
def fxAtanh (z : Nat) : Nat := atanhLoop (specialBits / 3 + 8) 1 z (z * z / fxOne) 0

/-- ln 2 in fixed point. -/
def fxLn2 : Nat := 2 * fxAtanh (fxOne / 3)

/-- Sum of w^k / k!, `t` the running term. -/
def expLoop : Nat → Nat → Nat → Nat → Nat → Nat
  | 0, _, _, _, acc => acc
  | n + 1, k, t, w, acc => expLoop n (k + 1) (t * w / fxOne / k) w (acc + t)

/-- e^w in fixed point for 0 ≤ w < 1. -/
def fxExp (w : Nat) : Nat := expLoop (specialBits / 3) 1 fxOne w 0

/-- m × 2^e as an integer part and a fixed-point fraction, toward −∞. -/
def fxSplit (neg : Bool) (m : Nat) (e : Int) : Int × Nat :=
  let v : Int := if e ≥ 0 then signed neg (m * 2 ^ e.toNat * fxOne)
    else (signed neg (m * fxOne)) / (2 ^ (-e).toNat)
  (v / fxOne, (v % fxOne).toNat)

/-- One special function on a finite nonzero value: a value with a sticky rest. -/
abbrev Approx := Bool × Nat × Int × Bool

/-- 1 / x. -/
def apRcp (neg : Bool) (m : Nat) (e : Int) : Approx :=
  (neg, 2 ^ specialBits / m, -e - specialBits, decide (2 ^ specialBits % m ≠ 0))

/-- √x of a positive value. -/
def apSqrt (m : Nat) (e : Int) : Approx :=
  let odd := decide (e % 2 = 1)
  let m' := (if odd then 2 * m else m) * 2 ^ specialBits
  let e' := if odd then e - 1 else e
  let r := isqrt m'
  (false, r, (e' - specialBits) / 2, decide (r * r ≠ m'))

/-- 1 / √x of a positive value. -/
def apRsq (m : Nat) (e : Int) : Approx :=
  let odd := decide (e % 2 = 1)
  let m' := if odd then 2 * m else m
  let e' := if odd then e - 1 else e
  let r := isqrt (2 ^ (2 * specialBits) / m')
  (false, r, -e' / 2 - specialBits, decide (r * r * m' ≠ 2 ^ (2 * specialBits)))

/-- 2^x. Beyond ± 4,096 the result is far outside every format. -/
def apExp2 (neg : Bool) (m : Nat) (e : Int) : Approx :=
  if (Nat.log2 m : Int) + e ≥ 12 then (false, 2 ^ 60, if neg then -5000 else 5000, true)
  else
    let x := fxSplit neg m e
    let whole := decide (e ≥ 0) || decide (m % 2 ^ (-e).toNat = 0)
    if whole then (false, 1, x.1, false)
    else (false, fxExp (x.2 * fxLn2 / fxOne), x.1 - specialBits, true)

/-- log2 x of a positive value. -/
def apLog2 (m : Nat) (e : Int) : Approx :=
  let k := Nat.log2 m
  let i : Int := (k : Int) + e
  if m = 2 ^ k then (decide (i < 0), i.natAbs, 0, false)
  else
    let t := m * fxOne / 2 ^ k
    let z := (t - fxOne) * fxOne / (t + fxOne)
    let l := 2 * fxAtanh z * fxOne / fxLn2
    let v : Int := i * fxOne + l
    (decide (v < 0), if v < 0 then v.natAbs - 1 else v.natAbs, -(specialBits : Int), true)

/-- tanh x of a nonzero value: x − x³/3 lies just below tiny x, and 1 just above large x. -/
def apTanh (neg : Bool) (m : Nat) (e : Int) : Approx :=
  let lead := (Nat.log2 m : Int) + e
  if lead < -40 then (neg, m * 2 ^ 60 - 1, e - 60, true)
  else if lead ≥ 7 then (neg, fxOne - 1, -(specialBits : Int), true)
  else
    let x := (fxSplit false m (e + 1))
    let w := x.1.toNat * fxOne + x.2
    let n := w / fxLn2
    let ex := fxExp (w % fxLn2) * 2 ^ n
    (neg, (ex - fxOne) * fxOne / (ex + fxOne), -(specialBits : Int), true)

/-- The six functions of R132. -/
inductive SFun where | rcp | rsq | sqrt | exp2 | log2 | tanh
  deriving DecidableEq, Repr

/-- A special function on an encoding, with the fixed results of the table of R132. -/
def fspecial (fn : SFun) (f : FFmt) (md : RMode) (ftz : Bool) (x : Nat) : Nat × Status :=
  let one := (fround f md false false false 1 0).1
  let rnd (a : Approx) : Nat × Status := fround f md ftz false a.1 a.2.1 a.2.2.1 a.2.2.2
  match fdecode f ftz x with
  | .nan q => (f.nan, stIf q stInv)
  | .inf n =>
    match fn with
    | .rcp => (fzero f n, 0)
    | .rsq => if n then (f.nan, stInv) else (fzero f false, 0)
    | .sqrt | .log2 => if n then (f.nan, stInv) else (finf f false, 0)
    | .exp2 => (if n then fzero f false else finf f false, 0)
    | .tanh => (fsign f n + one, 0)
  | .fin n m e =>
    if m = 0 then
      match fn with
      | .rcp | .rsq => (finf f n, 0)
      | .sqrt | .tanh => (fzero f n, 0)
      | .exp2 => (one, 0)
      | .log2 => (finf f true, 0)
    else match fn with
      | .rcp => rnd (apRcp n m e)
      | .rsq => if n then (f.nan, stInv) else rnd (apRsq m e)
      | .sqrt => if n then (f.nan, stInv) else rnd (apSqrt m e)
      | .exp2 => rnd (apExp2 n m e)
      | .log2 => if n then (f.nan, stInv) else rnd (apLog2 m e)
      | .tanh => rnd (apTanh n m e)

end Sys2Proof.Machine
end

