-- ==== Sys2Proof/WellFormed.lean ====
section
/-!
DEFINITION. Which terms of `Instr` an encoding can carry: the reserved field values of 02 R33, R36 and of
03 R46 to R63 are refused, and an index of an event stays inside the machine.
-/
namespace Sys2Proof

namespace ETy

/-- Code of the type (03 R57). -/
def code : ETy → BitVec 4
  | .i8 => 0 | .i16 => 1 | .i32 => 2 | .i64 => 3 | .n8 => 4 | .n16 => 5 | .n32 => 6 | .n64 => 7
  | .f8e4 => 8 | .f8e5 => 9 | .f16 => 10 | .bf16 => 11 | .f32 => 12 | .t5 => 13

/-- Element width in bits; a T5 byte is 8 bits wide (07 R130). -/
def bits : ETy → Nat
  | .i8 => 8 | .i16 => 16 | .i32 => 32 | .i64 => 64 | .n8 => 8 | .n16 => 16 | .n32 => 32 | .n64 => 64
  | .f8e4 => 8 | .f8e5 => 8 | .f16 => 16 | .bf16 => 16 | .f32 => 32 | .t5 => 8

/-- "sint": codes 0x0 to 0x3. -/
def isSint : ETy → Bool
  | .i8 | .i16 | .i32 | .i64 => true
  | _ => false

/-- "nat": codes 0x4 to 0x7. -/
def isNat : ETy → Bool
  | .n8 | .n16 | .n32 | .n64 => true
  | _ => false

/-- "int": codes 0x0 to 0x7. -/
def isInt (t : ETy) : Bool := t.isSint || t.isNat

/-- "flt": codes 0xA to 0xC. -/
def isFlt : ETy → Bool
  | .f16 | .bf16 | .f32 => true
  | _ => false

/-- "int and flt". -/
def isIntFlt (t : ETy) : Bool := t.isInt || t.isFlt

/-- Source type of VPACK for a destination type (03 R59, 07 R137). -/
def packSrc : ETy → Option ETy
  | .i8 => some .i16 | .i16 => some .i32 | .i32 => some .i64
  | .n8 => some .n16 | .n16 => some .n32 | .n32 => some .n64
  | .f16 => some .f32 | .bf16 => some .f32 | .f8e4 => some .f16 | .f8e5 => some .f16
  | _ => none

/-- The (destination, source) pairs of VUNPK (07 R138). -/
def unpackOk : ETy → ETy → Bool
  | .i16, .i8 | .i32, .i16 | .i64, .i32 | .n16, .n8 | .n32, .n16 | .n64, .n32 => true
  | .f16, .f8e4 | .f16, .f8e5 | .f32, .f16 | .f32, .bf16 => true
  | _, _ => false

end ETy

/-- A 6-bit field that names a0-a31 or v0-v31 (02 R36). -/
def lt32 (r : BitVec 6) : Bool := decide (r.toNat < 32)

/-- A 5-bit field that names k0-k15 (02 R36). -/
def lt16 (r : BitVec 5) : Bool := decide (r.toNat < 16)

/-- Conditions of VCMP: codes 0 to 5 (03 R50). -/
def Cond.vector : Cond → Bool
  | .eq | .ne | .lt | .le | .gt | .ge => true
  | _ => false

/-- TYP codes MACC allows (03 R61). -/
def MTyp.maccOk : MTyp → Bool
  | .cur | .f8e4 | .f8e5 | .bf16 | .f16 | .i8 => true
  | _ => false

/-- TYP codes MTERN allows (03 R61). -/
def MTyp.mternOk : MTyp → Bool
  | .cur | .t5 => true
  | _ => false

/-- TYP codes MDRAIN allows (03 R61). -/
def MTyp.drainOk : MTyp → Bool
  | .cur | .f8e4 | .f8e5 | .bf16 | .f16 | .f32 | .i32 | .i64 => true
  | _ => false

/-- Register fields of REPT (03 R62, 08 R151). -/
def reptOk (x y : BitVec 6) (g : BitVec 2) : Bool :=
  (lt32 x || x = 63) && (lt32 y || y = 63) && (x ≠ y || x = 63) && (x ≠ 63 || y ≠ 63 || g = 0)

namespace Instr

/-- The term is one the encodings allow. -/
def wellFormed : Instr → Bool
  | .sel p _ _ _ => decide (p.toNat ≤ 95)
  | .adda d a _ | .dslice d a _ => lt32 d && lt32 a
  | .lea k d a _ => decide (k.toNat ≤ 4) && lt32 d && lt32 a
  | .atst _ _ _ a => lt32 a
  | .rldn d _ _ _ => lt32 d
  | .vld _ d _ _ _ | .vst _ d _ _ _ => lt32 d
  | .vlds _ d _ _ | .vsts _ d _ _ => lt32 d
  | .vldx _ d _ _ | .vstx _ d _ _ => lt32 d
  | .vaadd _ _ d _ _ _ | .vaor _ _ d _ _ _ | .vamax _ _ d _ _ _ => lt32 d
  | .vafadd _ d _ _ _ => lt32 d
  | .vbupd _ _ d _ _ _ => lt32 d
  | .acas _ d _ _ _ => decide (d.toNat % 2 = 0)
  | .vadd _ _ _ _ _ _ t | .vsub _ _ _ _ _ _ t | .vmul _ _ _ _ _ _ t => t.isIntFlt
  | .vmin _ _ _ _ _ _ t | .vmax _ _ _ _ _ _ t => t.isIntFlt
  | .vmulh _ _ _ _ _ _ t => t.isInt
  | .vabs _ _ _ _ t | .vneg _ _ _ _ t => t.isSint || t.isFlt
  | .vfma _ _ _ _ _ _ t | .vfms _ _ _ _ _ _ t => t.isFlt
  | .vpopc _ _ _ _ t | .vclz _ _ _ _ t => t.isNat
  | .vshl _ _ _ _ _ _ t | .vshr _ _ _ _ _ _ t | .vsra _ _ _ _ _ _ t => t.isInt
  | .vbcast _ _ _ _ t => t.isIntFlt
  | .viota _ _ t => t.isIntFlt
  | .vmovs _ _ _ _ _ t => t.isIntFlt
  | .vins _ _ _ _ t => t.isIntFlt
  | .vcmp c _ d _ _ _ _ t => c.vector && lt16 d && t.isIntFlt
  | .vcvt _ _ src _ _ _ _ t => decide (t ≠ .t5) && decide (src ≠ t)
  | .vrnd _ _ _ _ _ t => t.isFlt
  | .vrcp _ _ _ _ t | .vrsq _ _ _ _ t | .vsqrt _ _ _ _ t => t.isFlt
  | .vexp2 _ _ _ _ t | .vlog2 _ _ _ _ t | .vtanh _ _ _ _ t => t.isFlt
  | .vrsum _ _ _ _ t | .vrmax _ _ _ _ t | .vrmin _ _ _ _ t | .vscan _ _ _ _ t => t.isIntFlt
  | .vpack _ _ _ _ _ _ _ t => t.packSrc.isSome
  | .vunpk _ src _ _ _ _ t => t.unpackOk src
  | .vldm _ d row | .vstm _ d row => lt32 d && decide (row.toNat ≤ 6143)
  | .kand d a b | .kor d a b => lt16 d && lt16 a && lt16 b
  | .knot d a | .kmov d a => lt16 d && lt16 a
  | .macc _ _ typ _ => typ.maccOk
  | .mtern _ va typ _ => typ.mternOk && decide (va.toNat ≤ 28)
  | .mshift n => decide (n ≠ 0)
  | .mdrain _ _ typ _ | .mdrainQ _ typ _ => typ.drainOk
  | .vrdz _ _ cb _ => decide (cb.toNat ≤ 5)
  | .rept x y g _ => reptOk x y g
  | .fence _ _ _ set => decide (set ≠ 0)
  | .blk _ n => decide (1 ≤ n.toNat) && decide (n.toNat ≤ 15)
  | .barp _ aa | .bara _ aa | .barw _ aa => lt32 aa
  | .jobw _ f _ => decide (f.toNat ≤ 15)
  | .cpy _ aa | .gath _ aa | .scat _ aa | .trmk _ aa | .clnest _ aa => lt32 aa
  | .lnch _ aa | .lnchi _ aa | .romk _ aa => lt32 aa
  | .trpost seg _ | .trsave seg _ | .trload seg _ | .tredit seg _ => lt32 seg
  | .rocall d _ _ | .rocallW d _ _ | .rord d _ _ => decide (d.toNat ≤ 60)
  | .syscVersion _ _ svc => decide (svc = 0) || decide (4 ≤ svc.toNat)
  | .tlbiPage src _ | .tlbiAll src _ => lt32 src
  | .ctxsv src | .ctxld src => lt32 src
  | .settEmit _ k _ _ => decide (k.toNat ≤ 4)
  | .portalWrite fn q _ words => decide (fn < 5) && decide (q < 64) && decide (words.length ≤ 8)
  | .portalPostedWrite fn q => decide (fn < 5) && decide (q < 64)
  | .shadowBankSwap vdie fn q => decide (vdie < 8) && decide (fn < 5) && decide (q < 64)
  | .pcoreWrite fn _ _ | .trootWrite fn _ | .fctlHoldWrite fn _ => decide (fn < 5)
  | .prngWrite fn vdie _ => decide (fn < 5) && decide (vdie < 8)
  | .functionLevelReset fn | .flrDrainDone fn | .freeze fn | .reset fn | .getlog fn => decide (fn < 5)
  | .pwrlimWrite die _ | .telbaseWrite die _ => decide (die < 8)
  | .routeTableWrite n _ => decide (n < 2048)
  | .virtualDieRemap x y => decide (x < 8) && decide (y < 8)
  | .fabricPortDown port | .fabricPortUp port => decide (port < 16)
  | .haltLineArrive vdie fn => decide (vdie < 8) && decide (fn < 5)
  | _ => true

end Instr

end Sys2Proof
end

