-- ==== Sys2Proof/Machine/Operands.lean ====
section
/-!
DEFINITION. Operand forms: immediates, conditions, memory operands, vector elements and conversions between types.
-/
namespace Sys2Proof.Machine
open Store

/-! ### Immediates and conditions -/

/-- A sign-extended immediate (02 R34). -/
def sx {n : Nat} (i : BitVec n) : Word := i.signExtend 64
/-- A zero-extended immediate. -/
def zx {n : Nat} (i : BitVec n) : Word := i.setWidth 64

/-- Truth of a scalar condition (03 R50). -/
def condTrue (c : Cond) (a b : Word) : Bool :=
  match c with
  | .eq => a == b
  | .ne => a != b
  | .lt => a.slt b
  | .le => a.sle b
  | .gt => b.slt a
  | .ge => b.sle a
  | .ltn => a.ult b
  | .len => a.ule b
  | .gtn => b.ult a
  | .gen => b.ule a

/-! ### Sizes -/

/-- Bits of a width (02 R35). -/
def widthBits : Width → Nat | .w256 => 256 | .w512 => 512 | .w1024 => 1024
/-- Bytes of a load type (10 R180). -/
def ldSize : LdTy → Nat | .i8 | .n8 => 1 | .i16 | .n16 => 2 | .i32 | .n32 => 4 | .i64 => 8
/-- Whether a load sign-extends. -/
def ldSgn : LdTy → Bool | .i8 | .i16 | .i32 | .i64 => true | _ => false
/-- Bytes of a store size (10 R180). -/
def stSize : StSz → Nat | .b8 => 1 | .b16 => 2 | .b32 => 4 | .b64 => 8

/-- Value that a load of type `t` writes, from its bytes (10 R180). -/
def ldValue (t : LdTy) (bs : List Byte) : Word :=
  let x := ofBytes (bs.take (ldSize t))
  if ldSgn t then BitVec.ofInt 64 (intVal true (8 * ldSize t) x) else BitVec.ofNat 64 x

/-! ### Memory operands (10 R179) -/

/-- Address of an MM form: base plus offset, or the base for a post-increment. -/
def mmAddr (s : State) (aa : BitVec 5) (am : Bool) (off : BitVec 18) (sz : Nat) : Word :=
  if am then rA s aa.toNat else rA s aa.toNat + sx off * BitVec.ofNat 64 sz

/-- The post-increment, which commits with the slot. -/
def mmPost (aa : BitVec 5) (am : Bool) (off : BitVec 18) (sz : Nat) (s : State) : State :=
  if am then wA s aa.toNat (rA s aa.toNat + sx off * BitVec.ofNat 64 sz) else s

/-! ### Vector elements (07 R120) -/

/-- Element j of e bits. -/
def elem (v : VReg) (j e : Nat) : Nat := v.toNat / 2 ^ (e * j) % 2 ^ e

/-- Elements 0 to n − 1. -/
def elems (v : VReg) (e n : Nat) : List Nat := (List.range n).map fun j => elem v j e

/-- Packs elements of e bits from element 0 up. -/
def packEls (e : Nat) : List Nat → Nat
  | [] => 0
  | x :: xs => x % 2 ^ e + 2 ^ e * packEls e xs

/-- Replaces the low `w` bits of a register (02 R38). -/
def setLow (old : VReg) (w x : Nat) : VReg :=
  BitVec.ofNat 1024 (old.toNat / 2 ^ w * 2 ^ w + x % 2 ^ w)

/-- Writes the low `w` bits of v n. -/
def wVlow (s : State) (n w x : Nat) : State := wV s n (setLow (keepV s n) w x)

/-- Bytes of a register from byte 0. -/
def vBytes (v : VReg) (n : Nat) : List Byte := toBytes n v.toNat

/-- Results with their status, collected (05 R85). -/
def gather (rs : List (Nat × Status)) : List Nat × Status := (rs.map Prod.fst, rs.foldl (fun st r => st ||| r.2) 0)

/-! ### Element types -/

/-- The floating format of a type. -/
def etyFmt : ETy → Option FFmt
  | .f8e4 => some .f8e4 | .f8e5 => some .f8e5 | .f16 => some .f16 | .bf16 => some .bf16 | .f32 => some .f32
  | _ => none

/-! ### The format-table entry in force (05 R88 to R90) -/

/-- Format entry n of the executing context. -/
def ftEntry (s : State) (n : Nat) : Word := rd 0x2011 s.me.mat.ft n

/-- FMTIDX (05 R90). -/
def fmtIdx (s : State) : Nat :=
  match s.me.mat.bind with
  | none => s.me.mat.fmtIdx
  | some (lc, base) => ((rd 0 s.me.regs.lc lc).toNat + base) % 16

/-- FMTIDX at a turn of the matrix port: the binding follows the port order (08 R162), the counter is read as it stood before
the bundle (02 R28). -/
def fmtIdxX (s : State) : Nat :=
  match s.me.mat.bind with
  | none => s.me.mat.fmtIdx
  | some (lc, base) => ((rd 0 s.me.iss.view.lc lc).toNat + base) % 16

/-- The entry in force as matrix forms see it: the table as it stood before the bundle (02 R28, 08 R148). -/
def curFmtX (s : State) : Word := rd 0x2011 s.me.iss.ft (fmtIdxX s)

/-- The entry in force as vector forms see it: as it stood before the bundle. -/
def curFmt (s : State) : Word := s.me.iss.fmt

/-- Fields of an entry. -/
def fAfmt (e : Word) : Nat := (e.extractLsb' 0 4).toNat
def fBfmt (e : Word) : Nat := (e.extractLsb' 4 4).toNat
def fAcc (e : Word) : Nat := (e.extractLsb' 8 2).toNat
def fDfmt (e : Word) : Nat := (e.extractLsb' 10 4).toNat
def fRnd (e : Word) : RMode :=
  match (e.extractLsb' 14 2).toNat with
  | 0 => .rne | 1 => .rtz | 2 => .rdn | _ => .rup
def fSat (e : Word) : Bool := e.getLsbD 16
def fFtz (e : Word) : Bool := e.getLsbD 17
def fScale (e : Word) : Int :=
  (e.extractLsb' 24 8).toInt + (e.extractLsb' 32 8).toInt + (e.extractLsb' 40 8).toInt

/-- Validity of an entry (05 R89). -/
def fValid (e : Word) : Bool :=
  decide (e.extractLsb' 48 16 = 0) && decide (e.extractLsb' 18 6 = 0) &&
  (let a := fAfmt e; let b := fBfmt e; let d := fDfmt e
   let dFloat := (decide (1 ≤ d) && decide (d ≤ 4)) || decide (d = 8)
   match fAcc e with
   | 0 => dFloat && ((decide (a = 1 ∨ a = 2) && decide (b = 1 ∨ b = 2)) || (decide (a = 3 ∨ a = 4) && decide (b = 3 ∨ b = 4)))
   | 1 => (dFloat || decide (d = 9 ∨ d = 10)) && decide (a = 5) && decide (b = 5 ∨ b = 7)
   | _ => false)

/-! ### Conversions (05 R83) -/

/-- Trits of a T5 byte, lowest first (05 R80). -/
def decode5 (b : Nat) : List Int :=
  if b < 243 then ([b % 3, b / 3 % 3, b / 9 % 3, b / 27 % 3, b / 81] : List Nat).map fun t => Int.ofNat t - 1
  else [0, 0, 0, 0, 0]

/-- Converts an integer value to type `d`. A trit −1 into a natural type is such a value: 05 R83 says only that it is converted
exactly, and the model takes its row for other integers, so it gives all ones without .sat, and 0 with the sat bit with it.
DESIGN CHOICE, log 41. -/
def convInt (d : ETy) (md : RMode) (sat ftz : Bool) (x : Int) : Nat × Status :=
  match etyFmt d with
  | some f => fencode f md ftz sat (intV x)
  | none => intToInt d.isSint d.bits sat x

/-- Convert(D, S, x, rnd, sat) for an element's bits; a widening conversion is exact (05 R83). -/
def convert (d src : ETy) (md : RMode) (sat ftz : Bool) (x : Nat) : Nat × Status :=
  match etyFmt src with
  | some f =>
    let v := fdecode f ftz x
    match etyFmt d with
    | some g => fencode g md ftz sat v
    | none => toInt d.isSint d.bits md sat v
  | none => convInt d md sat ftz (intVal src.isSint src.bits x)

/-- Floating value to an integral value of its format (05 R83, 07 R131). -/
def frint (f : FFmt) (md : RMode) (ftz : Bool) (x : Nat) : Nat × Status :=
  match fdecode f ftz x with
  | .nan q => (f.nan, stIf q stInv)
  | .inf _ => (x, 0)
  | .fin n m e =>
    if m = 0 then (fzero f n, 0)
    else
      let r := roundInt md n m e
      (if r.1 = 0 then fzero f n else (fround f md false false n r.1.natAbs 0).1, stIf r.2 stInx)

end Sys2Proof.Machine
end

