-- ==== Sys2Proof/Machine/Scalar.lean ====
section
/-!
DEFINITION. Meanings of the scalar forms: integer arithmetic, logic, bit fields, comparisons, immediates and
special registers (06 R94 to R101, R117, R118).
-/
namespace Sys2Proof.Machine

/-- sd := a function of sa and sb. -/
def alu2 (f : Word → Word → Word) (d a b : BitVec 6) (s : State) : Out := .next (wS s d (f (rS s a) (rS s b)))
/-- sd := a function of sa. -/
def alu1 (f : Word → Word) (d a : BitVec 6) (s : State) : Out := .next (wS s d (f (rS s a)))

/-! ### Integer arithmetic (06 R94, R95) -/

/-- Bits 127:64 of a product. -/
def mulHigh (sgn : Bool) (a b : Word) : Word :=
  if sgn then BitVec.ofInt 64 (a.toInt * b.toInt / 2 ^ 64) else BitVec.ofNat 64 (a.toNat * b.toNat / 2 ^ 64)
/-- Signed quotient toward zero, with the cases of R95. -/
def divSigned (a b : Word) : Word := if b = 0 then BitVec.allOnes 64 else a.sdiv b
/-- Signed remainder with the sign of the dividend. -/
def remSigned (a b : Word) : Word := if b = 0 then a else a.srem b
/-- Natural quotient. -/
def divNat (a b : Word) : Word := if b = 0 then BitVec.allOnes 64 else a / b
/-- Natural remainder. -/
def remNat (a b : Word) : Word := if b = 0 then a else a % b

/-- NOP: no effect. -/
def execNop (s : State) : Out := .next s
/-- ADD. -/
def execAdd (d a b : BitVec 6) (s : State) : Out := alu2 (· + ·) d a b s
/-- SUB. -/
def execSub (d a b : BitVec 6) (s : State) : Out := alu2 (· - ·) d a b s
/-- MUL. -/
def execMul (d a b : BitVec 6) (s : State) : Out := alu2 (· * ·) d a b s
/-- MULH. -/
def execMulh (d a b : BitVec 6) (s : State) : Out := alu2 (mulHigh true) d a b s
/-- MULHN. -/
def execMulhn (d a b : BitVec 6) (s : State) : Out := alu2 (mulHigh false) d a b s
/-- DIV. -/
def execDiv (d a b : BitVec 6) (s : State) : Out := alu2 divSigned d a b s
/-- DIVN. -/
def execDivn (d a b : BitVec 6) (s : State) : Out := alu2 divNat d a b s
/-- REM. -/
def execRem (d a b : BitVec 6) (s : State) : Out := alu2 remSigned d a b s
/-- REMN. -/
def execRemn (d a b : BitVec 6) (s : State) : Out := alu2 remNat d a b s
/-- NEG. -/
def execNeg (d a : BitVec 6) (s : State) : Out := alu1 (fun x => 0 - x) d a s
/-- ABS. -/
def execAbs (d a : BitVec 6) (s : State) : Out := alu1 (fun x => if x.slt 0 then 0 - x else x) d a s
/-- MIN. -/
def execMin (d a b : BitVec 6) (s : State) : Out := alu2 (fun x y => if y.slt x then y else x) d a b s
/-- MAX. -/
def execMax (d a b : BitVec 6) (s : State) : Out := alu2 (fun x y => if x.slt y then y else x) d a b s
/-- MINN. -/
def execMinn (d a b : BitVec 6) (s : State) : Out := alu2 (fun x y => if y.ult x then y else x) d a b s
/-- MAXN. -/
def execMaxn (d a b : BitVec 6) (s : State) : Out := alu2 (fun x y => if x.ult y then y else x) d a b s

/-! ### Logic, shifts and bit fields (06 R96, R97) -/

/-- Leading zero bits of the low `n` bits of a number. -/
def clzNat (n x : Nat) : Nat := if x = 0 then n else n - 1 - Nat.log2 x
/-- Trailing zero bits, at most `n`. -/
def ctzNat : Nat → Nat → Nat
  | 0, _ => 0
  | n + 1, x => if x % 2 = 1 then 0 else ctzNat n (x / 2) + 1
/-- One bits among the low `n` bits. -/
def popNat : Nat → Nat → Nat
  | 0, _ => 0
  | n + 1, x => x % 2 + popNat n (x / 2)
/-- Bit i of the low `n` bits moves to bit n − 1 − i. -/
def revNat : Nat → Nat → Nat
  | 0, _ => 0
  | n + 1, x => x % 2 * 2 ^ n + revNat n (x / 2)

/-- Left shift by a natural amount; zero from 64 on. -/
def shlW (a b : Word) : Word := if b.toNat ≥ 64 then 0 else a <<< b.toNat
/-- Logical right shift. -/
def shrW (a b : Word) : Word := if b.toNat ≥ 64 then 0 else a >>> b.toNat
/-- Arithmetic right shift; every bit the sign from 64 on. -/
def sraW (a b : Word) : Word := a.sshiftRight (Nat.min b.toNat 64)
/-- Byte order reversed. -/
def bswpW (a : Word) : Word := BitVec.ofNat 64 (ofBytes (toBytes 8 a.toNat).reverse)

/-- Width and offset of a bit-field operand (06 R97). -/
def bfW (b : Word) : Nat := (b.extractLsb' 0 8).toNat
def bfO (b : Word) : Nat := (b.extractLsb' 8 8).toNat

/-- SEXT's result. -/
def sextW (a b : Word) : Word :=
  let w := bfW b
  if w = 0 then 0 else if w ≥ 64 then a else BitVec.ofInt 64 (intVal true w (a.toNat % 2 ^ w))
/-- ZEXT's result. -/
def zextW (a b : Word) : Word :=
  let w := bfW b
  if w = 0 then 0 else if w ≥ 64 then a else BitVec.ofNat 64 (a.toNat % 2 ^ w)
/-- BEXT's result. -/
def bextW (a b : Word) : Word :=
  let w := bfW b; let o := bfO b
  if w = 0 ∨ o ≥ 64 then 0 else BitVec.ofNat 64 (a.toNat / 2 ^ o % 2 ^ (Nat.min w (64 - o)))
/-- BINS's result over the old sd. -/
def binsW (old a b : Word) : Word :=
  let w := bfW b; let o := bfO b
  if w = 0 ∨ o ≥ 64 then old
  else
    let n := Nat.min w (64 - o)
    let m : Word := BitVec.ofNat 64 ((2 ^ n - 1) * 2 ^ o)
    (old &&& ~~~ m) ||| ((a <<< o) &&& m)

/-- AND. -/
def execAnd (d a b : BitVec 6) (s : State) : Out := alu2 (· &&& ·) d a b s
/-- OR. -/
def execOr (d a b : BitVec 6) (s : State) : Out := alu2 (· ||| ·) d a b s
/-- XOR. -/
def execXor (d a b : BitVec 6) (s : State) : Out := alu2 (· ^^^ ·) d a b s
/-- ANDN. -/
def execAndn (d a b : BitVec 6) (s : State) : Out := alu2 (fun x y => x &&& ~~~ y) d a b s
/-- ORN. -/
def execOrn (d a b : BitVec 6) (s : State) : Out := alu2 (fun x y => x ||| ~~~ y) d a b s
/-- SHL. -/
def execShl (d a b : BitVec 6) (s : State) : Out := alu2 shlW d a b s
/-- SHR. -/
def execShr (d a b : BitVec 6) (s : State) : Out := alu2 shrW d a b s
/-- SRA. -/
def execSra (d a b : BitVec 6) (s : State) : Out := alu2 sraW d a b s
/-- ROTL. -/
def execRotl (d a b : BitVec 6) (s : State) : Out := alu2 (fun x y => x.rotateLeft (y.toNat % 64)) d a b s
/-- ROTR. -/
def execRotr (d a b : BitVec 6) (s : State) : Out := alu2 (fun x y => x.rotateRight (y.toNat % 64)) d a b s
/-- CLZ. -/
def execClz (d a : BitVec 6) (s : State) : Out := alu1 (fun x => BitVec.ofNat 64 (clzNat 64 x.toNat)) d a s
/-- CTZ. -/
def execCtz (d a : BitVec 6) (s : State) : Out := alu1 (fun x => BitVec.ofNat 64 (ctzNat 64 x.toNat)) d a s
/-- POPC. -/
def execPopc (d a : BitVec 6) (s : State) : Out := alu1 (fun x => BitVec.ofNat 64 (popNat 64 x.toNat)) d a s
/-- BREV. -/
def execBrev (d a : BitVec 6) (s : State) : Out := alu1 (fun x => BitVec.ofNat 64 (revNat 64 x.toNat)) d a s
/-- BSWP. -/
def execBswp (d a : BitVec 6) (s : State) : Out := alu1 bswpW d a s
/-- SEXT. -/
def execSext (d a b : BitVec 6) (s : State) : Out := alu2 sextW d a b s
/-- ZEXT. -/
def execZext (d a b : BitVec 6) (s : State) : Out := alu2 zextW d a b s
/-- BEXT. -/
def execBext (d a b : BitVec 6) (s : State) : Out := alu2 bextW d a b s
/-- BINS: sd is a third source. -/
def execBins (d a b : BitVec 6) (s : State) : Out := .next (wS s d (binsW (rS s d) (rS s a) (rS s b)))
/-- MOV. -/
def execMov (d a : BitVec 6) (s : State) : Out := alu1 id d a s

/-! ### Comparisons, selection and immediates (06 R98 to R101) -/

/-- CMP. -/
def execCmp (bank : Bool) (c : Cond) (d a b : BitVec 6) (s : State) : Out :=
  .next (wP s (pNum bank d) (condTrue c (rS s a) (rS s b)))
/-- CMPI. -/
def execCmpi (c : Cond) (d a : BitVec 6) (imm : BitVec 18) (s : State) : Out :=
  .next (wP s d.toNat (condTrue c (rS s a) (sx imm)))
/-- SEL. -/
def execSel (p : BitVec 7) (d a b : BitVec 6) (s : State) : Out :=
  .next (wS s d (if rP s p.toNat then rS s a else rS s b))
/-- ADDI. -/
def execAddi (d a : BitVec 6) (imm : BitVec 22) (s : State) : Out := alu1 (· + sx imm) d a s
/-- SUBI. -/
def execSubi (d a : BitVec 6) (imm : BitVec 22) (s : State) : Out := alu1 (· - sx imm) d a s
/-- ANDI. -/
def execAndi (d a : BitVec 6) (imm : BitVec 22) (s : State) : Out := alu1 (· &&& sx imm) d a s
/-- ORI. -/
def execOri (d a : BitVec 6) (imm : BitVec 22) (s : State) : Out := alu1 (· ||| zx imm) d a s
/-- XORI. -/
def execXori (d a : BitVec 6) (imm : BitVec 22) (s : State) : Out := alu1 (· ^^^ zx imm) d a s
/-- SHLI. -/
def execShli (d a n : BitVec 6) (s : State) : Out := alu1 (· <<< n.toNat) d a s
/-- SHRI. -/
def execShri (d a n : BitVec 6) (s : State) : Out := alu1 (· >>> n.toNat) d a s
/-- SRAI. -/
def execSrai (d a n : BitVec 6) (s : State) : Out := alu1 (fun x => x.sshiftRight n.toNat) d a s
/-- LUI. -/
def execLui (d : BitVec 6) (imm : BitVec 22) (s : State) : Out := .next (wS s d (zx imm <<< 42))
/-- MOVI. -/
def execMovi (d : BitVec 6) (imm : BitVec 22) (s : State) : Out := .next (wS s d (sx imm))

/-! ### Special registers (06 R117, R118) -/

/-- Value of a special register, as it stood before the bundle. -/
def specialReg (s : State) (n : SReg) : Word :=
  let c := s.me
  let t (f : Task → Nat) : Word := BitVec.ofNat 64 (match c.task with | some x => f x | none => 0)
  match n with
  | .tilex => t Task.x
  | .tiley => t Task.y
  | .tilez => t Task.z
  | .tilen => t Task.n
  | .lnchid => t (fun x => x.lnch.toNat)
  | .vdie => t Task.vdie
  | .core => t Task.vcore
  | .ctx => BitVec.ofNat 64 (s.cur % 4)
  | .vf => t Task.fn
  | .cycle => BitVec.ofNat 64 c.iss.cycle
  | .cycleG => BitVec.ofNat 64 c.iss.cycleG
  | .astat => c.iss.astat
  | .peererr => BitVec.ofNat 64 (popNat 2048 c.failMap.toNat)
  | .trappc => c.iss.trapPC
  | .trapcode => c.iss.trapCode.setWidth 64
  | .trapmask => c.iss.trapMask.setWidth 64
  | .stoprec => BitVec.ofNat 64 c.iss.nrec
  | .fmtidx => BitVec.ofNat 64 c.iss.fmtIdx
  | .slackleft => BitVec.ofNat 64 c.iss.slack
  | .pdie => BitVec.ofNat 64 (dieOf s.cur)

/-- SRD: PDIE needs privilege (03 R47, R52). -/
def execSrd (d : BitVec 6) (n : SReg) (s : State) : Out :=
  if n = .pdie then privileged s fun s => .next (wS s d (specialReg s n)) else .next (wS s d (specialReg s n))

/-- SWR: ASTAT is W1C, TRAPPC and TRAPCODE take a write with privilege, every other write is ignored (06 R118). -/
def execSwr (n : SReg) (a : BitVec 6) (s : State) : Out :=
  match n with
  | .astat => .next (clearAstat (rS s a) s)
  | .trappc => .next (if s.myPriv then s.mod fun c => { c with trapPC := rS s a } else s)
  | .trapcode => .next (if s.myPriv then s.mod fun c => { c with trapCode := (rS s a).setWidth 8 } else s)
  | .pdie => privileged s fun s => .next s
  | .tilex | .tiley | .tilez | .tilen | .lnchid | .vdie | .core | .ctx | .vf | .cycle | .cycleG | .peererr
  | .trapmask | .stoprec | .fmtidx | .slackleft => .next s

end Sys2Proof.Machine
end

