-- ==== Sys2Proof/Machine/Control.lean ====
section
/-!
DEFINITION. Meanings of the predicate, address and control forms (06 R102 to R104, R107 to R116). Branches and loops
say where flow goes; the end of the bundle takes it there.
-/
namespace Sys2Proof.Machine
open Store

/-! ### Predicates (06 R107) -/

/-- pd := a function of pa and pb, all under one bank bit. -/
def pred2 (f : Bool → Bool → Bool) (bank : Bool) (d a b : BitVec 6) (s : State) : Out :=
  .next (wP s (pNum bank d) (f (rP s (pNum bank a)) (rP s (pNum bank b))))

/-- PAND. -/
def execPand (bank : Bool) (d a b : BitVec 6) (s : State) : Out := pred2 (· && ·) bank d a b s
/-- POR. -/
def execPor (bank : Bool) (d a b : BitVec 6) (s : State) : Out := pred2 (· || ·) bank d a b s
/-- PXOR. -/
def execPxor (bank : Bool) (d a b : BitVec 6) (s : State) : Out := pred2 xor bank d a b s
/-- PNOT. -/
def execPnot (bank : Bool) (d a : BitVec 6) (s : State) : Out := .next (wP s (pNum bank d) (!rP s (pNum bank a)))
/-- PMOV. -/
def execPmov (bank : Bool) (d a : BitVec 6) (s : State) : Out := .next (wP s (pNum bank d) (rP s (pNum bank a)))
/-- PSET. -/
def execPset (bank : Bool) (d a : BitVec 6) (s : State) : Out := .next (wP s (pNum bank d) (rS s a != 0))
/-- PCNT: true predicates among pa to pb. -/
def execPcnt (bank : Bool) (d a b : BitVec 6) (s : State) : Out :=
  let lo := pNum bank a
  let hi := pNum bank b
  .next (wS s d (BitVec.ofNat 64 (((span lo (hi + 1 - lo)).filter (rP s)).length)))

/-! ### Addresses (06 R102 to R104) -/

/-- ADDA. -/
def execAdda (d a b : BitVec 6) (s : State) : Out := .next (wA s d.toNat (rA s a.toNat + rS s b))
/-- LEA with scale 2^k. -/
def execLea (k : BitVec 3) (d a b : BitVec 6) (s : State) : Out :=
  .next (wA s d.toNat (rA s a.toNat + (rS s b <<< k.toNat)))
/-- ACVT to the window-relative form. -/
def execAcvtRel (w : Window) (d a : BitVec 6) (s : State) : Out :=
  alu1 (fun x => if inWindow w x.toNat then x - BitVec.ofNat 64 (winBase w) else BitVec.allOnes 64) d a s
/-- ACVT to the generic form. -/
def execAcvtGen (w : Window) (d a : BitVec 6) (s : State) : Out :=
  alu1 (fun x => if x.toNat < winSize w then BitVec.ofNat 64 (winBase w) + x else BitVec.allOnes 64) d a s
/-- ATST. -/
def execAtst (bank : Bool) (w : Window) (d a : BitVec 6) (s : State) : Out :=
  .next (wP s (pNum bank d) (inWindow w (rA s a.toNat).toNat))

/-! ### Branches (06 R108, 02 R25) -/

/-- A taken branch; a target that is not 16-aligned takes trap 0x05 at the branch bundle. -/
def branchTo (t : Word) (s : State) : State :=
  if t.toNat % 16 = 0 then s.mod fun c => { c with iss := { c.iss with target := some t } } else trap 0x05 0 0 s

/-- Address of the branch bundle + 16 × offset. -/
def branchOff (off : BitVec 24) (s : State) : Word := s.me.iss.pc + (sx off <<< 4)

/-- BR. -/
def execBr (off : BitVec 24) (s : State) : Out := .next (branchTo (branchOff off s) s)
/-- BRI. -/
def execBri (a : BitVec 6) (s : State) : Out := .next (branchTo (rS s a) s)
/-- CALL: s63 takes the address after the branch bundle. -/
def execCall (off : BitVec 24) (s : State) : Out :=
  .next (branchTo (branchOff off s) (wS s 63 (s.me.iss.pc + 16)))
/-- RET. -/
def execRet (a : BitVec 6) (s : State) : Out := .next (branchTo (rS s a) s)

/-! ### Hardware loops (06 R111 to R113) -/

/-- Loops outside the one on counter `n`; all of them when the counter drives none. -/
def loopsOutside (n : Nat) : List Loop → Option (Loop × List Loop)
  | [] => none
  | l :: ls => if l.lc = n then some (l, ls) else loopsOutside n ls

/-- Body length after the cut at the last bundle of each enclosing body. -/
def cutLen (body : Word) (len : Nat) (outer : List Loop) : Nat :=
  outer.foldl (fun n l => Nat.min n (((loopEnd l).toNat + 16 - body.toNat) / 16)) len

/-- LOOP. -/
def execLoop (n : BitVec 2) (a len : BitVec 6) (s : State) : Out :=
  let trip := Nat.min (rS s a).toNat (2 ^ 32 - 1)
  .next (s.mod fun c =>
    let outer := match loopsOutside n.toNat c.loops with
      | some (_, ls) => ls
      | none => c.loops
    let body := c.iss.pc + 16
    let k := cutLen body (len.toNat + 1) outer
    { c with
      regs := { c.regs with lc := wr 0 c.regs.lc n.toNat 0 }
      loops := if trip = 0 ∨ k = 0 then outer else ⟨n.toNat, body, k, trip⟩ :: outer
      iss := { c.iss with after := if trip = 0 then some (c.iss.pc + BitVec.ofNat 64 (16 * k)) else c.iss.after } })

/-- LBRK: the loop and those inside it end; the bundle after its body follows. -/
def execLbrk (n : BitVec 2) (s : State) : Out :=
  .next (s.mod fun c =>
    match loopsOutside n.toNat c.loops with
    | none => c
    | some (l, outer) => { c with loops := outer, iss := { c.iss with after := some (loopEnd l) } })

/-- EXIT ends the task and every loop once its bundle has committed, matrix-class slots of it that wait for the port among
them (06 R115, 08 R148). An elided region aborts (12 R234). -/
def execExit (s : State) : Out :=
  notElided s fun s =>
    if s.me.port.isEmpty && s.me.mat.running.isNone then
      .next (s.mod fun c => { c with loops := [], iss := { c.iss with ended := true } })
    else waitFor .exit s

/-- YIELD opens the window of 64 cycles in which the merge stage passes the context over (06 R116). -/
def execYield (s : State) : Out :=
  .next (s.mod fun c => { c with yieldUntil := (s.pdie (dieOf s.cur)).cycle + 64 })

end Sys2Proof.Machine
end

