-- ==== Sys2Proof/Decode.lean ====
section
/-!
DEFINITION. The decoder of slot words and sett words (03 R44 to R63, 20 R330), total on any word and
refusing reserved encodings by `none`, and after it the encoder written from the same tables.
-/
namespace Sys2Proof

/-! ### Field helpers -/

/-- `n` bits of a slot word from bit `lo`. -/
def fld (w : BitVec 32) (lo n : Nat) : BitVec n := w.extractLsb' lo n

/-- One bit of a slot word. -/
def bitAt (w : BitVec 32) (i : Nat) : Bool := w.getLsbD i

/-- Keeps a decoded term only when no reserved field value is in it (03 R46). -/
def checked (i : Instr) : Option Instr := if i.wellFormed then some i else none

/-- Vector type code (03 R57). -/
def decETy (c : BitVec 4) : Option ETy :=
  match c.toNat with
  | 0 => some .i8 | 1 => some .i16 | 2 => some .i32 | 3 => some .i64
  | 4 => some .n8 | 5 => some .n16 | 6 => some .n32 | 7 => some .n64
  | 8 => some .f8e4 | 9 => some .f8e5 | 10 => some .f16 | 11 => some .bf16 | 12 => some .f32 | 13 => some .t5
  | _ => none

/-- WIDTH field (02 R35). -/
def decWidth (c : BitVec 2) : Option Width :=
  match c.toNat with
  | 0 => some .w256 | 1 => some .w512 | 2 => some .w1024
  | _ => none

/-- Condition code (03 R50). -/
def decCond (c : BitVec 4) : Option Cond :=
  match c.toNat with
  | 0 => some .eq | 1 => some .ne | 2 => some .lt | 3 => some .le | 4 => some .gt
  | 5 => some .ge | 6 => some .ltn | 7 => some .len | 8 => some .gtn | 9 => some .gen
  | _ => none

/-- Rounding code (05 R81). -/
def decRMode (c : BitVec 2) : RMode :=
  match c.toNat with
  | 0 => .rne | 1 => .rtz | 2 => .rdn
  | _ => .rup

/-- Window code (03 R51). -/
def decWindow (c : BitVec 3) : Option Window :=
  match c.toNat with
  | 0 => some .local_ | 1 => some .peer | 2 => some .shared | 3 => some .device | 4 => some .fabric
  | _ => none

/-- Load FUNC 0x0 to 0x6 (03 R55). -/
def decLdTy (c : BitVec 4) : Option LdTy :=
  match c.toNat with
  | 0 => some .i8 | 1 => some .i16 | 2 => some .i32 | 3 => some .i64
  | 4 => some .n8 | 5 => some .n16 | 6 => some .n32
  | _ => none

/-- Store size code (03 R55). -/
def decStSz (c : BitVec 2) : StSz :=
  match c.toNat with
  | 0 => .b8 | 1 => .b16 | 2 => .b32
  | _ => .b64

/-- VBUPD operation code (12 R230). -/
def decBOp (c : BitVec 2) : BOp :=
  match c.toNat with
  | 0 => .addI32 | 1 => .addF32 | 2 => .maxI32
  | _ => .orN32

/-- TYP code (03 R61). -/
def decMTyp (c : BitVec 4) : Option MTyp :=
  match c.toNat with
  | 0 => some .cur | 1 => some .f8e4 | 2 => some .f8e5 | 3 => some .bf16 | 4 => some .f16 | 5 => some .i8
  | 7 => some .t5 | 8 => some .f32 | 9 => some .i32 | 10 => some .i64
  | _ => none

/-- Engine code (15 R272). -/
def decEng (c : BitVec 2) : Eng :=
  match c.toNat with
  | 0 => .cpy | 1 => .gath | 2 => .scat
  | _ => .col

/-- Event code of TRWAIT and CLEV (03 R63). -/
def decTrEv (c : BitVec 6) : Option TrEv :=
  match c.toNat with
  | 0 => some .srcfree | 1 => some .localdone | 2 => some .alldone
  | _ => none

/-- Agent scope of FENCE (03 R63). -/
def decScope (c : Nat) : Option Scope :=
  match c with
  | 0 => some .context | 1 => some .core | 2 => some .die | 3 => some .module | 4 => some .fabric
  | _ => none

/-- Special register number (03 R52). -/
def decSReg (n : BitVec 6) : Option SReg :=
  match n.toNat with
  | 0x00 => some .tilex | 0x01 => some .tiley | 0x02 => some .tilez | 0x03 => some .tilen | 0x04 => some .lnchid
  | 0x05 => some .vdie | 0x06 => some .core | 0x07 => some .ctx | 0x08 => some .vf | 0x09 => some .cycle
  | 0x0A => some .cycleG | 0x0B => some .astat | 0x0C => some .peererr | 0x0D => some .trappc
  | 0x0E => some .trapcode | 0x0F => some .trapmask | 0x10 => some .stoprec | 0x11 => some .fmtidx
  | 0x12 => some .slackleft | 0x20 => some .pdie
  | _ => none

/-! ### S3 and SI majors -/

/-- Three-register S3 form. -/
def r3 (f : BitVec 6 → BitVec 6 → BitVec 6 → Instr) (w : BitVec 32) : Option Instr :=
  checked (f (fld w 20 6) (fld w 14 6) (fld w 8 6))

/-- Unary S3 form: RB is a zero field. -/
def r2 (f : BitVec 6 → BitVec 6 → Instr) (w : BitVec 32) : Option Instr :=
  if fld w 8 6 = 0 then checked (f (fld w 20 6) (fld w 14 6)) else none

/-- Major 0x00 (03 R49, 06 R94). -/
def decInt (w : BitVec 32) : Option Instr :=
  match (fld w 0 8).toNat with
  | 0x00 => if fld w 8 18 = 0 then some .nop else none
  | 0x01 => r3 .add w | 0x02 => r3 .sub w | 0x03 => r3 .mul w | 0x04 => r3 .mulh w | 0x05 => r3 .mulhn w
  | 0x06 => r3 .div w | 0x07 => r3 .divn w | 0x08 => r3 .rem w | 0x09 => r3 .remn w
  | 0x0A => r2 .neg w | 0x0B => r2 .abs w
  | 0x0C => r3 .min w | 0x0D => r3 .max w | 0x0E => r3 .minn w | 0x0F => r3 .maxn w
  | _ => none

/-- Major 0x01 (06 R96). -/
def decLogic (w : BitVec 32) : Option Instr :=
  match (fld w 0 8).toNat with
  | 0x00 => r3 .and w | 0x01 => r3 .or w | 0x02 => r3 .xor w | 0x03 => r3 .andn w | 0x04 => r3 .orn w
  | 0x08 => r3 .shl w | 0x09 => r3 .shr w | 0x0A => r3 .sra w | 0x0B => r3 .rotl w | 0x0C => r3 .rotr w
  | 0x10 => r2 .clz w | 0x11 => r2 .ctz w | 0x12 => r2 .popc w | 0x13 => r2 .brev w | 0x14 => r2 .bswp w
  | 0x18 => r3 .sext w | 0x19 => r3 .zext w | 0x1A => r3 .bext w | 0x1B => r3 .bins w
  | 0x20 => r2 .mov w
  | _ => none

/-- Major 0x02 (06 R99, R100, R107). -/
def decPred (bank : Bool) (w : BitVec 32) : Option Instr :=
  let f := fld w 0 8
  if f.toNat < 0x10 then (decCond (fld w 0 4)).bind (fun c => r3 (.cmp bank c) w)
  else if 0x80 ≤ f.toNat then r3 (.sel (fld w 0 7)) w
  else match f.toNat with
    | 0x10 => r3 (.pand bank) w | 0x11 => r3 (.por bank) w | 0x12 => r3 (.pxor bank) w
    | 0x13 => r2 (.pnot bank) w | 0x14 => r2 (.pmov bank) w | 0x15 => r2 (.pset bank) w
    | 0x16 => r3 (.pcnt bank) w
    | _ => none

/-- Major 0x03 (06 R102, R104). -/
def decAddr (bank : Bool) (w : BitVec 32) : Option Instr :=
  let f := (fld w 0 8).toNat
  if f = 0x00 then r3 .adda w
  else if f = 0x10 then r3 .dslice w
  else match f / 8 with
    | 1 => r3 (.lea (fld w 0 3)) w
    | 4 => (decWindow (fld w 0 3)).bind (fun x => r2 (.acvtRel x) w)
    | 5 => (decWindow (fld w 0 3)).bind (fun x => r2 (.acvtGen x) w)
    | 6 => (decWindow (fld w 0 3)).bind (fun x => r2 (.atst bank x) w)
    | _ => none

/-- Major 0x04 (06 R118). -/
def decSpecial (w : BitVec 32) : Option Instr :=
  match (fld w 0 8).toNat with
  | 0 => if fld w 14 6 = 0 then (decSReg (fld w 8 6)).map (fun n => .srd (fld w 20 6) n) else none
  | 1 => if fld w 20 6 = 0 then (decSReg (fld w 8 6)).map (fun n => .swr n (fld w 14 6)) else none
  | _ => none

/-- The 22-bit immediate of an SI form: the lend stands above the field (02 R34). -/
def imm22 (w : BitVec 32) (lend : BitVec 8) : BitVec 22 := lend ++ fld w 0 14

/-- Major 0x0A (06 R98). -/
def decShiftI (w : BitVec 32) : Option Instr :=
  if fld w 6 6 = 0 then
    match (fld w 12 2).toNat with
    | 0 => some (.shli (fld w 20 6) (fld w 14 6) (fld w 0 6))
    | 1 => some (.shri (fld w 20 6) (fld w 14 6) (fld w 0 6))
    | 2 => some (.srai (fld w 20 6) (fld w 14 6) (fld w 0 6))
    | _ => none
  else none

/-! ### Control majors -/

/-- Major 0x10 (03 R54). -/
def decBranch (w : BitVec 32) (lend : BitVec 8) : Option Instr :=
  match (fld w 22 4).toNat with
  | 0 => if fld w 16 6 = 0 then some (.br (lend ++ fld w 0 16)) else none
  | 1 => if fld w 0 16 = 0 then some (.bri (fld w 16 6)) else none
  | 2 => if fld w 16 6 = 0 then some (.call (lend ++ fld w 0 16)) else none
  | 3 => if fld w 0 16 = 0 then some (.ret (fld w 16 6)) else none
  | 4 => if fld w 0 22 = 0 then some .exit else none
  | 5 => if fld w 0 22 = 0 then some .yield else none
  | _ => none

/-- Major 0x11 (06 R111, R113). -/
def decLoop (w : BitVec 32) : Option Instr :=
  match (fld w 24 2).toNat with
  | 0 => if fld w 6 10 = 0 then some (.loop (fld w 22 2) (fld w 16 6) (fld w 0 6)) else none
  | 1 => if fld w 0 22 = 0 then some (.lbrk (fld w 22 2)) else none
  | _ => none

/-! ### Memory majors -/

/-- The 18-bit offset of an MM form: the lend stands above the field (02 R34). -/
def off18 (w : BitVec 32) (lend : BitVec 8) : BitVec 18 := lend ++ fld w 0 10

/-- Base-plus-offset MM form. -/
def mm (f : BitVec 6 → BitVec 5 → Bool → BitVec 18 → Instr) (w : BitVec 32) (lend : BitVec 8) : Option Instr :=
  checked (f (fld w 20 6) (fld w 15 5) (bitAt w 10) (off18 w lend))

/-- Major 0x14 (10 R180). -/
def decScalarMem (w : BitVec 32) (lend : BitVec 8) : Option Instr :=
  match (decLdTy (fld w 11 4)) with
  | some sz => mm (.ld sz) w lend
  | none => if fld w 13 2 = 2 then mm (.st (decStSz (fld w 11 2))) w lend else none

/-- Major 0x15 (10 R185). -/
def decLdl (w : BitVec 32) : Option Instr :=
  (decLdTy (fld w 11 4)).map (fun sz => .ldl sz (fld w 20 6) (fld w 15 5) (bitAt w 10) (fld w 0 10))

/-- Major 0x16 (10 R190 to R192). -/
def decRemote (w : BitVec 32) (lend : BitVec 8) : Option Instr :=
  match (decLdTy (fld w 11 4)) with
  | some sz => mm (.rld sz) w lend
  | none =>
    if fld w 11 4 = 7 then mm .rldn w lend
    else if fld w 13 2 = 2 then mm (.rst (decStSz (fld w 11 2))) w lend
    else if fld w 11 4 = 12 then mm (.rred false) w lend
    else if fld w 11 4 = 13 then mm (.rred true) w lend
    else none

/-- Major 0x28 (10 R181, R185). -/
def decVecMem (w : BitVec 32) (lend : BitVec 8) : Option Instr :=
  (decWidth (fld w 11 2)).bind (fun x =>
    match (fld w 13 2).toNat with
    | 0 => mm (.vld x) w lend
    | 1 => mm (.vst x) w lend
    | 2 => some (.vldl x (fld w 20 6) (fld w 15 5) (bitAt w 10) (fld w 0 10))
    | _ => none)

/-- Major 0x29 (10 R182): AM is zero, and an index form keeps OFF10 bits 9:5 zero. -/
def decStride (w : BitVec 32) (lend : BitVec 8) : Option Instr :=
  if bitAt w 10 then none
  else
    let e := decStSz (fld w 11 2)
    match (fld w 13 2).toNat with
    | 0 => checked (.vlds e (fld w 20 6) (fld w 15 5) (off18 w lend))
    | 1 => if fld w 5 5 = 0 then checked (.vldx e (fld w 20 6) (fld w 15 5) (fld w 0 5)) else none
    | 2 => checked (.vsts e (fld w 20 6) (fld w 15 5) (off18 w lend))
    | _ => if fld w 5 5 = 0 then checked (.vstx e (fld w 20 6) (fld w 15 5) (fld w 0 5)) else none

/-- Major 0x2A (12 R229). -/
def decVAtom (w : BitVec 32) (lend : BitVec 8) : Option Instr :=
  match (fld w 13 2).toNat with
  | 0 => mm (.vaadd (bitAt w 12) (bitAt w 11)) w lend
  | 1 => mm (.vaor (bitAt w 12) (bitAt w 11)) w lend
  | 2 => mm (.vamax (bitAt w 12) (bitAt w 11)) w lend
  | _ => if bitAt w 12 then none else mm (.vafadd (bitAt w 11)) w lend

/-- Major 0x2B (12 R230). -/
def decVbupd (w : BitVec 32) (lend : BitVec 8) : Option Instr :=
  (decWidth (fld w 11 2)).bind (fun x => mm (.vbupd (decBOp (fld w 13 2)) x) w lend)

/-- Major 0x30 (12 R224). -/
def decAtom0 (w : BitVec 32) (lend : BitVec 8) : Option Instr :=
  let e := bitAt w 11
  match (fld w 12 3).toNat with
  | 0 => mm (.aadd e) w lend | 1 => mm (.amin e) w lend | 2 => mm (.amax e) w lend
  | 3 => mm (.aminn e) w lend | 4 => mm (.amaxn e) w lend
  | 5 => mm (.aand e) w lend | 6 => mm (.aor e) w lend | _ => mm (.axor e) w lend

/-- Major 0x31 (12 R224 to R227). -/
def decAtom1 (w : BitVec 32) (lend : BitVec 8) : Option Instr :=
  let e := bitAt w 11
  match (fld w 12 3).toNat with
  | 0 => mm (.axchg e) w lend
  | 1 => mm (.acas e) w lend
  | 2 => if e then none else mm .afadd w lend
  | 3 => if e then none else mm .afmin w lend
  | 4 => if e then none else mm .afmax w lend
  | _ => none

/-! ### Vector majors -/

/-- Two-source VX form without a type. -/
def vx2 (f : Width → BitVec 5 → BitVec 5 → BitVec 5 → Bool → Bool → Instr) (w : BitVec 32) : Option Instr :=
  (decWidth (fld w 24 2)).bind (fun x =>
    checked (f x (fld w 19 5) (fld w 14 5) (fld w 9 5) (bitAt w 8) (bitAt w 7)))

/-- One-source VX form without a type: VB and LUB are zero. -/
def vx1 (f : Width → BitVec 5 → BitVec 5 → Bool → Instr) (w : BitVec 32) : Option Instr :=
  if fld w 9 5 = 0 ∧ bitAt w 7 = false then
    (decWidth (fld w 24 2)).bind (fun x => checked (f x (fld w 19 5) (fld w 14 5) (bitAt w 8)))
  else none

/-- Two-source VX form with the type of bits 3:0. -/
def vx2t (f : Width → BitVec 5 → BitVec 5 → BitVec 5 → Bool → Bool → ETy → Instr) (w : BitVec 32) : Option Instr :=
  (decETy (fld w 0 4)).bind (fun t => vx2 (fun x d a b la lb => f x d a b la lb t) w)

/-- One-source VX form with the type of bits 3:0. -/
def vx1t (f : Width → BitVec 5 → BitVec 5 → Bool → ETy → Instr) (w : BitVec 32) : Option Instr :=
  (decETy (fld w 0 4)).bind (fun t => vx1 (fun x d a la => f x d a la t) w)

/-- A logic form takes type code 0. -/
def vlogic (f : Width → BitVec 5 → BitVec 5 → BitVec 5 → Bool → Bool → Instr) (w : BitVec 32) : Option Instr :=
  if fld w 0 4 = 0 then vx2 f w else none

/-- Major 0x18 (07 R124). -/
def decV18 (w : BitVec 32) : Option Instr :=
  match (fld w 4 3).toNat with
  | 0 => vx2t .vadd w | 1 => vx2t .vsub w | 2 => vx2t .vmul w | 3 => vx2t .vmulh w
  | 4 => vx2t .vmin w | 5 => vx2t .vmax w | 6 => vx1t .vabs w | _ => vx1t .vneg w

/-- Major 0x19 (07 R124, R126). -/
def decV19 (w : BitVec 32) : Option Instr :=
  match (fld w 4 3).toNat with
  | 0 => vx2t .vfma w | 1 => vx2t .vfms w
  | 2 => vlogic .vand w | 3 => vlogic .vor w | 4 => vlogic .vxor w
  | 5 => if fld w 0 4 = 0 then vx1 .vnot w else none
  | 6 => vx1t .vpopc w | _ => vx1t .vclz w

/-- Major 0x1A (07 R127, R128). -/
def decV1A (w : BitVec 32) : Option Instr :=
  match (fld w 4 3).toNat with
  | 0 => vx2t .vshl w | 1 => vx2t .vshr w | 2 => vx2t .vsra w
  | 3 => vx2 (fun x d a b la lb => .vsel x d a b la lb (fld w 0 4)) w
  | 4 => vx1t .vbcast w
  | 5 => if fld w 14 5 = 0 ∧ bitAt w 8 = false then vx1t (fun x d _ _ t => .viota x d t) w else none
  | 6 => if bitAt w 7 then none else vx2t (fun x d a b la _ t => .vmovs x d a b la t) w
  | _ => if bitAt w 7 || bitAt w 8 then none else vx2t (fun x d a b _ _ t => .vins x d a b t) w

/-- Major 0x1B (07 R129). -/
def decV1B (w : BitVec 32) : Option Instr :=
  (decCond ((0 : BitVec 1) ++ fld w 4 3)).bind (fun c => vx2t (.vcmp c) w)

/-- Major 0x1C (07 R130, R131): VB bit 4 selects VRND, and LUB is zero. -/
def decV1C (w : BitVec 32) : Option Instr :=
  if bitAt w 7 then none
  else (decETy (fld w 9 4)).bind (fun src =>
    (decETy (fld w 0 4)).bind (fun t =>
      (decWidth (fld w 24 2)).bind (fun x =>
        if bitAt w 13 then
          if bitAt w 6 = false ∧ src = t then
            checked (.vrnd (decRMode (fld w 4 2)) x (fld w 19 5) (fld w 14 5) (bitAt w 8) t)
          else none
        else checked (.vcvt (bitAt w 6) (decRMode (fld w 4 2)) src x (fld w 19 5) (fld w 14 5) (bitAt w 8) t))))

/-- Major 0x1D (07 R132). -/
def decV1D (w : BitVec 32) : Option Instr :=
  match (fld w 4 3).toNat with
  | 0 => vx1t .vrcp w | 1 => vx1t .vrsq w | 2 => vx1t .vsqrt w
  | 3 => vx1t .vexp2 w | 4 => vx1t .vlog2 w | 5 => vx1t .vtanh w
  | _ => none

/-- Major 0x1E (07 R133). -/
def decV1E (w : BitVec 32) : Option Instr :=
  match (fld w 4 3).toNat with
  | 0 => vx1t .vrsum w | 1 => vx1t .vrmax w | 2 => vx1t .vrmin w | 3 => vx1t .vscan w
  | _ => none

/-- Major 0x1F (03 R59, 07 R136 to R138). -/
def decV1F (bank : Bool) (w : BitVec 32) : Option Instr :=
  match (fld w 5 2).toNat with
  | 0 => vx2 (.vshuf bank (fld w 0 5)) w
  | 1 => vx2t (.vpack (bitAt w 4)) w
  | 2 =>
    if bitAt w 13 || bitAt w 7 then none
    else (decETy (fld w 9 4)).bind (fun src =>
      (decETy (fld w 0 4)).bind (fun t =>
        (decWidth (fld w 24 2)).bind (fun x =>
          checked (.vunpk (bitAt w 4) src x (fld w 19 5) (fld w 14 5) (bitAt w 8) t))))
  | _ => none

/-- Major 0x22 (03 R60, 07 R141 to R143). -/
def decV22 (bank : Bool) (w : BitVec 32) : Option Instr :=
  match (fld w 0 7).toNat with
  | 0 => if fld w 7 12 = 0 then (decWidth (fld w 24 2)).map (fun x => .vclr x (fld w 19 5)) else none
  | 1 => if fld w 24 2 = 0 ∧ fld w 7 2 = 0 then checked (.kand (fld w 19 5) (fld w 14 5) (fld w 9 5)) else none
  | 2 => if fld w 24 2 = 0 ∧ fld w 7 2 = 0 then checked (.kor (fld w 19 5) (fld w 14 5) (fld w 9 5)) else none
  | 3 => if fld w 24 2 = 0 ∧ fld w 7 7 = 0 then checked (.knot (fld w 19 5) (fld w 14 5)) else none
  | 4 => if fld w 24 2 = 0 ∧ fld w 7 7 = 0 then checked (.kmov (fld w 19 5) (fld w 14 5)) else none
  | 5 => if fld w 24 2 = 2 ∧ fld w 9 5 = 0 ∧ bitAt w 7 = false then
           some (.patld bank (fld w 19 5) (fld w 14 5) (bitAt w 8)) else none
  | 6 => if fld w 7 19 = 0 then some .patsw else none
  | _ => none

/-! ### Matrix majors -/

/-- Beat of major 0x2C or 0x2D: the lend extends AUX to 23 bits. -/
def beat (f : BitVec 2 → BitVec 5 → MTyp → BitVec 23 → Instr) (w : BitVec 32) (lend : BitVec 8) : Option Instr :=
  (decMTyp (fld w 15 4)).bind (fun t => checked (f (fld w 24 2) (fld w 19 5) t (lend ++ fld w 0 15)))

/-- Major 0x2E (03 R62). -/
def decMatrix (w : BitVec 32) : Option Instr :=
  let z := fld w 24 2
  let va := fld w 19 5
  let typ0 := decide (fld w 15 4 = 0)
  match (fld w 11 4).toNat with
  | 0x0 => if typ0 ∧ z = 0 ∧ fld w 0 11 = 0 then some (.mpush va) else none
  | 0x1 => if typ0 ∧ z = 0 ∧ va = 0 ∧ fld w 2 9 = 0 then checked (.mshift (fld w 0 2)) else none
  | 0x2 =>
    if fld w 8 3 = 0 then
      (decMTyp (fld w 15 4)).bind (fun t =>
        if bitAt w 7 then (if va = 0 then checked (.mdrainQ z t (fld w 0 7)) else none)
        else checked (.mdrain z va t (fld w 0 7)))
    else none
  | 0x3 => if typ0 ∧ va = 0 ∧ fld w 0 11 = 0 then some (.mclr z) else none
  | 0x4 => if typ0 ∧ z = 0 ∧ fld w 0 11 = 0 then some (.mbsel va) else none
  | 0x5 => if typ0 ∧ bitAt w 10 = false then checked (.vrdz z va (fld w 7 3) (fld w 0 7)) else none
  | 0x6 => if typ0 ∧ z = 0 ∧ fld w 4 7 = 0 then some (.fmtld va (fld w 0 4)) else none
  | 0x7 => if typ0 ∧ z = 0 ∧ va = 0 ∧ fld w 6 5 = 0 then some (.fmtsel (fld w 2 4) (fld w 0 2)) else none
  | 0x8 => if typ0 ∧ z = 0 ∧ fld w 4 7 = 0 then some (.fmtrd va (fld w 0 4)) else none
  | _ => none

/-! ### System majors -/

/-- SY form with RD and RA, IMM6 zero. -/
def sy2 (f : BitVec 6 → BitVec 6 → Instr) (w : BitVec 32) : Option Instr :=
  if fld w 0 6 = 0 then checked (f (fld w 20 6) (fld w 14 6)) else none

/-- SY form with RA alone. -/
def syA (f : BitVec 6 → Instr) (w : BitVec 32) : Option Instr :=
  if fld w 20 6 = 0 ∧ fld w 0 6 = 0 then checked (f (fld w 14 6)) else none

/-- SY form with RD alone. -/
def syD (f : BitVec 6 → Instr) (w : BitVec 32) : Option Instr :=
  if fld w 14 6 = 0 ∧ fld w 0 6 = 0 then checked (f (fld w 20 6)) else none

/-- SY form without operands. -/
def sy0 (i : Instr) (w : BitVec 32) : Option Instr :=
  if fld w 14 12 = 0 ∧ fld w 0 6 = 0 then some i else none

/-- SY form with IMM6 alone. -/
def syI (f : BitVec 6 → Instr) (w : BitVec 32) : Option Instr :=
  if fld w 14 12 = 0 then checked (f (fld w 0 6)) else none

/-- Major 0x32 (12 R235 to R240, 10 R194). -/
def decSync (w : BitVec 32) : Option Instr :=
  match (fld w 6 8).toNat with
  | 0x08 => if fld w 20 6 = 0 then checked (.blk (fld w 14 6) (fld w 0 6)) else none
  | 0x09 => syD .xbegin w
  | 0x0A => sy0 .xend w
  | 0x0B => syI .xabort w
  | 0x0C => sy2 .barp w | 0x0D => sy2 .bara w | 0x0E => sy2 .barw w
  | 0x0F => syI .evsig w | 0x10 => syI .evwait w
  | 0x18 => sy0 .drainCpl w | 0x19 => sy0 .drainCpsh w | 0x1A => sy0 .drainGath w | 0x1B => sy0 .drainCol w
  | n => (decScope n).bind (fun sc => checked (.fence (fld w 20 6) (fld w 14 6) sc (fld w 0 6)))

/-- Major 0x34 (15 R272). -/
def decJob (w : BitVec 32) : Option Instr :=
  match (fld w 6 8).toNat with
  | 0x08 => syA .jobwait w
  | 0x09 => sy2 .cpy w | 0x0A => sy2 .gath w | 0x0B => sy2 .scat w
  | n =>
    if n < 4 then
      (if fld w 20 6 = 0 then checked (.jobw (decEng (fld w 6 2)) (fld w 0 6) (fld w 14 6)) else none)
    else if n < 8 then syD (.jobgo (decEng (fld w 6 2))) w
    else none

/-- Major 0x35 (15 R280, R286). -/
def decTree (w : BitVec 32) : Option Instr :=
  match (fld w 6 8).toNat with
  | 0x00 => sy2 .trmk w | 0x01 => syA .trfree w | 0x02 => sy2 .trpost w
  | 0x03 => if fld w 20 6 = 0 then (decTrEv (fld w 0 6)).map (fun e => .trwait (fld w 14 6) e) else none
  | 0x04 => syA .trfrz w
  | 0x05 => sy2 .trsave w | 0x06 => sy2 .trload w | 0x07 => sy2 .tredit w | 0x08 => sy2 .trq w
  | 0x10 => sy2 .clnest w | 0x11 => syA .clabort w
  | 0x12 => if fld w 20 6 = 0 then (decTrEv (fld w 0 6)).map (fun e => .clev (fld w 14 6) e) else none
  | _ => none

/-- Major 0x36 (14 R259). -/
def decLaunch (w : BitVec 32) (lend : BitVec 8) : Option Instr :=
  match (fld w 6 8).toNat with
  | 0x00 => sy2 .lnch w | 0x01 => sy2 .lnchi w | 0x02 => sy2 .tgdep w | 0x03 => syA .tgwait w
  | 0x04 => if fld w 14 12 = 0 then some (.slack (lend ++ fld w 0 6)) else none
  | 0x05 => syA .brel w | 0x06 => syA .bown w | 0x07 => syD .wsplit w
  | _ => none

/-- Major 0x38 (16 R295). -/
def decObject (w : BitVec 32) : Option Instr :=
  match (fld w 6 8).toNat with
  | 0x00 => sy2 .romk w | 0x01 => syA .rofree w
  | 0x02 => checked (.rocall (fld w 20 6) (fld w 14 6) (fld w 0 6))
  | 0x03 => checked (.rocallW (fld w 20 6) (fld w 14 6) (fld w 0 6))
  | 0x04 => checked (.rord (fld w 20 6) (fld w 14 6) (fld w 0 6))
  | 0x05 => syA .rotrim w | 0x06 => sy2 .roq w | 0x07 => syA .roret w
  | _ => none

/-- SYSC with its 14-bit service number (23 R370, R371). -/
def decSysc (w : BitVec 32) (lend : BitVec 8) : Instr :=
  let v : BitVec 14 := lend ++ fld w 0 6
  match v.toNat with
  | 1 => .syscModuleId (fld w 20 6) (fld w 14 6)
  | 2 => .syscMsix (fld w 20 6) (fld w 14 6)
  | 3 => .syscLog (fld w 20 6) (fld w 14 6)
  | _ => .syscVersion (fld w 20 6) (fld w 14 6) v

/-- Major 0x39 (23 R370). -/
def decTrap (w : BitVec 32) (lend : BitVec 8) : Option Instr :=
  match (fld w 6 8).toNat with
  | 0 => syI .trap w
  | 1 => some (decSysc w lend)
  | 2 => sy2 .strd w
  | _ => none

/-- Major 0x3A (23 R370, R374). -/
def decPriv (w : BitVec 32) : Option Instr :=
  match (fld w 6 8).toNat with
  | 0 => sy0 .eret w
  | 1 =>
    if fld w 14 6 = 0 ∧ fld w 3 3 = 0 then
      match (fld w 0 2).toNat with
      | 0 => checked (.tlbiPage (fld w 20 6) (bitAt w 2))
      | 1 => checked (.tlbiAll (fld w 20 6) (bitAt w 2))
      | _ => none
    else none
  | 2 => syD .ctxsv w
  | 3 => syD .ctxld w
  | 4 => syA .pempt w
  | 5 => sy0 .idle w
  | _ => none

/-- The instruction of a slot word, its lend supplied by a header-X (zero in every other bundle, 02 R32). -/
def decodeSlot (w : BitVec 32) (lend : BitVec 8) : Option Instr :=
  let bank := lend.getLsbD 0
  match (fld w 26 6).toNat with
  | 0x00 => decInt w
  | 0x01 => decLogic w
  | 0x02 => decPred bank w
  | 0x03 => decAddr bank w
  | 0x04 => decSpecial w
  | 0x05 => some (.addi (fld w 20 6) (fld w 14 6) (imm22 w lend))
  | 0x06 => some (.subi (fld w 20 6) (fld w 14 6) (imm22 w lend))
  | 0x07 => some (.andi (fld w 20 6) (fld w 14 6) (imm22 w lend))
  | 0x08 => some (.ori (fld w 20 6) (fld w 14 6) (imm22 w lend))
  | 0x09 => some (.xori (fld w 20 6) (fld w 14 6) (imm22 w lend))
  | 0x0A => decShiftI w
  | 0x0B => if fld w 14 6 = 0 then some (.lui (fld w 20 6) (imm22 w lend)) else none
  | 0x0C => if fld w 14 6 = 0 then some (.movi (fld w 20 6) (imm22 w lend)) else none
  | 0x0D => (decCond (fld w 10 4)).map (fun c => .cmpi c (fld w 20 6) (fld w 14 6) (off18 w lend))
  | 0x10 => decBranch w lend
  | 0x11 => decLoop w
  | 0x14 => decScalarMem w lend
  | 0x15 => decLdl w
  | 0x16 => decRemote w lend
  | 0x18 => decV18 w
  | 0x19 => decV19 w
  | 0x1A => decV1A w
  | 0x1B => decV1B w
  | 0x1C => decV1C w
  | 0x1D => decV1D w
  | 0x1E => decV1E w
  | 0x1F => decV1F bank w
  | 0x20 => if fld w 14 6 = 0 then checked (.vldm bank (fld w 20 6) (fld w 0 14)) else none
  | 0x21 => if fld w 14 6 = 0 then checked (.vstm bank (fld w 20 6) (fld w 0 14)) else none
  | 0x22 => decV22 bank w
  | 0x28 => decVecMem w lend
  | 0x29 => decStride w lend
  | 0x2A => decVAtom w lend
  | 0x2B => decVbupd w lend
  | 0x2C => beat .macc w lend
  | 0x2D => beat .mtern w lend
  | 0x2E => decMatrix w
  | 0x2F => checked (.rept (fld w 20 6) (fld w 14 6) (fld w 12 2) (fld w 0 12))
  | 0x30 => decAtom0 w lend
  | 0x31 => decAtom1 w lend
  | 0x32 => decSync w
  | 0x34 => decJob w
  | 0x35 => decTree w
  | 0x36 => decLaunch w lend
  | 0x38 => decObject w
  | 0x39 => decTrap w lend
  | 0x3A => decPriv w
  | _ => none

/-- The lend that stands for none: outside a header-X bundle a sign-extended immediate extends from its own top bit
(02 R34, 03 R44). -/
def ownLend (w : BitVec 32) : BitVec 8 :=
  let top : Option Nat := match (fld w 26 6).toNat with
    | 0x05 | 0x06 | 0x07 | 0x0C => some 13
    | 0x0D | 0x14 | 0x16 | 0x28 | 0x29 | 0x2A | 0x2B | 0x30 | 0x31 => some 9
    | 0x10 => some 15
    | _ => none
  match top with
  | some i => if bitAt w i then 0xFF#8 else 0
  | none => 0

/-- The instruction of a slot word outside a header-X bundle. -/
def decodePlain (w : BitVec 32) : Option Instr := decodeSlot w (ownLend w)

/-! ### Lends (02 R32, 03 R44) -/

/-- Lend class of a slot's instruction. -/
inductive LendClass where | imm | bank | none_
  deriving DecidableEq, Repr

/-- The lend class that 03 R44 gives the form. -/
def lendClass : Instr → LendClass
  | .addi .. | .subi .. | .andi .. | .ori .. | .xori .. | .lui .. | .movi .. | .cmpi .. => .imm
  | .br .. | .call .. => .imm
  | .ld .. | .st .. | .rld .. | .rldn .. | .rst .. | .rred .. => .imm
  | .vld .. | .vst .. | .vlds .. | .vsts .. => .imm
  | .vaadd .. | .vaor .. | .vamax .. | .vafadd .. | .vbupd .. => .imm
  | .macc .. | .mtern .. => .imm
  | .aadd .. | .amin .. | .amax .. | .aminn .. | .amaxn .. | .aand .. | .aor .. | .axor .. => .imm
  | .axchg .. | .acas .. | .afadd .. | .afmin .. | .afmax .. => .imm
  | .slack .. | .syscVersion .. | .syscModuleId .. | .syscMsix .. | .syscLog .. => .imm
  | .cmp .. | .pand .. | .por .. | .pxor .. | .pnot .. | .pmov .. | .pset .. | .pcnt .. | .sel .. => .bank
  | .adda .. | .lea .. | .dslice .. | .acvtRel .. | .acvtGen .. | .atst .. => .bank
  | .vshuf .. | .vldm .. | .vstm .. | .patld .. | .patsw => .bank
  | _ => .none_

/-- Whether a class allows a lend. -/
def lendFits (c : LendClass) (lend : BitVec 8) : Bool :=
  match c with
  | .imm => true
  | .bank => decide (lend.toNat ≤ 1)
  | .none_ => decide (lend = 0)

/-- COND 8 of 02 R39 does not hold for this lend. -/
def lendOk (i : Instr) (lend : BitVec 8) : Bool := lendFits (lendClass i) lend

/-- The lend class that 03 R44 gives a word's major and func; none for a reserved major. -/
def lendOfWord (w : BitVec 32) : Option LendClass :=
  match (fld w 26 6).toNat with
  | 0x05 | 0x06 | 0x07 | 0x08 | 0x09 | 0x0B | 0x0C | 0x0D | 0x14 | 0x16 | 0x2A | 0x2B | 0x2C | 0x2D | 0x30 | 0x31 => some .imm
  | 0x02 | 0x03 | 0x20 | 0x21 => some .bank
  | 0x10 => some (if fld w 22 4 = 0 ∨ fld w 22 4 = 2 then .imm else .none_)
  | 0x1F => some (if fld w 5 2 = 0 then .bank else .none_)
  | 0x22 => some (if fld w 0 7 = 5 ∨ fld w 0 7 = 6 then .bank else .none_)
  | 0x28 => some (if fld w 13 2 = 2 then .none_ else .imm)
  | 0x29 => some (if bitAt w 13 then .none_ else .imm)
  | 0x36 => some (if fld w 6 8 = 4 then .imm else .none_)
  | 0x39 => some (if fld w 6 8 = 1 then .imm else .none_)
  | 0x0E | 0x0F | 0x12 | 0x13 | 0x17 | 0x23 | 0x24 | 0x25 | 0x26 | 0x27 | 0x33 | 0x37 | 0x3B | 0x3C | 0x3D | 0x3E | 0x3F => none
  | _ => some .none_

/-! ### Setts (20 R330) -/

/-- The operation of a sett word; `none` for a reserved OP or a nonzero unused field. -/
def decodeSett (w : BitVec 32) : Option Instr :=
  let d := fld w 23 3
  let a := fld w 20 3
  let b := fld w 17 3
  match (fld w 26 6).toNat with
  | 0x00 => if w = 0 then some .settEnd else none
  | 0x01 => if fld w 3 20 = 0 then some (.settLdp d (fld w 0 3)) else none
  | 0x02 => if fld w 17 6 = 0 then some (.settLdi d (fld w 0 17)) else none
  | 0x03 => if fld w 12 11 = 0 ∧ fld w 0 3 = 0 then some (.settLdm d (fld w 3 9)) else none
  | 0x04 => if d = 0 ∧ fld w 12 8 = 0 ∧ fld w 0 3 = 0 then some (.settStm a (fld w 3 9)) else none
  | 0x05 => if fld w 0 17 = 0 then some (.settAdd d a b) else none
  | 0x06 => if fld w 0 17 = 0 then some (.settSub d a b) else none
  | 0x07 => if fld w 0 17 = 0 then some (.settAnd d a b) else none
  | 0x08 => if fld w 0 17 = 0 then some (.settOr d a b) else none
  | 0x09 => if fld w 0 17 = 0 then some (.settXor d a b) else none
  | 0x0A => if fld w 6 14 = 0 then some (.settShl d a (fld w 0 6)) else none
  | 0x0B => if fld w 6 14 = 0 then some (.settShr d a (fld w 0 6)) else none
  | 0x0C => if b = 0 then some (.settAndi d a (fld w 0 17)) else none
  | 0x0D => if d = 0 then some (.settBeq a b (fld w 0 17)) else none
  | 0x0E => if d = 0 then some (.settBne a b (fld w 0 17)) else none
  | 0x0F => if d = 0 then some (.settBltu a b (fld w 0 17)) else none
  | 0x10 => if fld w 17 9 = 0 ∧ fld w 5 6 = 0 then some (.settRep (fld w 11 6) (fld w 0 5)) else none
  | 0x11 => if d = 0 ∧ fld w 3 13 = 0 then checked (.settEmit (bitAt w 16) (fld w 0 3) a b) else none
  | 0x12 => if fld w 7 19 = 0 then some (.settRej (fld w 0 7)) else none
  | _ => none

/-- The instruction of a table row's word, numbered as the opcode table numbers it: a 32-bit word outside a header-X
bundle. A Nimix slot word comes first; a word that no Nimix form takes is read as a sett operation (log 8). -/
def decodeTableWord (nbits w : Nat) : Option Instr :=
  if nbits = 32 ∧ w < 2 ^ 32 then
    match decodePlain (BitVec.ofNat 32 w) with
    | some i => some i
    | none => decodeSett (BitVec.ofNat 32 w)
  else none

/-! ### The encoder -/

/-- Width code. -/
def Width.code : Width → BitVec 2
  | .w256 => 0 | .w512 => 1 | .w1024 => 2

/-- Condition code. -/
def Cond.code : Cond → BitVec 4
  | .eq => 0 | .ne => 1 | .lt => 2 | .le => 3 | .gt => 4 | .ge => 5 | .ltn => 6 | .len => 7 | .gtn => 8 | .gen => 9

/-- Condition code of VCMP: three bits. -/
def Cond.code3 : Cond → BitVec 3
  | .eq => 0 | .ne => 1 | .lt => 2 | .le => 3 | .gt => 4 | .ge => 5 | _ => 7

/-- Rounding code. -/
def RMode.code : RMode → BitVec 2
  | .rne => 0 | .rtz => 1 | .rdn => 2 | .rup => 3

/-- Window code. -/
def Window.code : Window → BitVec 3
  | .local_ => 0 | .peer => 1 | .shared => 2 | .device => 3 | .fabric => 4

/-- Load FUNC. -/
def LdTy.code : LdTy → BitVec 4
  | .i8 => 0 | .i16 => 1 | .i32 => 2 | .i64 => 3 | .n8 => 4 | .n16 => 5 | .n32 => 6

/-- Store size code. -/
def StSz.code : StSz → BitVec 2
  | .b8 => 0 | .b16 => 1 | .b32 => 2 | .b64 => 3

/-- VBUPD operation code. -/
def BOp.code : BOp → BitVec 2
  | .addI32 => 0 | .addF32 => 1 | .maxI32 => 2 | .orN32 => 3

/-- TYP code. -/
def MTyp.code : MTyp → BitVec 4
  | .cur => 0 | .f8e4 => 1 | .f8e5 => 2 | .bf16 => 3 | .f16 => 4 | .i8 => 5 | .t5 => 7 | .f32 => 8 | .i32 => 9 | .i64 => 10

/-- Engine code. -/
def Eng.code : Eng → BitVec 2
  | .cpy => 0 | .gath => 1 | .scat => 2 | .col => 3

/-- Event code. -/
def TrEv.code : TrEv → BitVec 6
  | .srcfree => 0 | .localdone => 1 | .alldone => 2

/-- Scope code. -/
def Scope.code : Scope → BitVec 8
  | .context => 0 | .core => 1 | .die => 2 | .module => 3 | .fabric => 4

/-- Special register number. -/
def SReg.code : SReg → BitVec 6
  | .tilex => 0x00 | .tiley => 0x01 | .tilez => 0x02 | .tilen => 0x03 | .lnchid => 0x04 | .vdie => 0x05
  | .core => 0x06 | .ctx => 0x07 | .vf => 0x08 | .cycle => 0x09 | .cycleG => 0x0A | .astat => 0x0B
  | .peererr => 0x0C | .trappc => 0x0D | .trapcode => 0x0E | .trapmask => 0x0F | .stoprec => 0x10
  | .fmtidx => 0x11 | .slackleft => 0x12 | .pdie => 0x20

/-- One bit. -/
def b1 (b : Bool) : BitVec 1 := BitVec.ofBool b

/-- S3 word. -/
def wS3 (m d a b : BitVec 6) (f : BitVec 8) : BitVec 32 := m ++ d ++ a ++ b ++ f

/-- SI word; the lend is the top of the immediate. -/
def wSI (m d a : BitVec 6) (imm : BitVec 14) : BitVec 32 := m ++ d ++ a ++ imm

/-- MM word. -/
def wMM (m d : BitVec 6) (aa : BitVec 5) (f : BitVec 4) (am : Bool) (off : BitVec 10) : BitVec 32 :=
  m ++ d ++ aa ++ f ++ b1 am ++ off

/-- VX word. -/
def wVX (m : BitVec 6) (w : BitVec 2) (d a b : BitVec 5) (la lb : Bool) (f : BitVec 7) : BitVec 32 :=
  m ++ w ++ d ++ a ++ b ++ b1 la ++ b1 lb ++ f

/-- MX word. -/
def wMX (m : BitVec 6) (z : BitVec 2) (va : BitVec 5) (t : BitVec 4) (aux : BitVec 15) : BitVec 32 :=
  m ++ z ++ va ++ t ++ aux

/-- BR word. -/
def wBR (m : BitVec 6) (f : BitVec 4) (a : BitVec 6) (off : BitVec 16) : BitVec 32 := m ++ f ++ a ++ off

/-- SY word. -/
def wSY (m d a : BitVec 6) (f : BitVec 8) (imm : BitVec 6) : BitVec 32 := m ++ d ++ a ++ f ++ imm

/-- Lend of a 22-bit immediate. -/
def lend22 (i : BitVec 22) : BitVec 8 := i.extractLsb' 14 8

/-- Field of a 22-bit immediate. -/
def low14 (i : BitVec 22) : BitVec 14 := i.extractLsb' 0 14

/-- Lend of an 18-bit offset. -/
def lend18 (i : BitVec 18) : BitVec 8 := i.extractLsb' 10 8

/-- Field of an 18-bit offset. -/
def low10 (i : BitVec 18) : BitVec 10 := i.extractLsb' 0 10

/-- Lend of the bank bit. -/
def bankLend (b : Bool) : BitVec 8 := (0 : BitVec 7) ++ b1 b

/-- MM form with an 18-bit offset. -/
def eMM (m d : BitVec 6) (aa : BitVec 5) (f : BitVec 4) (am : Bool) (off : BitVec 18) : Option (BitVec 32 × BitVec 8) :=
  some (wMM m d aa f am (low10 off), lend18 off)

/-- S3 form without a lend. -/
def eS3 (m d a b : BitVec 6) (f : BitVec 8) : Option (BitVec 32 × BitVec 8) := some (wS3 m d a b f, 0)

/-- S3 form of a predicate file. -/
def eP3 (m : BitVec 6) (bank : Bool) (d a b : BitVec 6) (f : BitVec 8) : Option (BitVec 32 × BitVec 8) :=
  some (wS3 m d a b f, bankLend bank)

/-- SI form with a lent immediate. -/
def eSI (m d a : BitVec 6) (i : BitVec 22) : Option (BitVec 32 × BitVec 8) := some (wSI m d a (low14 i), lend22 i)

/-- VX form. -/
def eVX (m : BitVec 6) (w : Width) (d a b : BitVec 5) (la lb : Bool) (f : BitVec 7) : Option (BitVec 32 × BitVec 8) :=
  some (wVX m w.code d a b la lb f, 0)

/-- SY form. -/
def eSY (m d a : BitVec 6) (f : BitVec 8) (imm : BitVec 6) : Option (BitVec 32 × BitVec 8) := some (wSY m d a f imm, 0)

/-- The slot word of a well-formed instruction and the lend it needs; `none` for a step that no slot word encodes. -/
def encode : Instr → Option (BitVec 32 × BitVec 8)
  | .nop => some (0, 0)
  | .add d a b => eS3 0 d a b 0x01 | .sub d a b => eS3 0 d a b 0x02 | .mul d a b => eS3 0 d a b 0x03
  | .mulh d a b => eS3 0 d a b 0x04 | .mulhn d a b => eS3 0 d a b 0x05
  | .div d a b => eS3 0 d a b 0x06 | .divn d a b => eS3 0 d a b 0x07
  | .rem d a b => eS3 0 d a b 0x08 | .remn d a b => eS3 0 d a b 0x09
  | .neg d a => eS3 0 d a 0 0x0A | .abs d a => eS3 0 d a 0 0x0B
  | .min d a b => eS3 0 d a b 0x0C | .max d a b => eS3 0 d a b 0x0D
  | .minn d a b => eS3 0 d a b 0x0E | .maxn d a b => eS3 0 d a b 0x0F
  | .and d a b => eS3 1 d a b 0x00 | .or d a b => eS3 1 d a b 0x01 | .xor d a b => eS3 1 d a b 0x02
  | .andn d a b => eS3 1 d a b 0x03 | .orn d a b => eS3 1 d a b 0x04
  | .shl d a b => eS3 1 d a b 0x08 | .shr d a b => eS3 1 d a b 0x09 | .sra d a b => eS3 1 d a b 0x0A
  | .rotl d a b => eS3 1 d a b 0x0B | .rotr d a b => eS3 1 d a b 0x0C
  | .clz d a => eS3 1 d a 0 0x10 | .ctz d a => eS3 1 d a 0 0x11 | .popc d a => eS3 1 d a 0 0x12
  | .brev d a => eS3 1 d a 0 0x13 | .bswp d a => eS3 1 d a 0 0x14
  | .sext d a b => eS3 1 d a b 0x18 | .zext d a b => eS3 1 d a b 0x19
  | .bext d a b => eS3 1 d a b 0x1A | .bins d a b => eS3 1 d a b 0x1B
  | .mov d a => eS3 1 d a 0 0x20
  | .cmp bank c d a b => eP3 2 bank d a b ((0 : BitVec 4) ++ c.code)
  | .pand bank d a b => eP3 2 bank d a b 0x10 | .por bank d a b => eP3 2 bank d a b 0x11
  | .pxor bank d a b => eP3 2 bank d a b 0x12 | .pnot bank d a => eP3 2 bank d a 0 0x13
  | .pmov bank d a => eP3 2 bank d a 0 0x14 | .pset bank d a => eP3 2 bank d a 0 0x15
  | .pcnt bank d a b => eP3 2 bank d a b 0x16
  | .sel p d a b => eS3 2 d a b ((1 : BitVec 1) ++ p)
  | .adda d a b => eS3 3 d a b 0x00
  | .lea k d a b => eS3 3 d a b ((1 : BitVec 5) ++ k)
  | .dslice d a b => eS3 3 d a b 0x10
  | .acvtRel w d a => eS3 3 d a 0 ((4 : BitVec 5) ++ w.code)
  | .acvtGen w d a => eS3 3 d a 0 ((5 : BitVec 5) ++ w.code)
  | .atst bank w d a => eP3 3 bank d a 0 ((6 : BitVec 5) ++ w.code)
  | .srd d n => eS3 4 d 0 n.code 0x00
  | .swr n a => eS3 4 0 a n.code 0x01
  | .addi d a i => eSI 0x05 d a i | .subi d a i => eSI 0x06 d a i | .andi d a i => eSI 0x07 d a i
  | .ori d a i => eSI 0x08 d a i | .xori d a i => eSI 0x09 d a i
  | .shli d a n => some (wSI 0x0A d a ((0 : BitVec 8) ++ n), 0)
  | .shri d a n => some (wSI 0x0A d a ((0x40 : BitVec 8) ++ n), 0)
  | .srai d a n => some (wSI 0x0A d a ((0x80 : BitVec 8) ++ n), 0)
  | .lui d i => eSI 0x0B d 0 i | .movi d i => eSI 0x0C d 0 i
  | .cmpi c d a i => some (wSI 0x0D d a (c.code ++ low10 i), lend18 i)
  | .br off => some (wBR 0x10 0 0 (off.extractLsb' 0 16), off.extractLsb' 16 8)
  | .bri a => some (wBR 0x10 1 a 0, 0)
  | .call off => some (wBR 0x10 2 0 (off.extractLsb' 0 16), off.extractLsb' 16 8)
  | .ret a => some (wBR 0x10 3 a 0, 0)
  | .exit => some (wBR 0x10 4 0 0, 0)
  | .yield => some (wBR 0x10 5 0 0, 0)
  | .loop n a l => some (wBR 0x11 ((0 : BitVec 2) ++ n) a ((0 : BitVec 10) ++ l), 0)
  | .lbrk n => some (wBR 0x11 ((1 : BitVec 2) ++ n) 0 0, 0)
  | .ld sz d aa am off => eMM 0x14 d aa sz.code am off
  | .st sz d aa am off => eMM 0x14 d aa ((2 : BitVec 2) ++ sz.code) am off
  | .ldl sz n aa am c => some (wMM 0x15 n aa sz.code am c, 0)
  | .rld sz d aa am off => eMM 0x16 d aa sz.code am off
  | .rldn d aa am off => eMM 0x16 d aa 7 am off
  | .rst sz d aa am off => eMM 0x16 d aa ((2 : BitVec 2) ++ sz.code) am off
  | .rred fl d aa am off => eMM 0x16 d aa ((6 : BitVec 3) ++ b1 fl) am off
  | .vld w d aa am off => eMM 0x28 d aa ((0 : BitVec 2) ++ w.code) am off
  | .vst w d aa am off => eMM 0x28 d aa ((1 : BitVec 2) ++ w.code) am off
  | .vldl w n aa am c => some (wMM 0x28 n aa ((2 : BitVec 2) ++ w.code) am c, 0)
  | .vlds e d aa str => eMM 0x29 d aa ((0 : BitVec 2) ++ e.code) false str
  | .vldx e d aa vi => some (wMM 0x29 d aa ((1 : BitVec 2) ++ e.code) false ((0 : BitVec 5) ++ vi), 0)
  | .vsts e d aa str => eMM 0x29 d aa ((2 : BitVec 2) ++ e.code) false str
  | .vstx e d aa vi => some (wMM 0x29 d aa ((3 : BitVec 2) ++ e.code) false ((0 : BitVec 5) ++ vi), 0)
  | .vaadd e w d aa am off => eMM 0x2A d aa ((0 : BitVec 2) ++ b1 e ++ b1 w) am off
  | .vaor e w d aa am off => eMM 0x2A d aa ((1 : BitVec 2) ++ b1 e ++ b1 w) am off
  | .vamax e w d aa am off => eMM 0x2A d aa ((2 : BitVec 2) ++ b1 e ++ b1 w) am off
  | .vafadd w d aa am off => eMM 0x2A d aa ((6 : BitVec 3) ++ b1 w) am off
  | .vbupd op w d aa am off => eMM 0x2B d aa (op.code ++ w.code) am off
  | .aadd e d aa am off => eMM 0x30 d aa ((0 : BitVec 3) ++ b1 e) am off
  | .amin e d aa am off => eMM 0x30 d aa ((1 : BitVec 3) ++ b1 e) am off
  | .amax e d aa am off => eMM 0x30 d aa ((2 : BitVec 3) ++ b1 e) am off
  | .aminn e d aa am off => eMM 0x30 d aa ((3 : BitVec 3) ++ b1 e) am off
  | .amaxn e d aa am off => eMM 0x30 d aa ((4 : BitVec 3) ++ b1 e) am off
  | .aand e d aa am off => eMM 0x30 d aa ((5 : BitVec 3) ++ b1 e) am off
  | .aor e d aa am off => eMM 0x30 d aa ((6 : BitVec 3) ++ b1 e) am off
  | .axor e d aa am off => eMM 0x30 d aa ((7 : BitVec 3) ++ b1 e) am off
  | .axchg e d aa am off => eMM 0x31 d aa ((0 : BitVec 3) ++ b1 e) am off
  | .acas e d aa am off => eMM 0x31 d aa ((1 : BitVec 3) ++ b1 e) am off
  | .afadd d aa am off => eMM 0x31 d aa 4 am off
  | .afmin d aa am off => eMM 0x31 d aa 6 am off
  | .afmax d aa am off => eMM 0x31 d aa 8 am off
  | .vadd w d a b la lb t => eVX 0x18 w d a b la lb ((0 : BitVec 3) ++ t.code)
  | .vsub w d a b la lb t => eVX 0x18 w d a b la lb ((1 : BitVec 3) ++ t.code)
  | .vmul w d a b la lb t => eVX 0x18 w d a b la lb ((2 : BitVec 3) ++ t.code)
  | .vmulh w d a b la lb t => eVX 0x18 w d a b la lb ((3 : BitVec 3) ++ t.code)
  | .vmin w d a b la lb t => eVX 0x18 w d a b la lb ((4 : BitVec 3) ++ t.code)
  | .vmax w d a b la lb t => eVX 0x18 w d a b la lb ((5 : BitVec 3) ++ t.code)
  | .vabs w d a la t => eVX 0x18 w d a 0 la false ((6 : BitVec 3) ++ t.code)
  | .vneg w d a la t => eVX 0x18 w d a 0 la false ((7 : BitVec 3) ++ t.code)
  | .vfma w d a b la lb t => eVX 0x19 w d a b la lb ((0 : BitVec 3) ++ t.code)
  | .vfms w d a b la lb t => eVX 0x19 w d a b la lb ((1 : BitVec 3) ++ t.code)
  | .vand w d a b la lb => eVX 0x19 w d a b la lb 0x20
  | .vor w d a b la lb => eVX 0x19 w d a b la lb 0x30
  | .vxor w d a b la lb => eVX 0x19 w d a b la lb 0x40
  | .vnot w d a la => eVX 0x19 w d a 0 la false 0x50
  | .vpopc w d a la t => eVX 0x19 w d a 0 la false ((6 : BitVec 3) ++ t.code)
  | .vclz w d a la t => eVX 0x19 w d a 0 la false ((7 : BitVec 3) ++ t.code)
  | .vshl w d a b la lb t => eVX 0x1A w d a b la lb ((0 : BitVec 3) ++ t.code)
  | .vshr w d a b la lb t => eVX 0x1A w d a b la lb ((1 : BitVec 3) ++ t.code)
  | .vsra w d a b la lb t => eVX 0x1A w d a b la lb ((2 : BitVec 3) ++ t.code)
  | .vsel w d a b la lb k => eVX 0x1A w d a b la lb ((3 : BitVec 3) ++ k)
  | .vbcast w d a la t => eVX 0x1A w d a 0 la false ((4 : BitVec 3) ++ t.code)
  | .viota w d t => eVX 0x1A w d 0 0 false false ((5 : BitVec 3) ++ t.code)
  | .vmovs w d a b la t => eVX 0x1A w d a b la false ((6 : BitVec 3) ++ t.code)
  | .vins w d a b t => eVX 0x1A w d a b false false ((7 : BitVec 3) ++ t.code)
  | .vcmp c w d a b la lb t => eVX 0x1B w d a b la lb (c.code3 ++ t.code)
  | .vcvt sat r src w d a la t => eVX 0x1C w d a ((0 : BitVec 1) ++ src.code) la false (b1 sat ++ r.code ++ t.code)
  | .vrnd r w d a la t => eVX 0x1C w d a ((1 : BitVec 1) ++ t.code) la false ((0 : BitVec 1) ++ r.code ++ t.code)
  | .vrcp w d a la t => eVX 0x1D w d a 0 la false ((0 : BitVec 3) ++ t.code)
  | .vrsq w d a la t => eVX 0x1D w d a 0 la false ((1 : BitVec 3) ++ t.code)
  | .vsqrt w d a la t => eVX 0x1D w d a 0 la false ((2 : BitVec 3) ++ t.code)
  | .vexp2 w d a la t => eVX 0x1D w d a 0 la false ((3 : BitVec 3) ++ t.code)
  | .vlog2 w d a la t => eVX 0x1D w d a 0 la false ((4 : BitVec 3) ++ t.code)
  | .vtanh w d a la t => eVX 0x1D w d a 0 la false ((5 : BitVec 3) ++ t.code)
  | .vrsum w d a la t => eVX 0x1E w d a 0 la false ((0 : BitVec 3) ++ t.code)
  | .vrmax w d a la t => eVX 0x1E w d a 0 la false ((1 : BitVec 3) ++ t.code)
  | .vrmin w d a la t => eVX 0x1E w d a 0 la false ((2 : BitVec 3) ++ t.code)
  | .vscan w d a la t => eVX 0x1E w d a 0 la false ((3 : BitVec 3) ++ t.code)
  | .vshuf bank p w d a b la lb => some (wVX 0x1F w.code d a b la lb ((0 : BitVec 2) ++ p), bankLend bank)
  | .vpack sat w d a b la lb t => eVX 0x1F w d a b la lb ((1 : BitVec 2) ++ b1 sat ++ t.code)
  | .vunpk hi src w d a la t => eVX 0x1F w d a ((0 : BitVec 1) ++ src.code) la false ((2 : BitVec 2) ++ b1 hi ++ t.code)
  | .vldm bank d row => some (wSI 0x20 d 0 row, bankLend bank)
  | .vstm bank d row => some (wSI 0x21 d 0 row, bankLend bank)
  | .vclr w d => eVX 0x22 w d 0 0 false false 0x00
  | .kand d a b => eVX 0x22 .w256 d a b false false 0x01
  | .kor d a b => eVX 0x22 .w256 d a b false false 0x02
  | .knot d a => eVX 0x22 .w256 d a 0 false false 0x03
  | .kmov d a => eVX 0x22 .w256 d a 0 false false 0x04
  | .patld bank p a la => some (wVX 0x22 2 p a 0 la false 0x05, bankLend bank)
  | .patsw => eVX 0x22 .w256 0 0 0 false false 0x06
  | .macc z va t aux => some (wMX 0x2C z va t.code (aux.extractLsb' 0 15), aux.extractLsb' 15 8)
  | .mtern z va t aux => some (wMX 0x2D z va t.code (aux.extractLsb' 0 15), aux.extractLsb' 15 8)
  | .mpush va => some (wMX 0x2E 0 va 0 0, 0)
  | .mshift n => some (wMX 0x2E 0 0 0 ((0x200 : BitVec 13) ++ n), 0)
  | .mdrain z aa t row => some (wMX 0x2E z aa t.code ((0x20 : BitVec 8) ++ row), 0)
  | .mdrainQ z t row => some (wMX 0x2E z 0 t.code ((0x21 : BitVec 8) ++ row), 0)
  | .mclr z => some (wMX 0x2E z 0 0 0x1800, 0)
  | .mbsel aa => some (wMX 0x2E 0 aa 0 0x2000, 0)
  | .vrdz z d cb row => some (wMX 0x2E z d 0 ((0x0A : BitVec 5) ++ cb ++ row), 0)
  | .fmtld aa n => some (wMX 0x2E 0 aa 0 ((0x300 : BitVec 11) ++ n), 0)
  | .fmtsel base l => some (wMX 0x2E 0 0 0 ((0x0E0 : BitVec 9) ++ base ++ l), 0)
  | .fmtrd d n => some (wMX 0x2E 0 d 0 ((0x400 : BitVec 11) ++ n), 0)
  | .rept x y g n => some (wSI 0x2F x y (g ++ n), 0)
  | .fence d a sc set => eSY 0x32 d a sc.code set
  | .blk a n => eSY 0x32 0 a 0x08 n
  | .xbegin d => eSY 0x32 d 0 0x09 0
  | .xend => eSY 0x32 0 0 0x0A 0
  | .xabort c => eSY 0x32 0 0 0x0B c
  | .barp s aa => eSY 0x32 s aa 0x0C 0
  | .bara s aa => eSY 0x32 s aa 0x0D 0
  | .barw d aa => eSY 0x32 d aa 0x0E 0
  | .evsig e => eSY 0x32 0 0 0x0F e
  | .evwait e => eSY 0x32 0 0 0x10 e
  | .drainCpl => eSY 0x32 0 0 0x18 0
  | .drainCpsh => eSY 0x32 0 0 0x19 0
  | .drainGath => eSY 0x32 0 0 0x1A 0
  | .drainCol => eSY 0x32 0 0 0x1B 0
  | .jobw e f a => eSY 0x34 0 a ((0 : BitVec 6) ++ e.code) f
  | .jobgo e d => eSY 0x34 d 0 ((1 : BitVec 6) ++ e.code) 0
  | .jobwait a => eSY 0x34 0 a 0x08 0
  | .cpy d aa => eSY 0x34 d aa 0x09 0
  | .gath d aa => eSY 0x34 d aa 0x0A 0
  | .scat d aa => eSY 0x34 d aa 0x0B 0
  | .trmk d aa => eSY 0x35 d aa 0x00 0
  | .trfree a => eSY 0x35 0 a 0x01 0
  | .trpost s a => eSY 0x35 s a 0x02 0
  | .trwait a e => eSY 0x35 0 a 0x03 e.code
  | .trfrz a => eSY 0x35 0 a 0x04 0
  | .trsave s a => eSY 0x35 s a 0x05 0
  | .trload s a => eSY 0x35 s a 0x06 0
  | .tredit s a => eSY 0x35 s a 0x07 0
  | .trq d a => eSY 0x35 d a 0x08 0
  | .clnest d aa => eSY 0x35 d aa 0x10 0
  | .clabort a => eSY 0x35 0 a 0x11 0
  | .clev a e => eSY 0x35 0 a 0x12 e.code
  | .lnch d aa => eSY 0x36 d aa 0x00 0
  | .lnchi d aa => eSY 0x36 d aa 0x01 0
  | .tgdep l e => eSY 0x36 l e 0x02 0
  | .tgwait a => eSY 0x36 0 a 0x03 0
  | .slack n => some (wSY 0x36 0 0 0x04 (n.extractLsb' 0 6), n.extractLsb' 6 8)
  | .brel a => eSY 0x36 0 a 0x05 0
  | .bown a => eSY 0x36 0 a 0x06 0
  | .wsplit d => eSY 0x36 d 0 0x07 0
  | .romk d aa => eSY 0x38 d aa 0x00 0
  | .rofree a => eSY 0x38 0 a 0x01 0
  | .rocall d a m => eSY 0x38 d a 0x02 m
  | .rocallW d a m => eSY 0x38 d a 0x03 m
  | .rord d a m => eSY 0x38 d a 0x04 m
  | .rotrim a => eSY 0x38 0 a 0x05 0
  | .roq d a => eSY 0x38 d a 0x06 0
  | .roret a => eSY 0x38 0 a 0x07 0
  | .trap c => eSY 0x39 0 0 0x00 c
  | .syscVersion d a v => some (wSY 0x39 d a 0x01 (v.extractLsb' 0 6), v.extractLsb' 6 8)
  | .syscModuleId d a => eSY 0x39 d a 0x01 1
  | .syscMsix d a => eSY 0x39 d a 0x01 2
  | .syscLog d a => eSY 0x39 d a 0x01 3
  | .strd d a => eSY 0x39 d a 0x02 0
  | .eret => eSY 0x3A 0 0 0x00 0
  | .tlbiPage s c => eSY 0x3A s 0 0x01 ((0 : BitVec 3) ++ b1 c ++ (0 : BitVec 2))
  | .tlbiAll s c => eSY 0x3A s 0 0x01 ((0 : BitVec 3) ++ b1 c ++ (1 : BitVec 2))
  | .ctxsv s => eSY 0x3A s 0 0x02 0
  | .ctxld s => eSY 0x3A s 0 0x03 0
  | .pempt a => eSY 0x3A 0 a 0x04 0
  | .idle => eSY 0x3A 0 0 0x05 0
  | _ => none

/-- A sett word: OP, XD, XA, XB, IMM (20 R329). -/
def wSett (op : BitVec 6) (d a b : BitVec 3) (imm : BitVec 17) : BitVec 32 := op ++ d ++ a ++ b ++ imm

/-- The sett word of a sett operation. -/
def encodeSett : Instr → Option (BitVec 32)
  | .settEnd => some 0
  | .settLdp d w => some (wSett 0x01 d 0 0 ((0 : BitVec 14) ++ w))
  | .settLdi d i => some (wSett 0x02 d 0 0 i)
  | .settLdm d o => some (wSett 0x03 d 0 0 ((0 : BitVec 5) ++ o ++ (0 : BitVec 3)))
  | .settStm a o => some (wSett 0x04 0 a 0 ((0 : BitVec 5) ++ o ++ (0 : BitVec 3)))
  | .settAdd d a b => some (wSett 0x05 d a b 0)
  | .settSub d a b => some (wSett 0x06 d a b 0)
  | .settAnd d a b => some (wSett 0x07 d a b 0)
  | .settOr d a b => some (wSett 0x08 d a b 0)
  | .settXor d a b => some (wSett 0x09 d a b 0)
  | .settShl d a n => some (wSett 0x0A d a 0 ((0 : BitVec 11) ++ n))
  | .settShr d a n => some (wSett 0x0B d a 0 ((0 : BitVec 11) ++ n))
  | .settAndi d a i => some (wSett 0x0C d a 0 i)
  | .settBeq a b f => some (wSett 0x0D 0 a b f)
  | .settBne a b f => some (wSett 0x0E 0 a b f)
  | .settBltu a b f => some (wSett 0x0F 0 a b f)
  | .settRep n l => some (wSett 0x10 0 0 0 (n ++ (0 : BitVec 6) ++ l))
  | .settEmit p k a b => some (wSett 0x11 0 a b (b1 p ++ (0 : BitVec 13) ++ k))
  | .settRej c => some (wSett 0x12 0 0 0 ((0 : BitVec 10) ++ c))
  | _ => none

end Sys2Proof
end

