-- ==== Sys2Proof/Machine/Static.lean ====
section
/-!
DEFINITION. What a form's encoding fixes before it runs: class and slot positions, lane groups, registers written and
read, latencies and privilege (02 R37 to R39, 03 R45 to R63).
-/
namespace Sys2Proof.Machine

/-- Resource classes (03 R45). -/
inductive Cls where | i | c | v | m | x | y
  deriving DecidableEq, Repr

/-- Slot positions of a class (03 R45). -/
def Cls.allows : Cls → Nat → Bool
  | .i, _ | .v, _ => true
  | .c, n | .y, n => n = 3
  | .m, n | .x, n => n < 3

/-- Static facts of a form. -/
structure Shape where
  cls : Cls := .i
  /-- Lane groups (02 R38). -/
  groups : Nat := 0
  /-- Architectural registers written, by register key (02 R39 COND 1). -/
  ws : List Nat := []
  /-- Registers read. -/
  rs : List Nat := []
  /-- Results of fixed latency (03 R48). -/
  res : List (Nat × Nat) := []
  deriving DecidableEq, Repr

/-- Key of s n; s0 is no register (02 R37). -/
def ks (n : BitVec 6) : List Nat := if n = 0 then [] else [keyS n.toNat]
/-- Key of a p field; p0 is no register. -/
def kp (bank : Bool) (n : BitVec 6) : List Nat := if pNum bank n = 0 then [] else [keyP (pNum bank n)]
/-- Keys of the other files. -/
def ka (n : BitVec 6) : List Nat := [keyA n.toNat]
def kaa (n : BitVec 5) : List Nat := [keyA n.toNat]
def kv (n : BitVec 5) : List Nat := [keyV n.toNat]
def kv6 (n : BitVec 6) : List Nat := [keyV n.toNat]
def kk (n : BitVec 5) : List Nat := [keyK n.toNat]
/-- Key of a shuffle pattern and of a special register, beside the keys of the registers. -/
def keyPat (bank : Bool) (n : BitVec 5) : Nat := 20000 + n.toNat + if bank then 32 else 0
def keySr (n : SReg) : Nat := 20100 + n.code.toNat
/-- Main-file row of a field. -/
def keyRow (bank : Bool) (row : BitVec 14) : Nat := keyM (row.toNat + if bank then 6144 else 0)

/-- Results of one latency. -/
def lat (l : Nat) (ws : List Nat) : List (Nat × Nat) := ws.map fun k => (k, l)

/-- A class I form with fixed latency. -/
def shI (ws rs : List Nat) (l : Nat) : Shape := { ws := ws, rs := rs, res := lat l ws }
/-- A class V form. -/
def shV (g : Nat) (ws rs : List Nat) (l : Nat) : Shape := { cls := .v, groups := g, ws := ws, rs := rs, res := lat l ws }
/-- A class M form with base aa: post-increment writes it. -/
def shM (g : Nat) (ws rs : List Nat) (aa : BitVec 5) (am : Bool) : Shape :=
  { cls := .m, groups := g, ws := ws ++ (if am then kaa aa else []), rs := rs ++ kaa aa }
/-- A class Y form. -/
def shY (ws rs : List Nat) : Shape := { cls := .y, ws := ws, rs := rs }

/-- Lane groups of a width. -/
def wGroups : Width → Nat | .w256 => 1 | .w512 => 2 | .w1024 => 4
/-- Latency of VADD and its like (03 R58). -/
def latT (t : ETy) : Nat := match t with | .f16 | .bf16 | .f32 => 4 | _ => 2
/-- Latency of VMUL and VMULH. -/
def latM (t : ETy) : Nat := match t with | .f16 | .bf16 | .f32 => 4 | _ => 3
/-- Four argument registers of the call forms (16 R295). -/
def kArgs (d : BitVec 6) : List Nat := ks d ++ ks (d + 1) ++ ks (d + 2) ++ ks (d + 3)

/-- Shapes of the scalar and control forms. An SWR counts as a write of the register that it names, of a read-only one too (COND 1 of
02 R39). DESIGN CHOICE, log 46. -/
def shapeScalar : Instr → Option Shape
  | .add d a b | .sub d a b | .min d a b | .max d a b | .minn d a b | .maxn d a b | .and d a b | .or d a b | .xor d a b
  | .andn d a b | .orn d a b | .shl d a b | .shr d a b | .sra d a b | .rotl d a b | .rotr d a b | .sext d a b
  | .zext d a b | .bext d a b => some (shI (ks d) (ks a ++ ks b) 1)
  | .bins d a b => some (shI (ks d) (ks d ++ ks a ++ ks b) 1)
  | .mul d a b | .mulh d a b | .mulhn d a b => some (shI (ks d) (ks a ++ ks b) 3)
  | .div d a b | .divn d a b | .rem d a b | .remn d a b => some (shI (ks d) (ks a ++ ks b) 20)
  | .neg d a | .abs d a | .clz d a | .ctz d a | .popc d a | .brev d a | .bswp d a | .mov d a => some (shI (ks d) (ks a) 1)
  | .acvtRel _ d a | .acvtGen _ d a => some (shI (ks d) (ks a) 1)
  | .cmp k _ d a b => some (shI (kp k d) (ks a ++ ks b) 1)
  | .pand k d a b | .por k d a b | .pxor k d a b => some (shI (kp k d) (kp k a ++ kp k b) 1)
  | .pnot k d a | .pmov k d a => some (shI (kp k d) (kp k a) 1)
  | .pset k d a => some (shI (kp k d) (ks a) 1)
  | .pcnt k d a b => some (shI (ks d) ((span (pNum k a) (pNum k b + 1 - pNum k a)).map keyP) 2)
  | .sel p d a b => some (shI (ks d) (ks a ++ ks b ++ (if p = 0 then [] else [keyP p.toNat])) 1)
  | .adda d a b => some (shI (ka d) (ka a ++ ks b) 1)
  | .lea _ d a b => some (shI (ka d) (ka a ++ ks b) 1)
  | .dslice d a b => some (shI (ka d) (ka a ++ ks b) 4)
  | .atst k _ d a => some (shI (kp k d) (ka a) 1)
  | .srd d _ => some (shI (ks d) [] 2)
  | .swr n a => some { ws := [keySr n], rs := ks a }
  | .addi d a _ | .subi d a _ | .andi d a _ | .ori d a _ | .xori d a _ => some (shI (ks d) (ks a) 1)
  | .shli d a _ | .shri d a _ | .srai d a _ => some (shI (ks d) (ks a) 1)
  | .lui d _ | .movi d _ => some (shI (ks d) [] 1)
  | .cmpi _ d a _ => some (shI (kp false d) (ks a) 1)
  | .nop => some {}
  | .br _ | .exit | .yield => some { cls := .c }
  | .bri a | .ret a => some { cls := .c, rs := ks a }
  | .call _ => some { cls := .c, ws := [keyS 63], res := [(keyS 63, 1)] }
  | .loop n a _ => some { cls := .c, ws := [keyLc n.toNat], rs := ks a }
  | .lbrk n => some { cls := .c, rs := [keyLc n.toNat] }
  | _ => none

/-- Shapes of the memory forms. -/
def shapeMemory : Instr → Option Shape
  | .ld _ d aa am _ => some (shM 0 (ks d) [] aa am)
  | .st _ d aa am _ | .rst _ d aa am _ | .rred _ d aa am _ => some (shM 0 [] (ks d) aa am)
  | .ldl _ n aa am _ => some (shM 0 (keyLs n.toNat :: ks n) [] aa am)
  | .rld _ d aa am _ => some (shM 0 (ks d) [] aa am)
  | .rldn d aa am _ => some (shM 0 (kv6 d) [] aa am)
  | .vld w d aa am _ => some (shM (wGroups w) (kv6 d) [] aa am)
  | .vst w d aa am _ => some (shM (wGroups w) [] (kv6 d) aa am)
  | .vldl w n aa am _ => some (shM (wGroups w) [keyLs n.toNat, keyV (n.toNat % 32)] [] aa am)
  | .vlds _ d aa _ => some (shM 4 (kv6 d) [] aa false)
  | .vldx _ d aa vi => some (shM 4 (kv6 d) (kv vi) aa false)
  | .vsts _ d aa _ => some (shM 4 [] (kv6 d) aa false)
  | .vstx _ d aa vi => some (shM 4 [] (kv6 d ++ kv vi) aa false)
  | .vaadd _ w d aa am _ | .vaor _ w d aa am _ | .vamax _ w d aa am _ => some (shM (if w then 4 else 2) [] (kv6 d) aa am)
  | .vafadd w d aa am _ => some (shM (if w then 4 else 2) [] (kv6 d) aa am)
  | .vbupd _ w d aa am _ => some (shM (wGroups w) [] (kv6 d) aa am)
  | .aadd _ d aa am _ | .amin _ d aa am _ | .amax _ d aa am _ | .aminn _ d aa am _ | .amaxn _ d aa am _
  | .aand _ d aa am _ | .aor _ d aa am _ | .axor _ d aa am _ | .axchg _ d aa am _ => some (shM 0 (ks d) (ks d) aa am)
  | .acas _ d aa am _ => some (shM 0 (ks d) (ks d ++ ks (d + 1)) aa am)
  | .afadd d aa am _ | .afmin d aa am _ | .afmax d aa am _ => some (shM 0 (ks d) (ks d) aa am)
  | _ => none

/-- Shapes of the vector forms. The spec does not say whether PATSW and PATLD write a register in the sense of COND 1 (02 R39):
in the model PATSW writes none, so a bundle may hold two of them, and they invert PBANK once; two PATLDs of one logical pattern
write one register, so their bundle is illegal (07 R143). DESIGN CHOICE, log 41. -/
def shapeVector : Instr → Option Shape
  | .vadd w d a b _ _ t | .vsub w d a b _ _ t | .vmin w d a b _ _ t | .vmax w d a b _ _ t =>
    some (shV (wGroups w) (kv d) (kv a ++ kv b) (latT t))
  | .vmul w d a b _ _ t | .vmulh w d a b _ _ t => some (shV (wGroups w) (kv d) (kv a ++ kv b) (latM t))
  | .vabs w d a _ t | .vneg w d a _ t => some (shV (wGroups w) (kv d) (kv a) (latT t))
  | .vfma w d a b _ _ _ | .vfms w d a b _ _ _ => some (shV (wGroups w) (kv d) (kv a ++ kv b ++ kv d) 4)
  | .vand w d a b _ _ | .vor w d a b _ _ | .vxor w d a b _ _ => some (shV (wGroups w) (kv d) (kv a ++ kv b) 2)
  | .vnot w d a _ => some (shV (wGroups w) (kv d) (kv a) 2)
  | .vpopc w d a _ _ | .vclz w d a _ _ | .vbcast w d a _ _ => some (shV (wGroups w) (kv d) (kv a) 2)
  | .vshl w d a b _ _ _ | .vshr w d a b _ _ _ | .vsra w d a b _ _ _ => some (shV (wGroups w) (kv d) (kv a ++ kv b) 2)
  | .vsel w d a b _ _ k => some (shV (wGroups w) (kv d) (kv a ++ kv b ++ [keyK k.toNat]) 2)
  | .viota w d _ => some (shV (wGroups w) (kv d) [] 2)
  | .vmovs w d a b _ _ => some (shV (wGroups w) (ks (d.setWidth 6)) (kv a ++ ks (b.setWidth 6)) 3)
  | .vins w d a b _ => some (shV (wGroups w) (kv d) (kv d ++ ks (a.setWidth 6) ++ ks (b.setWidth 6)) 2)
  | .vcmp _ w d a b _ _ _ => some (shV (wGroups w) (kk d) (kv a ++ kv b) 2)
  | .vcvt _ _ _ w d a _ _ => some (shV (wGroups w) (kv d) (kv a) 3)
  | .vrnd _ w d a _ _ => some (shV (wGroups w) (kv d) (kv a) 3)
  | .vrcp w d a _ _ | .vrsq w d a _ _ | .vsqrt w d a _ _ | .vexp2 w d a _ _ | .vlog2 w d a _ _ | .vtanh w d a _ _
  | .vscan w d a _ _ => some (shV (wGroups w) (kv d) (kv a) 8)
  | .vrsum w d a _ _ | .vrmax w d a _ _ | .vrmin w d a _ _ => some (shV (wGroups w) (kv d) (kv a) 6)
  | .vshuf k n w d a b _ _ => some (shV (wGroups w) (kv d) (kv a ++ kv b ++ [keyPat k n]) 3)
  | .vpack _ w d a b _ _ _ => some (shV (wGroups w) (kv d) (kv a ++ kv b) 3)
  | .vunpk _ _ w d a _ _ => some (shV (wGroups w) (kv d) (kv a) 3)
  | .vldm k d row => some (shV 4 (kv6 d) [keyRow k row] 2)
  | .vstm k d row => some { cls := .v, groups := 4, ws := [keyRow k row], rs := kv6 d }
  | .vclr w d => some (shV (wGroups w) (kv d) [] 1)
  | .kand d a b | .kor d a b => some (shV 1 (kk d) (kk a ++ kk b) 1)
  | .knot d a | .kmov d a => some (shV 1 (kk d) (kk a) 1)
  | .patld k n a _ => some (shV 4 [keyPat k n] (kv a) 4)
  | .patsw => some (shV 1 [] [] 1)
  | _ => none

/-- Shapes of the matrix forms. What a beat reads beside its tile depends on the A-stage and the binding (08 R150, R153),
and the results of the forms are timed from their turn of the port (08 R148). REPT counts as reading the address registers that it
names (R158). DESIGN CHOICE, log 46. -/
def shapeMatrix : Instr → Option Shape
  | .macc z _ _ _ | .mtern z _ _ _ => some { cls := .x, ws := [keyZ z.toNat], rs := [keyZ z.toNat] }
  | .mpush va => some { cls := .x, rs := kv va }
  | .mshift _ => some { cls := .x }
  | .mdrain z aa _ _ => some { cls := .x, groups := 4, rs := kaa aa ++ [keyZ z.toNat] }
  | .mdrainQ z _ _ => some { cls := .x, rs := [keyZ z.toNat] }
  | .mclr z => some { cls := .x, ws := [keyZ z.toNat] }
  | .mbsel _ => some { cls := .x }
  | .vrdz z d _ _ => some { cls := .x, groups := 4, ws := kv d, rs := [keyZ z.toNat] }
  | .fmtld aa n => some { cls := .x, ws := [keyFt n.toNat], rs := kaa aa }
  | .fmtsel _ l => some { cls := .x, rs := [keyLc l.toNat] }
  | .fmtrd d n => some { cls := .x, ws := ks (d.setWidth 6), rs := [keyFt n.toNat] }
  | .rept x y _ _ =>
    some { cls := .x, rs := (if x = 63 then [] else ka x) ++ (if y = 63 then [] else ka y) }
  | _ => none

/-- Shapes of the system forms. -/
def shapeSystem : Instr → Option Shape
  | .fence d a _ st => some (shY (ks d) (if st.getLsbD 4 then ks a else []))
  | .blk a _ | .jobw _ _ a | .jobwait a | .trfree a | .trfrz a | .clabort a | .tgwait a | .brel a | .bown a | .rofree a
  | .rotrim a | .roret a | .pempt a => some (shY [] (ks a))
  | .xbegin d | .jobgo _ d | .wsplit d => some (shY (ks d) [])
  | .xabort _ | .evsig _ | .evwait _ | .slack _ | .trap _ | .xend | .drainCpl | .drainCpsh | .drainGath | .drainCol | .eret
  | .idle => some (shY [] [])
  | .barp src aa | .bara src aa => some (shY [] (ks src ++ ka aa))
  | .barw d aa | .cpy d aa | .gath d aa | .scat d aa | .trmk d aa | .clnest d aa | .lnch d aa | .lnchi d aa | .romk d aa =>
    some (shY (ks d) (ka aa))
  | .trpost seg a | .trsave seg a | .trload seg a | .tredit seg a => some (shY [] (ka seg ++ ks a))
  | .trwait a _ | .clev a _ => some (shY [] (ks a))
  | .trq d a | .roq d a | .syscVersion d a _ | .syscModuleId d a | .syscMsix d a | .syscLog d a | .strd d a =>
    some (shY (ks d) (ks a))
  | .tgdep l e => some (shY [] (ks l ++ ks e))
  | .rocall d a _ | .rocallW d a _ | .rord d a _ => some (shY (ks d) (kArgs d ++ ks a))
  | .tlbiPage src _ | .ctxsv src | .ctxld src => some (shY [] (ka src))
  | .tlbiAll _ _ => some (shY [] [])
  | _ => none

/-- Static facts of a slot's form. -/
def shape (i : Instr) : Shape :=
  ((shapeScalar i).orElse fun _ => (shapeMemory i).orElse fun _ => (shapeVector i).orElse fun _ =>
    (shapeMatrix i).orElse fun _ => shapeSystem i).getD {}

/-- A matrix beat (02 R39 COND 3). -/
def isBeat : Instr → Bool
  | .macc _ _ _ _ | .mtern _ _ _ _ => true
  | _ => false

/-- Privileged forms (03 R47). -/
def isPriv : Instr → Bool
  | .trmk _ _ | .romk _ _ | .strd _ _ | .eret | .tlbiPage _ _ | .tlbiAll _ _ | .ctxsv _ | .ctxld _ | .pempt _ | .idle => true
  | .srd _ n | .swr n _ => n = .pdie
  | _ => false

end Sys2Proof.Machine
end

