-- ==== Sys2Proof/Machine/Bundle.lean ====
section
/-!
DEFINITION. Bundles: headers, the static legality checks, and the fetch of a bundle (02 R24 to R41, 06 R110).
-/
namespace Sys2Proof.Machine
open Store

/-- Kinds of bundle (02 R26). -/
inductive Hdr where | none_ | p | x
  deriving DecidableEq, Repr

/-- A decoded bundle. -/
structure Bundle where
  hdr : Hdr := .none_
  /-- WAIT of a header-P. -/
  wait : Nat := 0
  /-- Instruction slots that decode: position, instruction, selector code. -/
  slots : List (Nat × Instr × Nat) := []
  /-- Conditions of R39 that hold, each with the slots it marks. -/
  marks : List (Nat × BitVec 4) := []
  deriving DecidableEq, Repr

/-- The bit of a slot. -/
def slot4 (n : Nat) : BitVec 4 := BitVec.ofNat 4 (2 ^ n)

/-- Slot word `n` of a bundle (02 R24). -/
def slotWord (b : BitVec 128) (n : Nat) : BitVec 32 := b.extractLsb' (32 * n) 32

/-- Largest defined PSEL (02 R30). -/
def pselMax : Nat := 7189056

/-- Selector code of a slot. -/
def selOf (psel n : Nat) : Nat := match n with | 1 => psel % 193 | 2 => psel / 193 % 193 | 3 => psel / 37249 | _ => 0

/-- Predicate register of a selector code and whether the slot executes when it is true (02 R30). -/
def selReg (c : Nat) : Nat × Bool := if c ≤ 96 then (c - 1, true) else (c - 97, false)

/-- Whether a slot executes. -/
def executes (s : State) (c : Nat) : Bool := if c = 0 then true else let r := selReg c; rP s r.1 == r.2

/-- Decodes an instruction slot, with the conditions 4 to 8 of R39 that hold for it. A major to which 03 R44 gives no lend
has any nonzero lend reserved, the reserved majors and the headers among them. -/
def decodeAt (n : Nat) (w : BitVec 32) (x : Bool) (lend : BitVec 8) : Option Instr × List (Nat × BitVec 4) :=
  let major := (fld w 26 6).toNat
  let badLend := x && !lendFits ((lendOfWord w).getD .none_) lend
  let m8 := if badLend then [(8, slot4 n ||| slot4 0)] else []
  if major = 0x3C ∨ major = 0x3D then (none, (4, slot4 n) :: m8)
  else if major ≥ 0x3E then (none, (5, slot4 n) :: m8)
  else
    let i := if x then decodeSlot w lend else decodePlain w
    match i with
    | none => (none, (6, slot4 n) :: m8)
    | some i => (some i, (if (shape i).cls.allows n then [] else [(7, slot4 n)]) ++ m8)

/-- Slots of which a condition on pairs of slots holds. -/
def markAll (p : Nat × Instr × Nat → Bool) (l : List (Nat × Instr × Nat)) : BitVec 4 :=
  (l.filter p).foldl (fun m x => m ||| slot4 x.1) 0

/-- Conditions 1 to 3 of R39. -/
def crossMarks (l : List (Nat × Instr × Nat)) : List (Nat × BitVec 4) :=
  let keys := l.flatMap fun x => (shape x.2.1).ws.eraseDups
  let twice := keys.eraseDups.filter fun k => decide (keys.count k ≥ 2)
  let groups := l.foldl (fun n x => n + (shape x.2.1).groups) 0
  let beats := l.filter fun x => isBeat x.2.1
  twice.map (fun k => (1, markAll (fun x => (shape x.2.1).ws.contains k) l)) ++
  (if groups > 8 then [(2, markAll (fun x => decide ((shape x.2.1).groups > 0)) l)] else []) ++
  (if beats.length > 1 then [(3, markAll (fun x => isBeat x.2.1) l)] else [])

/-- Decodes a bundle completely (02 R40). -/
def decodeBundle (b : BitVec 128) : Bundle :=
  let w0 := slotWord b 0
  let major := (fld w0 26 6).toNat
  let hdr : Hdr := if major = 0x3C then .p else if major = 0x3D then .x else .none_
  let psel := (fld w0 0 23).toNat
  let h6 := (decide (hdr = .p) && decide (psel > pselMax)) || (decide (hdr = .x) && decide (fld w0 24 2 ≠ 0))
  let first := if hdr = .none_ then 0 else 1
  let ds := (span first (4 - first)).map fun n =>
    let lend : BitVec 8 := match n with | 1 => fld w0 0 8 | 2 => fld w0 8 8 | 3 => fld w0 16 8 | _ => 0
    (n, decodeAt n (slotWord b n) (hdr = .x) lend)
  let slots := ds.filterMap fun d => d.2.1.map fun i =>
    (d.1, i, if hdr = .p ∧ psel ≤ pselMax then selOf psel d.1 else 0)
  { hdr := hdr, wait := if hdr = .p then (fld w0 23 3).toNat else 0, slots := slots,
    marks := (if h6 then [(6, slot4 0)] else []) ++ ds.flatMap (fun d => d.2.2) ++ crossMarks slots }

/-- The bundle is legal. -/
def Bundle.legal (b : Bundle) : Bool := b.marks.isEmpty
/-- TRAPMASK COND and SLOTS of an illegal bundle (02 R40). -/
def Bundle.cond (b : Bundle) : BitVec 4 := BitVec.ofNat 4 (b.marks.foldl (fun m x => Nat.min m x.1) 8)
def Bundle.bad (b : Bundle) : BitVec 4 := b.marks.foldl (fun m x => m ||| x.2) 0

/-- The 16 bytes at an address, fetched from DEVICE under the function's root: trap code on a fault (06 R110). -/
def State.fetchAt (s : State) (core f : Nat) (pc : Word) : Except (BitVec 8) (BitVec 128) :=
  if !inWindow .device pc.toNat then .error 0x06
  else match s.xlat core f pc.toNat .fetch with
    | .error c => .error c
    | .ok l =>
      let k := s.locKey l
      if s.poisoned k 16 then .error 0x10 else .ok (BitVec.ofNat 128 (ofBytes (s.bytes k 16)))

end Sys2Proof.Machine
end

