-- ==== Sys2Proof/Machine/Vector.lean ====
section
/-!
DEFINITION. Meanings of the vector forms (07 R119 to R143).
-/
namespace Sys2Proof.Machine
open Store

/-! ### What the forms share -/

/-- Rounding mode and FTZ of the entry in force (05 R90). -/
def vRnd (s : State) : RMode := fRnd (curFmt s)
def vFtz (s : State) : Bool := fFtz (curFmt s)

/-- Last-use marks of the two sources (02 R43, 07 R122). -/
def lastUse (a : BitVec 5) (la : Bool) (b : BitVec 5) (lb : Bool) (s : State) : State :=
  let s := if la then kill a.toNat s else s
  if lb then kill b.toNat s else s

/-- A slot that reads the v registers `ns`, raises status and then commits `k`. -/
def vslot (ns : List Nat) (st : Status) (k : State → State) (s : State) : Out :=
  .next (readingV ns s fun dead => withStatus (dead ||| st) k s)

/-- A slot that reads `ns` and writes the low `n` bits of vd. -/
def vwrite (d : BitVec 5) (n : Nat) (ns : List Nat) (use : State → State) (r : Nat × Status) (s : State) : Out :=
  vslot ns r.2 (fun s => use (wVlow s d.toNat n r.1)) s

/-- Packs elements with their status. -/
def packed (e : Nat) (rs : List (Nat × Status)) : Nat × Status := let g := gather rs; (packEls e g.1, g.2)

/-- Elementwise form of two sources. -/
def vec2 (f : Nat → Nat → Nat × Status) (e : Nat) (w : Width) (d a b : BitVec 5) (la lb : Bool) (s : State) : Out :=
  let n := widthBits w / e
  vwrite d (widthBits w) [a.toNat, b.toNat] (lastUse a la b lb)
    (packed e (List.zipWith f (elems (rV s a.toNat) e n) (elems (rV s b.toNat) e n))) s

/-- Elementwise form of one source. -/
def vec1 (f : Nat → Nat × Status) (e : Nat) (w : Width) (d a : BitVec 5) (la : Bool) (s : State) : Out :=
  vwrite d (widthBits w) [a.toNat] (lastUse a la 0 false)
    (packed e ((elems (rV s a.toNat) e (widthBits w / e)).map f)) s

/-- Elementwise form of two sources and the old destination. -/
def vec3 (f : Nat → Nat → Nat → Nat × Status) (e : Nat) (w : Width) (d a b : BitVec 5) (la lb : Bool) (s : State) : Out :=
  let n := widthBits w / e
  vwrite d (widthBits w) [d.toNat, a.toNat, b.toNat] (lastUse a la b lb)
    (packed e (List.zipWith (fun p c => f p.1 p.2 c)
      (List.zip (elems (rV s a.toNat) e n) (elems (rV s b.toNat) e n)) (elems (rV s d.toNat) e n))) s

/-- An integer function of two elements, read as the type says; the result wraps. -/
def onInts (t : ETy) (f : Int → Int → Int) (x y : Nat) : Nat × Status :=
  (intBits t.bits (f (intVal t.isSint t.bits x) (intVal t.isSint t.bits y)), 0)

/-- Either the floating function or the integer one, as the type says. -/
def byType (t : ETy) (fl : FFmt → Nat → Nat → Nat × Status) (int : Int → Int → Int) (x y : Nat) : Nat × Status :=
  match etyFmt t with
  | some f => fl f x y
  | none => onInts t int x y

/-! ### Arithmetic (07 R124, R125) -/

/-- Sum, difference, product, extremes of two elements. -/
def eAdd (md : RMode) (ftz : Bool) (t : ETy) : Nat → Nat → Nat × Status := byType t (fun f => fadd f md ftz) (· + ·)
def eSub (md : RMode) (ftz : Bool) (t : ETy) : Nat → Nat → Nat × Status := byType t (fun f => fsub f md ftz) (· - ·)
def eMul (md : RMode) (ftz : Bool) (t : ETy) : Nat → Nat → Nat × Status := byType t (fun f => fmul f md ftz) (· * ·)
def eMin (ftz : Bool) (t : ETy) : Nat → Nat → Nat × Status := byType t (fun f => fminmax f ftz false) min
def eMax (ftz : Bool) (t : ETy) : Nat → Nat → Nat × Status := byType t (fun f => fminmax f ftz true) max
/-- An element as a result of its own: a floating one through its value, so that a NaN comes out canonical. -/
def eSame (ftz : Bool) (t : ETy) (x : Nat) : Nat × Status :=
  match etyFmt t with
  | some f => match fdecode f ftz x with
    | .nan q => (f.nan, stIf q stInv)
    | _ => (fpass f ftz x, 0)
  | none => (x, 0)

/-- VADD. -/
def execVadd (w : Width) (d a b : BitVec 5) (la lb : Bool) (t : ETy) (s : State) : Out :=
  vec2 (eAdd (vRnd s) (vFtz s) t) t.bits w d a b la lb s
/-- VSUB. -/
def execVsub (w : Width) (d a b : BitVec 5) (la lb : Bool) (t : ETy) (s : State) : Out :=
  vec2 (eSub (vRnd s) (vFtz s) t) t.bits w d a b la lb s
/-- VMUL. -/
def execVmul (w : Width) (d a b : BitVec 5) (la lb : Bool) (t : ETy) (s : State) : Out :=
  vec2 (eMul (vRnd s) (vFtz s) t) t.bits w d a b la lb s
/-- VMULH. -/
def execVmulh (w : Width) (d a b : BitVec 5) (la lb : Bool) (t : ETy) (s : State) : Out :=
  vec2 (onInts t fun x y => x * y / 2 ^ t.bits) t.bits w d a b la lb s
/-- VMIN. -/
def execVmin (w : Width) (d a b : BitVec 5) (la lb : Bool) (t : ETy) (s : State) : Out :=
  vec2 (eMin (vFtz s) t) t.bits w d a b la lb s
/-- VMAX. -/
def execVmax (w : Width) (d a b : BitVec 5) (la lb : Bool) (t : ETy) (s : State) : Out :=
  vec2 (eMax (vFtz s) t) t.bits w d a b la lb s
/-- VABS. -/
def execVabs (w : Width) (d a : BitVec 5) (la : Bool) (t : ETy) (s : State) : Out :=
  vec1 (fun x => byType t (fun f x _ => fabsneg f (vFtz s) false x) (fun x _ => x.natAbs) x x) t.bits w d a la s
/-- VNEG. -/
def execVneg (w : Width) (d a : BitVec 5) (la : Bool) (t : ETy) (s : State) : Out :=
  vec1 (fun x => byType t (fun f x _ => fabsneg f (vFtz s) true x) (fun x _ => 0 - x) x x) t.bits w d a la s
/-- Fused multiply-add of three elements. -/
def eFma (md : RMode) (ftz neg : Bool) (t : ETy) (x y c : Nat) : Nat × Status :=
  match etyFmt t with
  | some f => ffma f md ftz neg x y c
  | none => (0, 0)
/-- VFMA. -/
def execVfma (w : Width) (d a b : BitVec 5) (la lb : Bool) (t : ETy) (s : State) : Out :=
  vec3 (eFma (vRnd s) (vFtz s) false t) t.bits w d a b la lb s
/-- VFMS: the old destination minus the product. -/
def execVfms (w : Width) (d a b : BitVec 5) (la lb : Bool) (t : ETy) (s : State) : Out :=
  vec3 (eFma (vRnd s) (vFtz s) true t) t.bits w d a b la lb s

/-! ### Logic and counts (07 R126) -/

/-- Bitwise form of two sources. -/
def vlog2 (f : VReg → VReg → VReg) (w : Width) (d a b : BitVec 5) (la lb : Bool) (s : State) : Out :=
  vwrite d (widthBits w) [a.toNat, b.toNat] (lastUse a la b lb) ((f (rV s a.toNat) (rV s b.toNat)).toNat, 0) s

/-- VAND. -/
def execVand (w : Width) (d a b : BitVec 5) (la lb : Bool) (s : State) : Out := vlog2 (· &&& ·) w d a b la lb s
/-- VOR. -/
def execVor (w : Width) (d a b : BitVec 5) (la lb : Bool) (s : State) : Out := vlog2 (· ||| ·) w d a b la lb s
/-- VXOR. -/
def execVxor (w : Width) (d a b : BitVec 5) (la lb : Bool) (s : State) : Out := vlog2 (· ^^^ ·) w d a b la lb s
/-- VNOT. -/
def execVnot (w : Width) (d a : BitVec 5) (la : Bool) (s : State) : Out :=
  vwrite d (widthBits w) [a.toNat] (lastUse a la 0 false) ((~~~ rV s a.toNat).toNat, 0) s
/-- VPOPC. -/
def execVpopc (w : Width) (d a : BitVec 5) (la : Bool) (t : ETy) (s : State) : Out :=
  vec1 (fun x => (popNat t.bits x, 0)) t.bits w d a la s
/-- VCLZ. -/
def execVclz (w : Width) (d a : BitVec 5) (la : Bool) (t : ETy) (s : State) : Out :=
  vec1 (fun x => (clzNat t.bits x, 0)) t.bits w d a la s

/-! ### Shifts, selection, element moves (07 R127, R128) -/

/-- VSHL. -/
def execVshl (w : Width) (d a b : BitVec 5) (la lb : Bool) (t : ETy) (s : State) : Out :=
  vec2 (fun x n => (if n ≥ t.bits then 0 else x * 2 ^ n, 0)) t.bits w d a b la lb s
/-- VSHR. -/
def execVshr (w : Width) (d a b : BitVec 5) (la lb : Bool) (t : ETy) (s : State) : Out :=
  vec2 (fun x n => (if n ≥ t.bits then 0 else x / 2 ^ n, 0)) t.bits w d a b la lb s
/-- VSRA. -/
def execVsra (w : Width) (d a b : BitVec 5) (la lb : Bool) (t : ETy) (s : State) : Out :=
  vec2 (fun x n => (intBits t.bits (intVal true t.bits x / 2 ^ (Nat.min n t.bits)), 0)) t.bits w d a b la lb s
/-- VSEL. -/
def execVsel (w : Width) (d a b : BitVec 5) (la lb : Bool) (k : BitVec 4) (s : State) : Out :=
  let m := rK s k.toNat
  let n := widthBits w / 8
  let pick := (List.range n).map fun i => if m.getLsbD i then elem (rV s a.toNat) i 8 else elem (rV s b.toNat) i 8
  vwrite d (widthBits w) [a.toNat, b.toNat] (lastUse a la b lb) (packEls 8 pick, 0) s
/-- VBCAST. -/
def execVbcast (w : Width) (d a : BitVec 5) (la : Bool) (t : ETy) (s : State) : Out :=
  let x := elem (rV s a.toNat) 0 t.bits
  vwrite d (widthBits w) [a.toNat] (lastUse a la 0 false) (packEls t.bits (List.replicate (widthBits w / t.bits) x), 0) s
/-- VIOTA: each index, converted exactly. -/
def execViota (w : Width) (d : BitVec 5) (t : ETy) (s : State) : Out :=
  vwrite d (widthBits w) [] id
    (packEls t.bits ((List.range (widthBits w / t.bits)).map fun (j : Nat) => (convInt t .rne false false (j : Int)).1), 0) s
/-- VMOVS. -/
def execVmovs (w : Width) (d a b : BitVec 5) (la : Bool) (t : ETy) (s : State) : Out :=
  let i := (rS s (b.setWidth 6)).toNat
  let x := elem (rV s a.toNat) i t.bits
  let v : Word := if i ≥ widthBits w / t.bits then 0 else BitVec.ofInt 64 (intVal t.isSint t.bits x)
  vslot [a.toNat] 0 (fun s => lastUse a la 0 false (wS s (d.setWidth 6) v)) s
/-- VINS: vd is read even when the index is out of range. -/
def execVins (w : Width) (d a b : BitVec 5) (t : ETy) (s : State) : Out :=
  let i := (rS s (b.setWidth 6)).toNat
  let old := elems (rV s d.toNat) t.bits (widthBits w / t.bits)
  vwrite d (widthBits w) [d.toNat] id (packEls t.bits (old.set i ((rS s (a.setWidth 6)).toNat % 2 ^ t.bits)), 0) s

/-! ### Comparison (07 R129) -/

/-- Truth of a vector condition from "below" and "equal". -/
def vtruth (c : Cond) (lt eq gt : Bool) : Bool :=
  match c with
  | .eq => eq | .ne => !eq | .lt | .ltn => lt | .le | .len => lt || eq | .gt | .gtn => gt | .ge | .gen => gt || eq

/-- Comparison of two elements. -/
def vcmpEl (c : Cond) (ftz : Bool) (t : ETy) (x y : Nat) : Bool × Status :=
  match etyFmt t with
  | some f =>
    let a := fdecode f ftz x
    let b := fdecode f ftz y
    let un := isNan a || isNan b
    let lt := fltV false a b
    let gt := fltV false b a
    (vtruth c lt (!un && !lt && !gt) gt, stIf (isSig a || isSig b) stInv)
  | none =>
    let a := intVal t.isSint t.bits x
    let b := intVal t.isSint t.bits y
    (vtruth c (decide (a < b)) (decide (a = b)) (decide (b < a)), 0)

/-- VCMP: the mask bits of every byte of an element. -/
def execVcmp (c : Cond) (w : Width) (d a b : BitVec 5) (la lb : Bool) (t : ETy) (s : State) : Out :=
  let n := widthBits w / t.bits
  let rs := List.zipWith (vcmpEl c (vFtz s) t) (elems (rV s a.toNat) t.bits n) (elems (rV s b.toNat) t.bits n)
  let bytes := t.bits / 8
  let m := packEls bytes (rs.map fun r => if r.1 then 2 ^ bytes - 1 else 0)
  let old := (rd 0 s.me.regs.k d.toNat).toNat
  let nb := widthBits w / 8
  vslot [a.toNat, b.toNat] (rs.foldl (fun st r => st ||| r.2) 0)
    (fun s => lastUse a la b lb (wK s d.toNat (BitVec.ofNat 128 (old / 2 ^ nb * 2 ^ nb + m)))) s

/-! ### Conversions (07 R130, R131, R138) -/

/-- Trit j of a packed T5 source, with the status of a reserved byte (05 R83). -/
def tritOf (v : VReg) (j : Nat) : Int × Status :=
  let b := elem v (j / 5) 8
  ((decode5 b).getD (j % 5) 0, stIf (decide (b ≥ 243)) stRtd)

/-- VCVT. -/
def execVcvt (sat : Bool) (r : RMode) (src : ETy) (w : Width) (d a : BitVec 5) (la : Bool) (t : ETy) (s : State) : Out :=
  let n := widthBits w / Nat.max src.bits t.bits
  let v := rV s a.toNat
  let rs := if src = .t5 then
      (List.range n).map fun j =>
        let x := tritOf v j
        let y := convInt t r sat (vFtz s) x.1
        (y.1, y.2 ||| x.2)
    else (elems v src.bits n).map (convert t src r sat (vFtz s))
  vwrite d (n * t.bits) [a.toNat] (lastUse a la 0 false) (packed t.bits rs) s

/-- VRND. -/
def execVrnd (r : RMode) (w : Width) (d a : BitVec 5) (la : Bool) (t : ETy) (s : State) : Out :=
  vec1 (fun x => match etyFmt t with | some f => frint f r (vFtz s) x | none => (x, 0)) t.bits w d a la s

/-- VPACK: both sources narrowed into one destination (07 R137). -/
def execVpack (sat : Bool) (w : Width) (d a b : BitVec 5) (la lb : Bool) (t : ETy) (s : State) : Out :=
  match t.packSrc with
  | none => .next s
  | some src =>
    let n := widthBits w / src.bits
    let cv := (elems (rV s a.toNat) src.bits n ++ elems (rV s b.toNat) src.bits n).map
      (convert t src (vRnd s) sat (vFtz s))
    vwrite d (widthBits w) [a.toNat, b.toNat] (lastUse a la b lb) (packed t.bits cv) s

/-- VUNPK: half of the source widened exactly; FTZ has no part in it. -/
def execVunpk (hi : Bool) (src : ETy) (w : Width) (d a : BitVec 5) (la : Bool) (t : ETy) (s : State) : Out :=
  let n := widthBits w / t.bits
  let xs := (elems (rV s a.toNat) src.bits (2 * n)).drop (if hi then n else 0)
  vwrite d (widthBits w) [a.toNat] (lastUse a la 0 false) (packed t.bits ((xs.take n).map (convert t src .rne false false))) s

/-! ### Special functions (07 R132) -/

/-- A special function of each element. -/
def vspecial (g : SFun) (w : Width) (d a : BitVec 5) (la : Bool) (t : ETy) (s : State) : Out :=
  vec1 (fun x => match etyFmt t with | some f => fspecial g f (vRnd s) (vFtz s) x | none => (x, 0)) t.bits w d a la s

/-- VRCP. -/
def execVrcp (w : Width) (d a : BitVec 5) (la : Bool) (t : ETy) (s : State) : Out := vspecial .rcp w d a la t s
/-- VRSQ. -/
def execVrsq (w : Width) (d a : BitVec 5) (la : Bool) (t : ETy) (s : State) : Out := vspecial .rsq w d a la t s
/-- VSQRT. -/
def execVsqrt (w : Width) (d a : BitVec 5) (la : Bool) (t : ETy) (s : State) : Out := vspecial .sqrt w d a la t s
/-- VEXP2. -/
def execVexp2 (w : Width) (d a : BitVec 5) (la : Bool) (t : ETy) (s : State) : Out := vspecial .exp2 w d a la t s
/-- VLOG2. -/
def execVlog2 (w : Width) (d a : BitVec 5) (la : Bool) (t : ETy) (s : State) : Out := vspecial .log2 w d a la t s
/-- VTANH. -/
def execVtanh (w : Width) (d a : BitVec 5) (la : Bool) (t : ETy) (s : State) : Out := vspecial .tanh w d a la t s

/-! ### Reductions and scan (07 R133, 05 R91, R92) -/

/-- One level of the pairwise tree. -/
def pairUp (f : Nat → Nat → Nat × Status) : List Nat → List Nat × Status
  | x :: y :: xs =>
    let r := f x y
    let rest := pairUp f xs
    (r.1 :: rest.1, r.2 ||| rest.2)
  | xs => (xs, 0)

/-- The pairwise tree, level by level; `n` bounds the levels. -/
def treeFold (f : Nat → Nat → Nat × Status) : Nat → List Nat → Nat × Status
  | 0, xs => (xs.headD 0, 0)
  | _ + 1, [] => (0, 0)
  | _ + 1, [x] => (x, 0)
  | n + 1, xs =>
    let l := pairUp f xs
    let r := treeFold f n l.1
    (r.1, l.2 ||| r.2)

/-- Left-to-right prefix. -/
def scanFrom (f : Nat → Nat → Nat × Status) (acc : Nat) : List Nat → List Nat × Status
  | [] => ([], 0)
  | x :: xs =>
    let r := f acc x
    let rest := scanFrom f r.1 xs
    (r.1 :: rest.1, r.2 ||| rest.2)

/-- A reduction into element 0, zero elsewhere. -/
def vreduce (f : Nat → Nat → Nat × Status) (w : Width) (d a : BitVec 5) (la : Bool) (t : ETy) (s : State) : Out :=
  let r := treeFold f 8 (elems (rV s a.toNat) t.bits (widthBits w / t.bits))
  vwrite d (widthBits w) [a.toNat] (lastUse a la 0 false) (r.1 % 2 ^ t.bits, r.2) s

/-- VRSUM. -/
def execVrsum (w : Width) (d a : BitVec 5) (la : Bool) (t : ETy) (s : State) : Out :=
  vreduce (eAdd (vRnd s) (vFtz s) t) w d a la t s
/-- VRMAX. -/
def execVrmax (w : Width) (d a : BitVec 5) (la : Bool) (t : ETy) (s : State) : Out := vreduce (eMax (vFtz s) t) w d a la t s
/-- VRMIN. -/
def execVrmin (w : Width) (d a : BitVec 5) (la : Bool) (t : ETy) (s : State) : Out := vreduce (eMin (vFtz s) t) w d a la t s
/-- VSCAN: the first element as well is a floating result, a NaN canonical and a subnormal flushed under FTZ (05 R77, R78). -/
def execVscan (w : Width) (d a : BitVec 5) (la : Bool) (t : ETy) (s : State) : Out :=
  let xs := elems (rV s a.toNat) t.bits (widthBits w / t.bits)
  let x := eSame (vFtz s) t (xs.headD 0)
  let r := scanFrom (eAdd (vRnd s) (vFtz s) t) x.1 (xs.drop 1)
  vwrite d (widthBits w) [a.toNat] (lastUse a la 0 false) (packEls t.bits (x.1 :: r.1), x.2 ||| r.2) s

/-! ### Patterns (07 R134 to R136, R143) -/

/-- Physical pattern entry of a logical pattern: bank flipped by PBANK as it stood before the bundle. -/
def patEntry (s : State) (n : Nat) : Nat :=
  (if s.me.iss.pbank then 1 - n / 32 else n / 32) * 32 + n % 32

/-- Contents of a physical entry at cycle `now`: a pattern on its way counts once its cycle has come. -/
def patAt (c : Core) (now e : Nat) : VReg :=
  c.patNext.foldl (fun v p => if p.1 ≤ now ∧ p.2.2.1 = e then p.2.2.2 else v) (rd 0 c.pats e)

/-- Patterns whose cycle has come enter the pattern memory, in their order. -/
def patSettle (now : Nat) (c : Core) : Core :=
  { c with
    pats := (c.patNext.takeWhile fun p => decide (p.1 ≤ now)).foldl (fun m p => wr 0 m p.2.2.1 p.2.2.2) c.pats
    patNext := c.patNext.dropWhile fun p => decide (p.1 ≤ now) }

/-- Lane of 16 bits that a pattern entry selects. -/
def shufLane (x y : VReg) (l q : Nat) : Nat :=
  if q / 128 % 2 = 1 then 0
  else
    let i := q % 128
    if i < 64 then elem x (i % l) 16 else elem y ((i - 64) % l) 16

/-- VSHUF. -/
def execVshuf (bank : Bool) (pat : BitVec 5) (w : Width) (d a b : BitVec 5) (la lb : Bool) (s : State) : Out :=
  let p := patAt (s.core (coreOf s.cur)) (s.pdie (dieOf s.cur)).cycle (patEntry s (pat.toNat + if bank then 32 else 0))
  let l := widthBits w / 16
  vwrite d (widthBits w) [a.toNat, b.toNat] (lastUse a la b lb)
    (packEls 16 ((elems p 16 l).map (shufLane (rV s a.toNat) (rV s b.toNat) l)), 0) s

/-- A pattern that will be written in its cycle, behind those of the cycles up to it. -/
def patPush (p : Nat × Nat × Nat × VReg) (c : Core) : Core :=
  { c with patNext := c.patNext.takeWhile (fun q => decide (q.1 ≤ p.1)) ++ p :: c.patNext.dropWhile fun q => decide (q.1 ≤ p.1) }

/-- PATLD: the entry is fixed now and written when the latency of 4 from the issue of the bundle has passed. -/
def execPatld (bank : Bool) (pat : BitVec 5) (a : BitVec 5) (la : Bool) (s : State) : Out :=
  let now := (s.pdie (dieOf s.cur)).cycle
  vslot [a.toNat] 0 (fun s =>
    lastUse a la 0 false (s.modCore (coreOf s.cur) fun c =>
      patPush (s.me.iss.cycle + 4, s.cur, patEntry s (pat.toNat + if bank then 32 else 0), rV s a.toNat) (patSettle now c))) s

/-- PATSW: PBANK is inverted for later bundles. -/
def execPatsw (s : State) : Out := .next (s.mod fun c => { c with pbank := !c.iss.pbank })

/-! ### Main file, clearing, masks (07 R139 to R142) -/

/-- Number of main-file rows of the context. -/
def myRows (s : State) : Nat := match s.me.task with | some t => t.mwin | none => 0

/-- Contents of a main-file row; one that nothing has written is a free value (log 3), and zero behind a scrub (21 R341). -/
def mainRow (m : Matrix) (rows : PMap VReg) (n : Nat) : VReg := (look rows n).getD (if m.clean then 0 else Config.freeMainRow m.seed n)

/-- Writes a main-file row. -/
def wM (s : State) (n : Nat) (x : VReg) : State :=
  s.mod fun c => { c with mat := { c.mat with main := put c.mat.main n x } }

/-- Row that an operand names. -/
def rowOf (bank : Bool) (row : BitVec 14) : Nat := row.toNat + if bank then 6144 else 0

/-- VLDM: the row as it stood before the bundle. -/
def execVldm (bank : Bool) (d : BitVec 6) (row : BitVec 14) (s : State) : Out :=
  let n := rowOf bank row
  if n ≥ myRows s then .next (trap 0x06 0 0 s)
  else .next (wV s d.toNat (mainRow s.me.mat s.me.iss.main n))

/-- VSTM. -/
def execVstm (bank : Bool) (d : BitVec 6) (row : BitVec 14) (s : State) : Out :=
  let n := rowOf bank row
  if n ≥ myRows s then .next (trap 0x06 0 0 s)
  else vslot [d.toNat] 0 (fun s => wM s n (rV s d.toNat)) s

/-- VCLR. -/
def execVclr (w : Width) (d : BitVec 5) (s : State) : Out := vwrite d (widthBits w) [] id (0, 0) s
/-- KAND. -/
def execKand (d a b : BitVec 5) (s : State) : Out := .next (wK s d.toNat (rK s a.toNat &&& rK s b.toNat))
/-- KOR. -/
def execKor (d a b : BitVec 5) (s : State) : Out := .next (wK s d.toNat (rK s a.toNat ||| rK s b.toNat))
/-- KNOT. -/
def execKnot (d a : BitVec 5) (s : State) : Out := .next (wK s d.toNat (~~~ rK s a.toNat))
/-- KMOV. -/
def execKmov (d a : BitVec 5) (s : State) : Out := .next (wK s d.toNat (rK s a.toNat))

end Sys2Proof.Machine
end

