-- ==== Sys2Proof/Machine/Memory.lean ====
section
/-!
DEFINITION. Bank updates, the checks of an access, and the meanings of the memory forms (10 R168 to R193,
12 R222 to R230, 06 R105, R106).
-/
namespace Sys2Proof.Machine
open Store

/-! ### Updates at a bank (12 R224 to R230) -/

/-- Item of `n` bytes after an atomic, with the status of the bank ALU. -/
def atomNew (op : AOp) (n w x y : Nat) : Nat × Status :=
  let m := 2 ^ (8 * n)
  let sg (v : Nat) : Int := intVal true (8 * n) v
  match op with
  | .add => ((w + x) % m, 0)
  | .min => (if sg x < sg w then x else w, 0)
  | .max => (if sg w < sg x then x else w, 0)
  | .minn => (if x < w then x else w, 0)
  | .maxn => (if w < x then x else w, 0)
  | .and => (w &&& x, 0)
  | .or => (w ||| x, 0)
  | .xor => (w ^^^ x, 0)
  | .xchg => (x, 0)
  | .cas => (if w = x then y else w, 0)
  | .fadd => fadd .f32 .rne false w x
  | .fmin => fminmax .f32 false false w x
  | .fmax => fminmax .f32 false true w x

/-- Fields of a barrier word (12 R237). -/
def barPhase (bs : List Byte) : BitVec 16 := BitVec.ofNat 16 (ofBytes ((bs.drop 14).take 2))
def barLovf (bs : List Byte) : Bool := (BitVec.ofNat 64 (ofBytes (bs.take 8))).getLsbD 62

/-- A post or an arrival at a barrier word, with the completion check (12 R238). -/
def barStep (post : Bool) (x : Nat) (bs : List Byte) : List Byte :=
  let w0 := BitVec.ofNat 64 (ofBytes (bs.take 8))
  let w1 := ofBytes (bs.drop 8)
  let x := x % 2 ^ 48
  let p := post || w0.getLsbD 63
  let exp := if post then x else (w0.extractLsb' 0 48).toNat
  let arr := if post then w1 % 2 ^ 48 else Nat.min (w1 % 2 ^ 48 + x) (2 ^ 48 - 1)
  let ph := w1 / 2 ^ 48
  let bit (b : Bool) (i : Nat) : Nat := if b then 2 ^ i else 0
  if p ∧ exp ≤ arr then
    toBytes 8 (bit (decide (arr ≠ exp)) 62) ++ toBytes 8 ((ph + 1) % 2 ^ 16 * 2 ^ 48 + (arr - exp))
  else
    toBytes 8 (bit p 63 + bit (w0.getLsbD 62) 62 + exp) ++ toBytes 8 (ph * 2 ^ 48 + arr)

/-! ### Checks of an access (10 R168 to R171, R178, R179) -/

/-- Where a checked access goes: storage reached at once, a location with a home, or a walk first, with the location that
the tables now give. -/
inductive Tgt where
  | now (k : Nat)
  | far (l : Loc)
  | miss (va : Nat) (l : Loc)
  deriving DecidableEq, Repr

/-- A die shared memory location, checked against the function's range (21 R343). -/
def State.sharedAt (s : State) (d off : Nat) : Except (BitVec 8) Tgt :=
  if s.grantShared s.myFn d off then .ok (.far (.shared d off)) else .error 0x04

/-- Target of a generic address in window `w` (10 R170, R171). A walk that fails as the tables stand is reported at once,
no later than R178 allows (log 11). -/
def State.target (s : State) (w : Window) (rel : Nat) (acc : Acc) : Except (BitVec 8) Tgt :=
  match w with
  | .local_ => .ok (.now (keyScratch (coreOf s.cur) rel))
  | .peer =>
    match s.vcorePhys s.myFn s.myVdie (rel / 2 ^ 23) with
    | some p => .ok (.now (keyScratch p (rel % 2 ^ 23)))
    | none => .error 0x04
  | .shared => s.sharedAt (rel / 2 ^ 26) (rel % 2 ^ 26)
  | .device =>
    match tlbFind s.myFn rel (s.core (coreOf s.cur)).tlb with
    | none => (s.xlat (coreOf s.cur) s.myFn rel acc).map (.miss rel)
    | some (leaf, block) => (s.leafLoc s.myFn leaf block rel acc).map .far
  | .fabric =>
    let m := rel / 2 ^ 43
    let d := rel / 2 ^ 40 % 8
    let off := rel % 2 ^ 40
    if off / 2 ^ 36 ≥ 2 ∨ (off / 2 ^ 36 = 1 ∧ off % 2 ^ 36 ≥ 2 ^ 26) then .error 0x06
    else if m ≠ s.hub.modid.toNat then .ok (.far (.fabric m d off))
    else if off / 2 ^ 36 = 1 then s.sharedAt d (off % 2 ^ 36)
    else if s.grantDram s.myFn d off then .ok (.far (.dram d off)) else .error 0x04

/-- As `target`, with the walk done at once: forms that check every element before the first (10 R182). -/
def State.targetNow (s : State) (w : Window) (rel : Nat) (acc : Acc) : Except (BitVec 8) Tgt :=
  match s.target w rel acc with
  | .ok (.miss _ l) => .ok (.far l)
  | r => r

/-- Windows that the forms reach (10 R169, 12 R222). -/
def reachPlain (_ : State) (w : Window) (_ : Nat) : Bool := w ≠ .fabric
def reachRemote (_ : State) (_ : Window) (_ : Nat) : Bool := true
def reachVec (_ : State) (w : Window) (_ : Nat) : Bool := w = .local_ || w = .peer || w = .shared
def reachLanding (s : State) (w : Window) (rel : Nat) : Bool :=
  w = .local_ || w = .peer || w = .device || (w = .shared && decide (rel / 2 ^ 26 = s.myVdie))

/-- What an elided region may reach (12 R234 cause 0x03). -/
def elidedReach (s : State) (w : Window) (rel : Nat) : Bool :=
  w = .local_ || w = .peer || (w = .shared && decide (rel / 2 ^ 26 = s.myVdie))

/-- A hold lasts in the 128 cycles after the one in which BLK issued (12 R231). -/
def Hold.lasts (h : Hold) (now : Nat) : Bool := decide (now ≤ h.until_) && decide (h.until_ < now + 128)

/-- Whether another context holds a bank that `n` bytes from key `k` touch (12 R231). -/
def State.barred (s : State) (k n : Nat) : Bool :=
  decide (keyKind k = 1) && (List.range 4).any fun j =>
    let i := (k - 2 ^ 41) / 2 ^ 23 * 4 + j
    decide (i ≠ s.cur) && match (s.ctx i).hold with
      | some h => decide (h.left > 0) && h.lasts (s.pdie (dieOf i)).cycle &&
          (h.mask.getLsbD (k / 256 % 64) || h.mask.getLsbD ((k + n - 1) / 256 % 64))
      | none => false

/-- Whether an access that writes waits for the earlier reads of its context: it is seen only after them (11 R202). What goes
to another module takes its place in order there. -/
def Tgt.after (s : State) (acc : Acc) : Tgt → Bool
  | .far (.fabric _ _ _) => false
  | _ => decide (acc ≠ .read) && s.readsOpen && !s.inElided

/-- Checks an access in the order of its codes, then goes on with its target. -/
def access (i : Instr) (a : Word) (al n : Nat) (acc : Acc) (reach : State → Window → Nat → Bool)
    (k : Tgt → State → Out) (s : State) : Out :=
  if a.toNat % al ≠ 0 then .next (accessFault 0x05 0 a s)
  else match window a with
  | none => .next (accessFault 0x06 0 a s)
  | some (w, rel) =>
    if !reach s w rel then .next (accessFault 0x06 0 a s)
    else if s.inElided && !elidedReach s w rel then .next (abortMe 0x03 s)
    else match s.target w rel acc with
    | .error c => .next (accessFault c (walkDetail c) a s)
    | .ok t =>
      if t.after s acc || (match t with | .now key => s.barred key n | _ => false) then waitFor i s else k t s

/-! ### Reads and writes at once -/

/-- Notes the blocks of an access of an elided region, which aborts past 32 (12 R234 cause 0x02). -/
def noting (k n : Nat) (write : Bool) (f : State → State) (s : State) : State :=
  match s.me.region with
  | .elided e =>
    let add (l : List Nat) : List Nat := (blocks k n).foldl (fun l b => if l.contains b then l else l ++ [b]) l
    let e := if write then { e with wset := add e.wset } else { e with rset := add e.rset }
    if (e.rset ++ e.wset.filter (fun b => !e.rset.contains b)).length > 32 then abortMe 0x02 s
    else f (s.mod fun c => { c with region := .elided e })
  | _ => f s

/-- Bytes as the executing context sees them: a region's own buffered stores first. -/
def State.mine (s : State) (k n : Nat) : List Byte :=
  match s.me.region with
  | .elided e => (span k n).map fun i => (look e.stores i).getD (s.byte i)
  | _ => s.bytes k n

/-- A read served at once: it meets other regions, finds poison, and merges the stamp it reads (11 R198). -/
def readNow (k n : Nat) (a : Word) (f : List Byte → State → State) (s : State) : State :=
  if s.poisoned k n then accessFault 0x10 (BitVec.ofNat 8 (keyKind k)) a s
  else
    let s := s.touch (some s.cur) k n false
    noting k n false (fun s => f (s.mine k n) (mergeClock s.myVdie (s.stampOf k n) s)) s

/-- A write served at once: buffered in an elided region, applied with the die's next stamp otherwise. -/
def writeNow (k : Nat) (bs : List Byte) (s : State) : State :=
  match s.me.region with
  | .elided _ =>
    noting k bs.length true (fun s => s.mod fun c =>
      match c.region with
      | .elided e => { c with region := .elided { e with
          stores := ((span k bs.length).zip bs).foldl (fun m x => put m x.1 x.2) e.stores
          writes := e.writes + 1 } }
      | _ => c) s
  | _ => agentStore s.myVdie (some s.cur) k bs s

/-- No access of the executing context is open, and every home knows the writes of the die's clock: what a form
waits for that reads storage at once. -/
def State.quiet (s : State) : Bool :=
  let p := s.pdie (dieOf s.cur)
  s.settled s.myVdie && !s.readsOpen && !(p.sent.any fun q => decide (q.req.cx = some s.cur) && !q.done) &&
    !(p.walks.any fun w => decide (w.req.cx = some s.cur))

/-- A LOCAL or PEER read behind an earlier read that is still open (11 R198); `post` is what else the slot then commits. -/
def readLate (k n : Nat) (dest : Dest) (a : Word) (park : Bool) (post : State → State) (s : State) : State :=
  if s.poisoned k n then accessFault 0x10 (BitVec.ofNat 8 (keyKind k)) a s
  else let s := post (s.touch (some s.cur) k n false); requestNear k n dest a park (s.bytes k n) s

/-- A read by target: at once, or by a request whose reply goes to `dest`. -/
def readBy (i : Instr) (a : Word) (n : Nat) (dest : Dest) (park : Bool) (post : State → State)
    (f : List Byte → State → State) (t : Tgt) (s : State) : Out :=
  match t with
  | .now k =>
    if s.readsOpen && !s.inElided then .next (readLate k n dest a park post s)
    else .next (readNow k n a (fun bs s => post (f bs s)) s)
  | .far l =>
    if s.inElided then
      if s.quiet then .next (readNow (s.locKey l) n a (fun bs s => post (f bs s)) s) else waitFor i s
    else .next (post (request l (.read n) dest a park s))
  | .miss va l => .next (post (requestWalk va l (.read n) dest a park false s))

/-- A write by target. -/
def writeBy (bs : List Byte) (a : Word) (post : State → State) (t : Tgt) (s : State) : Out :=
  match t with
  | .now k => .next (writeNow k bs (post s))
  | .far l =>
    if s.inElided then .next (writeNow (s.locKey l) bs (post s))
    else .next (post (request l (.write bs) .none a false s))
  | .miss va l => .next (post (requestWalk va l (.write bs) .none a false false s))

/-! ### Scalar loads and stores (10 R180) -/

/-- Register write of a scalar load. -/
def putS (d : BitVec 6) (t : LdTy) (bs : List Byte) (s : State) : State := wS s d (ldValue t bs)
/-- Register write of a vector load of `n` bits. -/
def putV (d n : Nat) (bs : List Byte) (s : State) : State := wVlow s d n (ofBytes bs)

/-- LD. -/
def execLd (sz : LdTy) (d : BitVec 6) (aa : BitVec 5) (am : Bool) (off : BitVec 18) (s : State) : Out :=
  let n := ldSize sz
  let a := mmAddr s aa am off n
  access (.ld sz d aa am off) a n n .read reachPlain
    (readBy (.ld sz d aa am off) a n (.sload d.toNat sz) false (mmPost aa am off n) (putS d sz)) s

/-- ST. -/
def execSt (sz : StSz) (d : BitVec 6) (aa : BitVec 5) (am : Bool) (off : BitVec 18) (s : State) : Out :=
  let n := stSize sz
  let a := mmAddr s aa am off n
  access (.st sz d aa am off) a n n .write reachPlain
    (writeBy (toBytes n (rS s d).toNat) a (mmPost aa am off n)) s

/-! ### Vector loads and stores (10 R181, R182) -/

/-- VLD. -/
def execVld (w : Width) (d : BitVec 6) (aa : BitVec 5) (am : Bool) (off : BitVec 18) (s : State) : Out :=
  let n := widthBits w / 8
  let a := mmAddr s aa am off n
  access (.vld w d aa am off) a n n .read reachPlain
    (readBy (.vld w d aa am off) a n (.vload d.toNat w) false (mmPost aa am off n) (putV d.toNat (8 * n))) s

/-- VST: a killed source stores zero, or traps with checking on (07 R122). -/
def execVst (w : Width) (d : BitVec 6) (aa : BitVec 5) (am : Bool) (off : BitVec 18) (s : State) : Out :=
  let n := widthBits w / 8
  let a := mmAddr s aa am off n
  access (.vst w d aa am off) a n n .write reachPlain
    (fun t s =>
      if isDead s d.toNat ∧ (s.checking ∨ stDead &&& atrapMask s ≠ 0) then vslot [d.toNat] 0 id s
      else writeBy (vBytes (rV s d.toNat) n) a (mmPost aa am off n) t
        (if isDead s d.toNat then raise stDead s else s)) s

/-- Targets of the elements of a strided or indexed form, all checked before the first is used. The first element in element
order that fails gives the code; 10 R182 does not say which does. DESIGN CHOICE, log 41. -/
def elemTargets (s : State) (acc : Acc) : List Word → Except (BitVec 8 × Word) (List Tgt)
  | [] => .ok []
  | a :: as =>
    match window a with
    | none => .error (0x06, a)
    | some (w, rel) =>
      if w = .fabric then .error (0x06, a)
      else match s.targetNow w rel acc with
      | .error c => .error (c, a)
      | .ok t => do .ok (t :: (← elemTargets s acc as))

/-- Fills the translation cache for the elements' pages (10 R177). -/
def fillAll (as : List Word) (s : State) : State :=
  as.foldl (fun s a => match window a with
    | some (.device, va) => s.fill (coreOf s.cur) s.myFn va
    | _ => s) s

/-- Checks every element address: alignment, windows, region, targets, held banks. -/
def vaccess (i : Instr) (n : Nat) (acc : Acc) (as : List Word) (k : List Tgt → State → Out) (s : State) : Out :=
  match as.find? fun a => a.toNat % n ≠ 0 with
  | some a => .next (accessFault 0x05 0 a s)
  | none =>
    let inside := as.all fun a => match window a with
      | some (w, rel) => w = .fabric || elidedReach s w rel
      | none => true
    if s.inElided && !inside then .next (abortMe 0x03 s)
    else match elemTargets s acc as with
    | .error e => .next (accessFault e.1 (walkDetail e.1) e.2 s)
    | .ok ts =>
      if ts.any (fun t => t.after s acc || match t with | .now key => s.barred key n | _ => false) then waitFor i s
      else if s.inElided && !s.quiet then waitFor i s
      else k ts (fillAll as s)

/-- Key of a target that is read or written at once. -/
def tgtKey (s : State) : Tgt → Option Nat
  | .now k => some k
  | .far l => if s.inElided then some (s.locKey l) else none
  | .miss _ _ => none

/-- The elided region in which a form began has aborted meanwhile. -/
def cut (el : Bool) (s : State) : Bool := el && !s.inElided

/-- Reads elements in increasing j: those that come at once, and how many a reply will bring. -/
def loadEls (el : Bool) (d n : Nat) : List (Word × Tgt) → Nat → List Nat × Nat → State → (List Nat × Nat) × State
  | [], _, r, s => (r, s)
  | (a, t) :: ts, j, r, s =>
    match tgtKey s t, t with
    | some k, _ =>
      if s.readsOpen && !el then loadEls el d n ts (j + 1) (r.1 ++ [0], r.2 + 1) (readLate k n (.velem d (8 * n) j) a false id s)
      else loadEls el d n ts (j + 1) (r.1 ++ [ofBytes (s.mine k n)], r.2) (readNow k n a (fun _ s => s) s)
    | none, .far l => loadEls el d n ts (j + 1) (r.1 ++ [0], r.2 + 1) (request l (.read n) (.velem d (8 * n) j) a false s)
    | none, _ => loadEls el d n ts (j + 1) (r.1 ++ [0], r.2) s

/-- Loads elements. The register is written once the last of them has come (10 R182, R184). -/
def vloadEls (d n : Nat) (as : List Word) (ts : List Tgt) (s : State) : State :=
  let keys := ts.map (tgtKey s)
  let el := s.inElided
  match (keys.zip as).find? (fun p => match p.1 with | some k => s.poisoned k n | none => false) with
  | some (some k, a) => accessFault 0x10 (BitVec.ofNat 8 (keyKind k)) a s
  | _ =>
    let r := loadEls el d n (as.zip ts) 0 ([], 0) s
    let v : VReg := BitVec.ofNat 1024 (packEls (8 * n) r.1.1)
    if cut el r.2 then r.2 else if r.1.2 = 0 then wV r.2 d v
      else r.2.mod fun c => { c with vparts := put c.vparts d (v, r.1.2) }

/-- Stores elements in increasing j; `el` says whether the form began in an elided region. -/
def vstoreEls (el : Bool) (n : Nat) : List Nat → List Word → List Tgt → State → State
  | x :: xs, a :: as, t :: ts, s =>
    let s := if cut el s then s else match tgtKey s t, t with
      | some k, _ => writeNow k (toBytes n x) s
      | none, .far l => request l (.write (toBytes n x)) .none a false s
      | none, _ => s
    vstoreEls el n xs as ts s
  | _, _, _, s => s

/-- Element addresses of a strided form. -/
def strided (s : State) (aa : BitVec 5) (str : BitVec 18) (n : Nat) : List Word :=
  (List.range (128 / n)).map fun j => rA s aa.toNat + BitVec.ofNat 64 (j * n) * sx str

/-- Element addresses of an indexed form. -/
def indexed (s : State) (aa vi : BitVec 5) (n : Nat) : List Word :=
  (elems (rV s vi.toNat) (8 * n) (128 / n)).map fun x => rA s aa.toNat + BitVec.ofNat 64 (x * n)

/-- Reads v registers of a memory form: with checking on, or with the dead bit enabled, a killed one traps before
anything is read or written; otherwise ASTAT.dead is raised. -/
def memReads (ns : List Nat) (k : State → Out) (s : State) : Out :=
  if ns.any (isDead s) then
    if s.checking ∨ stDead &&& atrapMask s ≠ 0 then vslot ns 0 id s else k (raise stDead s)
  else k s

/-- VLDS. -/
def execVlds (e : StSz) (d : BitVec 6) (aa : BitVec 5) (str : BitVec 18) (s : State) : Out :=
  let n := stSize e
  let as := strided s aa str n
  vaccess (.vlds e d aa str) n .read as (fun ts s => .next (vloadEls d.toNat n as ts s)) s
/-- VLDX. -/
def execVldx (e : StSz) (d : BitVec 6) (aa vi : BitVec 5) (s : State) : Out :=
  let n := stSize e
  let as := indexed s aa vi n
  vaccess (.vldx e d aa vi) n .read as
    (fun ts s => memReads [vi.toNat] (fun s => .next (vloadEls d.toNat n as ts s)) s) s
/-- VSTS. -/
def execVsts (e : StSz) (d : BitVec 6) (aa : BitVec 5) (str : BitVec 18) (s : State) : Out :=
  let n := stSize e
  let as := strided s aa str n
  vaccess (.vsts e d aa str) n .write as
    (fun ts s => memReads [d.toNat]
      (fun s => .next (vstoreEls s.inElided n (elems (rV s d.toNat) (8 * n) (128 / n)) as ts s)) s) s
/-- VSTX. -/
def execVstx (e : StSz) (d : BitVec 6) (aa vi : BitVec 5) (s : State) : Out :=
  let n := stSize e
  let as := indexed s aa vi n
  vaccess (.vstx e d aa vi) n .write as
    (fun ts s => memReads [d.toNat, vi.toNat]
      (fun s => .next (vstoreEls s.inElided n (elems (rV s d.toNat) (8 * n) (128 / n)) as ts s)) s) s

/-! ### Landing loads (10 R185 to R189) -/

/-- Landing slots of the context. -/
def mySlots (s : State) : Nat := match s.me.task with | some t => t.lslots | none => 0

/-- Opens landing slot `n`. -/
def openSlot (n : Nat) (dest : LandDest) (cyc : Nat) (data : Option VReg) (s : State) : State :=
  let due := (s.pdie (dieOf s.cur)).cycle + cyc
  s.mod fun c => { c with landings := put c.landings n ⟨dest, due, data, c.po, c.iss.pc, c.iss.slot⟩ }

/-- A landing load of `n` bytes: memory is read at its place in program order, delivery comes later. -/
def landing (i : Instr) (slot : BitVec 6) (dest : LandDest) (n : Nat) (aa : BitVec 5) (am : Bool) (cyc : BitVec 10)
    (s : State) : Out :=
  let a := rA s aa.toNat
  let post (s : State) : State := if am then wA s aa.toNat (a + BitVec.ofNat 64 n) else s
  if a.toNat % n ≠ 0 then .next (accessFault 0x05 0 a s)
  else if slot.toNat ≥ mySlots s then .next (accessFault 0x06 0 a s)
  else if (look s.me.landings slot.toNat).isSome then waitFor i s
  else access i a n n .read reachLanding (fun t s =>
    match t with
    | .now k =>
      if s.readsOpen then
        .next (readLate k n (.land slot.toNat) a false (fun s => post (openSlot slot.toNat dest cyc.toNat none s)) s)
      else .next (readNow k n a (fun bs s =>
        post ((openSlot slot.toNat dest cyc.toNat (some (BitVec.ofNat 1024 (ofBytes bs))) s).mod
          fun c => { c with po := c.po + 1 })) s)
    | .far l =>
      if l.home ≠ s.myVdie then .next (accessFault 0x06 0 a s)
      else .next (post (request l (.read n) (.land slot.toNat) a false (openSlot slot.toNat dest cyc.toNat none s)))
    | .miss va l =>
      if l.home ≠ s.myVdie then .next (accessFault 0x06 0 a s)
      else .next (post (requestWalk va l (.read n) (.land slot.toNat) a false true (openSlot slot.toNat dest cyc.toNat none s)))) s

/-- LDL. -/
def execLdl (sz : LdTy) (n : BitVec 6) (aa : BitVec 5) (am : Bool) (cyc : BitVec 10) (s : State) : Out :=
  landing (.ldl sz n aa am cyc) n (.scalar n.toNat sz) (ldSize sz) aa am cyc s
/-- VLDL: ls n delivers into v(n mod 32). -/
def execVldl (w : Width) (n : BitVec 6) (aa : BitVec 5) (am : Bool) (cyc : BitVec 10) (s : State) : Out :=
  landing (.vldl w n aa am cyc) n (.vector (n.toNat % 32) w) (widthBits w / 8) aa am cyc s

/-! ### Remote forms (10 R190 to R193) -/

/-- The strand ends: the context parks once its bundle has committed. -/
def parkMe (s : State) : State := s.mod fun c => { c with iss := { c.iss with park := true } }

/-- RLD. -/
def execRld (sz : LdTy) (d : BitVec 6) (aa : BitVec 5) (am : Bool) (off : BitVec 18) (s : State) : Out :=
  let n := ldSize sz
  let a := mmAddr s aa am off n
  access (.rld sz d aa am off) a n n .read reachRemote
    (readBy (.rld sz d aa am off) a n (.sload d.toNat sz) true (fun s => parkMe (mmPost aa am off n s)) (putS d sz)) s
/-- RLDN. -/
def execRldn (d : BitVec 6) (aa : BitVec 5) (am : Bool) (off : BitVec 18) (s : State) : Out :=
  let a := mmAddr s aa am off 128
  access (.rldn d aa am off) a 128 128 .read reachRemote
    (readBy (.rldn d aa am off) a 128 (.vload d.toNat .w1024) true (fun s => parkMe (mmPost aa am off 128 s))
      (putV d.toNat 1024)) s
/-- RST. -/
def execRst (sz : StSz) (d : BitVec 6) (aa : BitVec 5) (am : Bool) (off : BitVec 18) (s : State) : Out :=
  let n := stSize sz
  let a := mmAddr s aa am off n
  access (.rst sz d aa am off) a n n .write reachRemote
    (writeBy (toBytes n (rS s d).toNat) a (mmPost aa am off n)) s

/-- A die holds a tag, or has room for one (10 R192). -/
def tagHeld (p : PDie) (t : Nat × BitVec 32 × Nat × Nat) : Bool := p.rtags.contains t
def tagRoom (p : PDie) : Bool := decide (p.rtags.length < 32768)

/-- The sum of a reduce-store. -/
def rredNew (fl : Bool) (old x : Nat) : Nat :=
  if fl then (atomNew .fadd 4 old (x % 2 ^ 32) 0).1 else (atomNew .add 8 old x 0).1

/-- RRED: the tag is the launch, the task's index and the count of the task's earlier reduce-stores. 12 R222 does not list RRED:
the model takes its page as that of an atomic, which needs RD and W and is no host page. DESIGN CHOICE, log 41. -/
def execRred (fl : Bool) (d : BitVec 6) (aa : BitVec 5) (am : Bool) (off : BitVec 18) (s : State) : Out :=
  let n := if fl then 4 else 8
  let a := mmAddr s aa am off n
  let x := rS s d
  let tag := (s.myFn, (match s.me.task with | some t => t.lnch | none => 0), (match s.me.task with | some t => t.n | none => 0),
    s.me.rredSeg)
  let post (s : State) : State := mmPost aa am off n (s.mod fun c => { c with rredSeg := c.rredSeg + 1 })
  let op : MemOp := .rred fl x tag.2.1 tag.2.2.1 tag.2.2.2
  access (.rred fl d aa am off) a n n .atomic reachRemote (fun t s =>
    match t with
    | .now k =>
      let p := s.pdie (dieOf s.cur)
      if tagHeld p tag then .next (post s)
      else if !tagRoom p then waitFor (.rred fl d aa am off) s
      else .next (readNow k n a (fun bs s =>
        post (writeNow k (toBytes n (rredNew fl (ofBytes bs) x.toNat))
          (s.modPdie (dieOf s.cur) fun p => { p with rtags := p.rtags ++ [tag] }))) s)
    | .far l =>
      let s := match l with
        | .fabric m d _ => s.mod fun c => { c with rredAt := if c.rredAt.contains (m, d) then c.rredAt else c.rredAt ++ [(m, d)] }
        | _ => s
      .next (post (request l op .none a false s))
    | .miss va l => .next (post (requestWalk va l op .none a false false s))) s

/-! ### Tensor descriptors (06 R105, R106) -/

/-- Property `sel` of the share of virtual die `v`, from the four words of a descriptor. -/
def dsliceValue (ws : List Word) (v : Nat) (sel : Word) : Word :=
  let w2 := ws.getD 2 0
  let w3 := ws.getD 3 0
  let base := ws.getD 0 0
  let stride := ws.getD 1 0
  let esz := (w2.extractLsb' 48 3).toNat
  let n := (w2.extractLsb' 0 48).toNat
  let g := (w3.extractLsb' 16 16).toNat
  let mask := (w3.extractLsb' 0 8).toNat
  if sel.toNat > 3 ∨ w2.extractLsb' 51 13 ≠ 0 ∨ w3.extractLsb' 32 32 ≠ 0 ∨ w3.extractLsb' 8 8 ≠ 0 ∨ esz > 4 ∨ g = 0 ∨ mask = 0
  then BitVec.allOnes 64
  else
    let k := popNat 8 mask
    let c := (n + g - 1) / g
    let holds := decide (mask / 2 ^ v % 2 = 1)
    let r := if holds then popNat v mask else 8
    let c0 := if holds then r * c / k else c
    let c1 := if holds then (r + 1) * c / k else c
    let first := Nat.min n (c0 * g)
    let count := Nat.min n (c1 * g) - first
    let addr := if stride = 0 then base + BitVec.ofNat 64 (first * 2 ^ esz) else base + BitVec.ofNat 64 v * stride
    match sel.toNat with
    | 0 => addr
    | 1 => BitVec.ofNat 64 first
    | 2 => BitVec.ofNat 64 count
    | _ => BitVec.ofNat 64 r

/-- DSLICE. A descriptor whose 32 bytes run past the end of LOCAL takes trap 0x06: 06 R105 speaks of its address alone. DESIGN
CHOICE, log 41. -/
def execDslice (d a b : BitVec 6) (s : State) : Out :=
  let x := rA s a.toNat
  access (.dslice d a b) x 8 32 .read (fun _ w rel => w = .local_ && decide (rel + 32 ≤ 2 ^ 23)) (fun t s =>
    match t with
    | .now k =>
      if s.readsOpen && !s.inElided then waitFor (.dslice d a b) s
      else .next (readNow k 32 x (fun bs s => wA s d.toNat (dsliceValue (wordsOf 4 bs) s.myVdie (rS s b))) s)
    | _ => .next s) s

/-! ### Scalar atomics (12 R224 to R228) -/

/-- Writes the old value, then the status of the bank ALU enters ASTAT and may trap (12 R228). -/
def atomDone (d : BitVec 6) (old : Nat) (st : Status) (a : Word) (post : State → State) (s : State) : State :=
  let s := raise st (wS s d (BitVec.ofNat 64 old))
  if st &&& atrapMask s ≠ 0 then accessFault 0x0A 0 a s else post s

/-- An atomic of `n` bytes. -/
def atomic (i : Instr) (op : AOp) (n : Nat) (d : BitVec 6) (x y : Word) (aa : BitVec 5) (am : Bool) (off : BitVec 18)
    (s : State) : Out :=
  let a := mmAddr s aa am off n
  let x := x.toNat % 2 ^ (8 * n)
  let y := y.toNat % 2 ^ (8 * n)
  let post := mmPost aa am off n
  let here (k : Nat) (s : State) : State := readNow k n a (fun bs s =>
    let r := atomNew op n (ofBytes bs) x y
    let el := s.inElided
    let s := writeNow k (toBytes n r.1) s
    if cut el s then s else atomDone d (ofBytes bs) r.2 a post s) s
  let mop : MemOp := .atom op n (BitVec.ofNat 64 x) (BitVec.ofNat 64 y)
  access i a n n .atomic reachRemote (fun t s =>
    match t with
    | .now k => .next (here k s)
    | .far l =>
      if s.inElided then if s.quiet then .next (here (s.locKey l) s) else waitFor i s
      else .next (post (request l mop (.old d.toNat) a false s))
    | .miss va l => .next (post (requestWalk va l mop (.old d.toNat) a false false s))) s

/-- Size of a scalar atomic. -/
def aSize (e64 : Bool) : Nat := if e64 then 8 else 4

/-- AADD. -/
def execAadd (e64 : Bool) (d : BitVec 6) (aa : BitVec 5) (am : Bool) (off : BitVec 18) (s : State) : Out :=
  atomic (.aadd e64 d aa am off) .add (aSize e64) d (rS s d) 0 aa am off s
/-- AMIN. -/
def execAmin (e64 : Bool) (d : BitVec 6) (aa : BitVec 5) (am : Bool) (off : BitVec 18) (s : State) : Out :=
  atomic (.amin e64 d aa am off) .min (aSize e64) d (rS s d) 0 aa am off s
/-- AMAX. -/
def execAmax (e64 : Bool) (d : BitVec 6) (aa : BitVec 5) (am : Bool) (off : BitVec 18) (s : State) : Out :=
  atomic (.amax e64 d aa am off) .max (aSize e64) d (rS s d) 0 aa am off s
/-- AMINN. -/
def execAminn (e64 : Bool) (d : BitVec 6) (aa : BitVec 5) (am : Bool) (off : BitVec 18) (s : State) : Out :=
  atomic (.aminn e64 d aa am off) .minn (aSize e64) d (rS s d) 0 aa am off s
/-- AMAXN. -/
def execAmaxn (e64 : Bool) (d : BitVec 6) (aa : BitVec 5) (am : Bool) (off : BitVec 18) (s : State) : Out :=
  atomic (.amaxn e64 d aa am off) .maxn (aSize e64) d (rS s d) 0 aa am off s
/-- AAND. -/
def execAand (e64 : Bool) (d : BitVec 6) (aa : BitVec 5) (am : Bool) (off : BitVec 18) (s : State) : Out :=
  atomic (.aand e64 d aa am off) .and (aSize e64) d (rS s d) 0 aa am off s
/-- AOR. -/
def execAor (e64 : Bool) (d : BitVec 6) (aa : BitVec 5) (am : Bool) (off : BitVec 18) (s : State) : Out :=
  atomic (.aor e64 d aa am off) .or (aSize e64) d (rS s d) 0 aa am off s
/-- AXOR. -/
def execAxor (e64 : Bool) (d : BitVec 6) (aa : BitVec 5) (am : Bool) (off : BitVec 18) (s : State) : Out :=
  atomic (.axor e64 d aa am off) .xor (aSize e64) d (rS s d) 0 aa am off s
/-- AXCHG. -/
def execAxchg (e64 : Bool) (d : BitVec 6) (aa : BitVec 5) (am : Bool) (off : BitVec 18) (s : State) : Out :=
  atomic (.axchg e64 d aa am off) .xchg (aSize e64) d (rS s d) 0 aa am off s
/-- ACAS: compares with s d, stores s (d + 1). -/
def execAcas (e64 : Bool) (d : BitVec 6) (aa : BitVec 5) (am : Bool) (off : BitVec 18) (s : State) : Out :=
  atomic (.acas e64 d aa am off) .cas (aSize e64) d (rS s d) (rS s (d + 1)) aa am off s
/-- AFADD. -/
def execAfadd (d : BitVec 6) (aa : BitVec 5) (am : Bool) (off : BitVec 18) (s : State) : Out :=
  atomic (.afadd d aa am off) .fadd 4 d (rS s d) 0 aa am off s
/-- AFMIN. -/
def execAfmin (d : BitVec 6) (aa : BitVec 5) (am : Bool) (off : BitVec 18) (s : State) : Out :=
  atomic (.afmin d aa am off) .fmin 4 d (rS s d) 0 aa am off s
/-- AFMAX. -/
def execAfmax (d : BitVec 6) (aa : BitVec 5) (am : Bool) (off : BitVec 18) (s : State) : Out :=
  atomic (.afmax d aa am off) .fmax 4 d (rS s d) 0 aa am off s

/-! ### Vector atomics and bank updates (12 R229, R230) -/

/-- Applies elements at once, in increasing j. -/
def vatomNow (op : AOp) (n : Nat) (k : Nat) (els : List (Nat × Word)) (s : State) : State :=
  els.foldl (fun s e =>
    let old := ofBytes (s.bytes (k + e.1) n)
    agentStore s.myVdie (some s.cur) (k + e.1) (toBytes n (atomNew op n old (e.2.toNat % 2 ^ (8 * n)) 0).1) s) s

/-- A form of element atomics on `els`, after its address checks. -/
def vatom (i : Instr) (op : AOp) (d : BitVec 6) (n : Nat) (els : List (Nat × Word)) (a : Word) (al size : Nat)
    (reach : State → Window → Nat → Bool) (post : State → State) (s : State) : Out :=
  access i a al size .atomic reach (fun t s => memReads [d.toNat] (fun s =>
    match t with
    | .now k =>
      match els.find? fun e => s.poisoned (k + e.1) n with
      | some e => .next (accessFault 0x10 (BitVec.ofNat 8 (keyKind k)) (a + BitVec.ofNat 64 e.1) s)
      | none => .next (post (vatomNow op n k els s))
    | .far (.shared v o) =>
      if els.all fun e => s.grantShared s.myFn v (o + e.1) then
        .next (post (els.foldl (fun s e => request (.shared v (o + e.1))
          (.atom op n (BitVec.ofNat 64 (e.2.toNat % 2 ^ (8 * n))) 0) .none (a + BitVec.ofNat 64 e.1) false s) s))
      else .next (accessFault 0x04 0 a s)
    | _ => .next (post s)) s) s

/-- The vector atomics of major 0x2A. -/
def vatomForm (i : Instr) (op : AOp) (e64 w1024 : Bool) (d : BitVec 6) (aa : BitVec 5) (am : Bool) (off : BitVec 18)
    (s : State) : Out :=
  let sz := if w1024 then 128 else 64
  let n := aSize e64
  let els := ((elems (rV s d.toNat) (8 * n) (sz / n)).zip (List.range (sz / n))).map fun p => (p.2 * n, BitVec.ofNat 64 p.1)
  vatom i op d n els (mmAddr s aa am off sz) sz sz reachVec (mmPost aa am off sz) s

/-- VAADD. -/
def execVaadd (e64 w1024 : Bool) (d : BitVec 6) (aa : BitVec 5) (am : Bool) (off : BitVec 18) (s : State) : Out :=
  vatomForm (.vaadd e64 w1024 d aa am off) .add e64 w1024 d aa am off s
/-- VAOR. -/
def execVaor (e64 w1024 : Bool) (d : BitVec 6) (aa : BitVec 5) (am : Bool) (off : BitVec 18) (s : State) : Out :=
  vatomForm (.vaor e64 w1024 d aa am off) .or e64 w1024 d aa am off s
/-- VAMAX. -/
def execVamax (e64 w1024 : Bool) (d : BitVec 6) (aa : BitVec 5) (am : Bool) (off : BitVec 18) (s : State) : Out :=
  vatomForm (.vamax e64 w1024 d aa am off) .max e64 w1024 d aa am off s
/-- VAFADD. -/
def execVafadd (w1024 : Bool) (d : BitVec 6) (aa : BitVec 5) (am : Bool) (off : BitVec 18) (s : State) : Out :=
  vatomForm (.vafadd w1024 d aa am off) .fadd false w1024 d aa am off s

/-- Operation of a bank update. -/
def bopOf : BOp → AOp | .addI32 => .add | .addF32 => .fadd | .maxI32 => .max | .orN32 => .or

/-- VBUPD: one 32-bit word in each of n consecutive banks of one die's shared memory. -/
def execVbupd (op : BOp) (w : Width) (d : BitVec 6) (aa : BitVec 5) (am : Bool) (off : BitVec 18) (s : State) : Out :=
  let n := widthBits w / 32
  let els := ((elems (rV s d.toNat) 32 n).zip (List.range n)).map fun p => (p.2 * 256, BitVec.ofNat 64 p.1)
  vatom (.vbupd op w d aa am off) (bopOf op) d 4 els (mmAddr s aa am off 4) 4 4
    (fun _ w rel => w = .shared && decide (rel % 2 ^ 26 + 256 * (n - 1) < 2 ^ 26)) (mmPost aa am off 4) s

end Sys2Proof.Machine
end

