-- ==== Sys2Proof/Machine/MatrixArray.lean ====
section
/-!
DEFINITION. Meanings of the matrix forms (08 R145 to R162).
-/
namespace Sys2Proof.Machine
open Store

/-! ### Tiles -/

/-- Tiles of the context. -/
def myTiles (s : State) : Nat := match s.me.task with | some t => t.zacc | none => 0

/-- A row of tile z; one that nothing has written is a free value (log 3), and zero behind a scrub (21 R341). -/
def tileRow (m : Matrix) (z row : Nat) : TRow :=
  (look m.tiles (128 * z + row)).getD (if m.clean then 0 else Config.freeTileRow m.seed (128 * z + row))

/-- A row of tile z as it stood before the bundle: a drain or a VRDZ sees the beats of earlier bundles only (08 R160). -/
def seenRow (s : State) (z row : Nat) : TRow := tileRow { s.me.mat with tiles := s.me.iss.tiles } z row

/-- Entry st j of the A-stage; one that no push has written is a free value (08 R157, log 3). -/
def stageAt (m : Matrix) (j : Nat) : VReg := (look m.stage j).getD (Config.freeStage m.seed j)

/-- Updates the matrix state of the executing context. -/
def modMat (f : Matrix → Matrix) (s : State) : State := s.mod fun c => { c with mat := f c.mat }

/-- A matrix form that is not a beat: it names a tile of the context, or takes trap 0x06, and it discards an armed
repeat (08 R146, R158). -/
def mform (z : Option Nat) (k : State → Out) (s : State) : Out :=
  match z with
  | some n => if n ≥ myTiles s then .next (trap 0x06 0 0 s) else k (modMat (fun m => { m with armed := none }) s)
  | none => k (modMat (fun m => { m with armed := none }) s)

/-- A matrix-class slot whose turn of the port has not come waits there, with what its bundle reads; the other slots of
its bundle and later bundles go on (08 R148). -/
def toPort (i : Instr) (s : State) : State :=
  s.mod fun c => { c with port := c.port ++ [(c.iss.slot, i)], portIss := if c.port.isEmpty then c.iss else c.portIss }

/-- A slot stays at the head of the port: it waits for a start token, or for queue slots (14 R266, 08 R161). -/
def stayAtPort (i : Instr) (s : State) : State :=
  s.mod fun c => { c with port := (c.iss.slot, i) :: c.port, portIss := if c.port.isEmpty then c.iss else c.portIss }

/-- A slot waits for its turn with words that it has taken when its bundle issued (08 R161, R162). -/
def toPortWith (ws : List Word) (i : Instr) (s : State) : State :=
  (toPort i s).mod fun c => { c with portKeep := put c.portKeep c.iss.slot ws }

/-- The port is held for `n` cycles from now. -/
def holdPort (n : Nat) (s : State) : State :=
  s.modCore (coreOf s.cur) fun k => { k with portAt := (s.pdie (dieOf s.cur)).cycle + n }

/-- Whether the port can take a slot of the executing context in this cycle. -/
def portOpen (s : State) : Bool :=
  s.me.iss.atPort || (s.me.mat.running.isNone && s.me.port.isEmpty &&
    decide ((s.core (coreOf s.cur)).portAt ≤ (s.pdie (dieOf s.cur)).cycle))

/-- THE MATRIX PORT takes a slot, which holds it for one cycle, or the slot waits for its turn (08 R148). -/
def portGate (i : Instr) (k : State → Out) (s : State) : Out := if portOpen s then k (holdPort 1 s) else .next (toPort i s)

/-- Results of a matrix-class slot: the wait count answers for the cycle that its place among the slots of the bundle
gives; a longer wait for the port delays only the bundles that read them (02 R42, 08 R148, R149). -/
def portResults (ks : List Nat) (l : Nat) (s : State) : State :=
  let now := (s.pdie (dieOf s.cur)).cycle
  s.mod fun c =>
    let at_ := c.iss.cycle + (c.iss.xs.filter (· < c.iss.slot)).length + l
    { c with avail := ks.foldl (fun m k => put m k at_) c.avail
             late := ks.foldl (fun m k => if at_ < now + l then put m k (now + l) else del m k) c.late }

/-! ### Cells (08 R154 to R156) -/

/-- Clamp of an integer accumulator. -/
def satAcc (x : Int) : Int × Status :=
  let m : Int := 2 ^ 63 - 1
  if x > m then (m, stSat) else if x < -m then (-m, stSat) else (x, 0)

/-- A cell of an integer beat. -/
def cellInt (x y z : Nat) : Nat × Status :=
  let r := satAcc (intVal true 64 z + intVal true 8 x * intVal true 8 y)
  (intBits 64 r.1, r.2)

/-- A cell of a ternary beat: planes added in order, each step saturating. -/
def cellTern (ws : List Int) (ts : List Int) (z : Nat) : Nat × Status :=
  let r := (ws.zip ts).foldl (fun (a : Int × Status) p =>
    if p.2 = 0 then a else
      let q := satAcc (a.1 + p.2 * p.1)
      (q.1, a.2 ||| q.2)) (intVal true 64 z, (0 : Status))
  (intBits 64 r.1, r.2)

/-- Product of a floating beat, rounded to FP32. -/
def prodF (af bf : FFmt) (ftz : Bool) (x y : Nat) : Nat × Status :=
  fencodeSt .f32 .rne ftz false (mulV (fdecode af ftz x) (fdecode bf ftz y))

/-- Compensated accumulation of one product (08 R154). -/
def cellF (ftz : Bool) (p z : Nat) : Nat × Status :=
  let vs := fdecode .f32 false (z % 2 ^ 32)
  let vp := fdecode .f32 false p
  let c := z / 2 ^ 32 % 2 ^ 32
  let sum := (addV .rne vs vp).1
  let s' := fencode .f32 .rne false false sum
  match vs, vp, fdecode .f32 false s'.1 with
  | .fin _ _ _, .fin _ _ _, .fin n m e =>
    let err := (addV .rne sum (.fin (!n) m e)).1
    let c' := fencodeSt .f32 .rne ftz false (addV .rne (fdecode .f32 ftz c) err)
    (c'.1 * 2 ^ 32 + s'.1, c'.2)
  | _, _, _ =>
    let r := fadd .f32 .rne false (z % 2 ^ 32) p
    (c * 2 ^ 32 + r.1, r.2)

/-- Applies a cell function along a row, column 0 first. -/
def rowLoop (g : Nat → Nat → Nat × Status) : List Nat → Nat → Nat × Status
  | [], _ => (0, 0)
  | y :: ys, n =>
    let c := g y (n % 2 ^ 64)
    let r := rowLoop g ys (n / 2 ^ 64)
    (c.1 + 2 ^ 64 * r.1, c.2 ||| r.2)

/-! ### Beats -/

/-- The resolved format of a beat. -/
inductive BeatFmt where
  | flt (a b : FFmt)
  | int8
  | tern
  deriving DecidableEq, Repr

/-- Floating format of a TYP code (03 R61). -/
def codeFmt (n : Nat) : Option FFmt :=
  match n with
  | 1 => some .f8e4 | 2 => some .f8e5 | 3 => some .bf16 | 4 => some .f16 | 8 => some .f32
  | _ => none

/-- Format of a beat from its TYP and the entry in force; none when the entry does not suit it (08 R152). -/
def beatFmt (tern : Bool) (typ : MTyp) (e : Word) : Option BeatFmt :=
  match tern, typ with
  | true, .t5 => some .tern
  | true, _ => if fAfmt e = 5 ∧ fBfmt e = 7 ∧ fAcc e = 1 then some .tern else none
  | false, .f8e4 => some (.flt .f8e4 .f8e4)
  | false, .f8e5 => some (.flt .f8e5 .f8e5)
  | false, .bf16 => some (.flt .bf16 .bf16)
  | false, .f16 => some (.flt .f16 .f16)
  | false, .i8 => some .int8
  | false, _ =>
    if fBfmt e = 7 then none
    else if fAcc e = 1 then some .int8
    else match codeFmt (fAfmt e), codeFmt (fBfmt e) with
      | some a, some b => some (.flt a b)
      | _, _ => none

/-- Bytes of a B element, and rows, of a beat (08 R149). -/
def beatBytes : BeatFmt → Nat
  | .flt .bf16 _ | .flt .f16 _ => 2
  | _ => 1
def beatRows (f : BeatFmt) : Nat := if beatBytes f = 2 then 64 else 128

/-- B elements of the 192 columns at one address of a core. -/
def bElems (s : State) (core b n : Nat) : List Nat :=
  (List.range 192).map fun col => ofBytes (s.bytes (keyBslice core col b) n)

/-- Rows of a tile after an issue, with the status of every cell. -/
def beatTile (f : BeatFmt) (ftz : Bool) (m : Matrix) (z : Nat) (planes : List VReg) (bs : List Nat) :
    List (Nat × TRow) × Status :=
  let a := planes.headD 0
  let one (i : Nat) : TRow × Status :=
    let old := (tileRow m z i).toNat
    let r := match f with
      | .flt fa fb =>
        let x := elem a i fa.bits
        rowLoop (fun y z => let p := prodF fa fb ftz x y; let c := cellF ftz p.1 z; (c.1, p.2 ||| c.2)) bs old
      | .int8 => rowLoop (cellInt (elem a i 8)) bs old
      | .tern =>
        let ws := planes.map fun v => intVal true 8 (elem v i 8)
        rowLoop (fun y z => let c := cellTern ws (decode5 y) z; (c.1, c.2 ||| stIf (decide (y ≥ 243)) stRtd)) bs old
    (BitVec.ofNat 12288 r.1, r.2)
  let rs := (List.range (beatRows f)).map fun i => (128 * z + i, one i)
  (rs.map fun p => (p.1, p.2.1), rs.foldl (fun st p => st ||| p.2.2) 0)

/-- Registers of a repeat advance by 64 × 2^g (08 R158). The first step comes in slot order with the other writes of the beat's
bundle, so a later slot that writes the register overwrites the step: the spec does not order the two. DESIGN CHOICE, log 41. -/
def advance (x : Option Nat) (g : BitVec 2) (s : State) : State :=
  match x with
  | none => s
  | some n => s.mod fun c => { c with regs := { c.regs with a := wr 0 c.regs.a n (rd 0 c.regs.a n + BitVec.ofNat 64 (64 * 2 ^ g.toNat)) } }

/-- A beat that waited for the port takes its first step behind the other slots of its bundle: a slot that stands behind it there
and writes the register has overwritten the step (log 41). -/
def overwritten (r : Running) (s : State) (x : Option Nat) : Bool :=
  s.me.iss.atPort && decide (r.made = 0) && x.any fun n => s.me.iss.aw.any fun p => decide (r.slot < p.1) && decide (p.2 = n)

/-- v registers that an issue reads: MTERN always reads its four planes (08 R153). -/
def beatReads (r : Running) (m : Matrix) : List Nat :=
  if r.tern then span r.va 4 else if m.depth = 0 then [r.va] else []

/-- ONE ISSUE of a beat: B address, A operand, cells, status; then the registers of its repeat advance. A fault
commits nothing of the issue and leaves the count of issues that remain. -/
def beatIssue (r : Running) (f : BeatFmt) (s : State) : State :=
  let stop := if r.made = 0 then r.pc + 16 else s.nextPc s.cur
  let s := holdPort (192 / Nat.max 1 (s.core (coreOf s.cur)).cols) s
  let fail (code detail : BitVec 8) (s : State) : State := trapAt s.cur r.pc (slotBit r.slot) code detail 0 stop s
  let m := s.me.mat
  let b := (match m.bBind with | some n => (rA s n).toNat | none => 0) + r.aux
  let n := beatBytes f
  let reads := beatReads r m
  let dead := reads.any (isDead s)
  let core := coreOf s.cur
  if b % n ≠ 0 then fail 0x05 0 s
  else if r.z ≥ myTiles s then fail 0x06 0 s
  else if b + n > 131072 then fail 0x06 0 s
  else if dead ∧ s.checking then fail 0x08 0 s
  else if !s.poison.isEmpty && (List.range 192).any (fun col => s.poisoned (keyBslice core col b) n) then fail 0x10 4 s
  else
    let planes := if r.tern then reads.map (rV s)
      else if m.depth = 0 then [rV s r.va]
      else [stageAt m (r.made % m.depth)]
    let t := beatTile f (fFtz r.entry) m r.z planes (bElems s core b n)
    let st := t.2 ||| stIf dead stDead
    let s := raise st s
    if st &&& atrapMask s ≠ 0 then fail 0x0A 0 s
    else
      let s := modMat (fun m => { m with
        tiles := t.1.foldl (fun q p => put q p.1 p.2) m.tiles
        running := if r.left ≤ 1 then none else some { r with made := r.made + 1, left := r.left - 1 } }) s
      let s := s.modCore core fun c => { c with lastBeat := (s.pdie (dieOf s.cur)).cycle }
      let step (x : Option Nat) : Option Nat := if overwritten r s x then none else x
      advance (step r.y) r.g (advance (step r.x) r.g s)

/-- Columns after the next step of admissions, and the tokens it needs (14 R266). -/
def nextStep (c : Nat) : Nat × Nat :=
  if c < 16 then (16, 1) else if c < 48 then (48, 2) else if c < 96 then (96, 3) else (192, 6)

/-- A start token goes to core `i` at cycle `now`. The idle count goes on from the last beat; the beat that waited for
the first token issues in this cycle. -/
def takeToken (now i : Nat) (s : State) : State :=
  s.modCore i fun k =>
    let (c, n) := nextStep k.cols
    if k.tokens + 1 ≥ n then { k with cols := c, tokens := 0, tokenReq := if c < 192 then some now else none,
                                      lastBeat := if k.cols = 0 then now else k.lastBeat }
    else { k with tokens := k.tokens + 1 }

/-- Hub cycles between tokens: ceil(4,000 / LIM) (26 R402). -/
def tokenGap (p : PDie) : Nat := let l := (p.pwrLim.extractLsb' 0 8).toNat; (4000 + l - 1) / l

/-- The controller of a die at hub time `t`: a token comes every `tokenGap` hub cycles, it holds at most one, and those beyond
are lost (14 R266). -/
def tokensBy (t : Nat) (p : PDie) : PDie :=
  let g := tokenGap p
  if p.lastToken + g ≤ t then { p with tokenHeld := true, lastToken := p.lastToken + g * ((t - p.lastToken) / g) } else p

/-- The core of a die whose request for a token is earliest, the lower number at a tie. -/
def firstRequest (die : Nat) (s : State) : Option Nat :=
  ((span (16 * die) 16).foldl (fun (b : Option (Nat × Nat)) i =>
    match (s.core i).tokenReq, b with
    | none, _ => b
    | some t, none => some (t, i)
    | some t, some (u, j) => if t < u then some (t, i) else some (u, j)) none).map Prod.snd

/-- A token that the controller of a die holds goes to the earliest requester (START_TOKEN_GRANT). -/
def grantHeld (die : Nat) (s : State) : State :=
  let s := s.modPdie die (tokensBy s.cycleG)
  match firstRequest die s with
  | some i => if (s.pdie die).tokenHeld then
      takeToken (s.pdie die).cycle i (s.modPdie die fun p => { p with tokenHeld := false }) else s
  | none => s

/-- A beat on an idle array asks for its first start token, if it has not yet (14 R266). -/
def askToken (s : State) : State :=
  if (s.core (coreOf s.cur)).cols = 0 then
    grantHeld (dieOf s.cur) (s.modCore (coreOf s.cur) fun c =>
      { c with tokenReq := match c.tokenReq with | some t => some t | none => some (s.pdie (dieOf s.cur)).cycle })
  else s

/-- A beat: on an idle array it waits at the port for a start token; the entry fixes the format; an armed repeat that no
REPT of this bundle armed is taken (08 R148, R152, R158, 14 R266). -/
def beat (i : Instr) (tern : Bool) (z : BitVec 2) (va : BitVec 5) (typ : MTyp) (aux : BitVec 23) (s : State) : Out :=
  portGate i (fun s =>
    let core := coreOf s.cur
    let e := curFmtX s
    let s := askToken s
    if (s.core core).cols = 0 then .next (stayAtPort i s)
    else match beatFmt tern typ e with
    | none => if z.toNat ≥ myTiles s then .next (trap 0x06 0 0 s) else .next (withStatus stRcd id s)
    | some f =>
      let arm := if s.me.iss.rept then none else s.me.mat.armed
      let r : Running :=
        { tern := tern, z := z.toNat, va := va.toNat, typ := typ, aux := aux.toNat, entry := e, made := 0,
          left := match arm with | some a => a.n | none => 1,
          pc := s.me.iss.pc, slot := s.me.iss.slot,
          x := match arm with | some a => a.x | none => none,
          y := match arm with | some a => a.y | none => none,
          g := match arm with | some a => a.g | none => 0 }
      let s := modMat (fun m => { m with armed := if arm.isSome then none else m.armed,
                                         running := if arm.isSome then some r else none }) s
      .next (beatIssue r f s)) s

/-- MACC. -/
def execMacc (z : BitVec 2) (va : BitVec 5) (typ : MTyp) (aux : BitVec 23) (s : State) : Out :=
  beat (.macc z va typ aux) false z va typ aux s
/-- MTERN. -/
def execMtern (z : BitVec 2) (va : BitVec 5) (typ : MTyp) (aux : BitVec 23) (s : State) : Out :=
  beat (.mtern z va typ aux) true z va typ aux s

/-- REPT: 63 names no register. -/
def execRept (x y : BitVec 6) (g : BitVec 2) (n : BitVec 12) (s : State) : Out :=
  let reg (r : BitVec 6) : Option Nat := if r = 63 then none else some r.toNat
  portGate (.rept x y g n) (fun s =>
    .next (s.mod fun c => { c with mat := { c.mat with armed := some ⟨n.toNat + 1, reg x, reg y, g⟩ },
                                   iss := { c.iss with rept := true } })) s

/-! ### The A-stage (08 R157) -/

/-- MPUSH. -/
def execMpush (va : BitVec 5) (s : State) : Out :=
  portGate (.mpush va) (mform none fun s => vslot [va.toNat] 0 (fun s =>
    let v := rV s va.toNat
    modMat (fun m =>
      if m.depth < 4 then { m with stage := put m.stage m.depth v, depth := m.depth + 1 }
      else { m with stage := [(0, stageAt m 1), (1, stageAt m 2), (2, stageAt m 3), (3, v)] }) s) s) s

/-- MSHIFT. -/
def execMshift (n : BitVec 2) (s : State) : Out :=
  portGate (.mshift n) (mform none fun s => .next (modMat (fun m =>
    { m with stage := (m.stage.filter fun p => decide (n.toNat ≤ p.1)).map fun p => (p.1 - n.toNat, p.2),
             depth := m.depth - n.toNat }) s)) s

/-! ### Tile control and reads (08 R159, R160) -/

/-- MCLR. -/
def execMclr (z : BitVec 2) (s : State) : Out :=
  portGate (.mclr z) (mform (some z.toNat) fun s => .next (modMat (fun m =>
    { m with tiles := (span (128 * z.toNat) 128).foldl (fun q k => put q k 0) m.tiles }) s)) s

/-- MBSEL. -/
def execMbsel (aa : BitVec 5) (s : State) : Out :=
  portGate (.mbsel aa) (mform none fun s => .next (modMat (fun m => { m with bBind := some aa.toNat }) s)) s

/-- VRDZ: the low 32 bits of 32 elements. -/
def execVrdz (z : BitVec 2) (d : BitVec 5) (blk : BitVec 3) (row : BitVec 7) (s : State) : Out :=
  portGate (.vrdz z d blk row) (mform (some z.toNat) fun s =>
    let r := (seenRow s z.toNat row.toNat).toNat
    .next (wV (portResults [keyV d.toNat] 6 s) d.toNat (BitVec.ofNat 1024 (packEls 32
      ((List.range 32).map fun j => r / 2 ^ (64 * (32 * blk.toNat + j)) % 2 ^ 32))))) s

/-! ### Drains (08 R161) -/

/-- Destination of a drain: a floating or an integer type. -/
def drainTy (typ : MTyp) (e : Word) : ETy :=
  match typ with
  | .f8e4 => .f8e4 | .f8e5 => .f8e5 | .bf16 => .bf16 | .f16 => .f16 | .f32 => .f32 | .i32 => .i32 | .i64 => .i64
  | .cur | .i8 | .t5 =>
    match fDfmt e with
    | 1 => .f8e4 | 2 => .f8e5 | 3 => .bf16 | 4 => .f16 | 9 => .i32 | 10 => .i64
    | _ => .f32

/-- One element converted for a drain. -/
def drainEl (e : Word) (d : ETy) (x : Nat) : Nat × Status :=
  let md := fRnd e; let ftz := fFtz e; let sat := fSat e; let k := fScale e
  let scaled (v : FVal) : FVal := match v with | .fin n m x => .fin n m (x + k) | v => v
  if fAcc e = 0 then
    let vs := fdecode .f32 ftz (x % 2 ^ 32)
    let vc := fdecode .f32 ftz (x / 2 ^ 32 % 2 ^ 32)
    let v := match vs, vc with
      | .fin _ _ _, .fin _ _ _ => (addV md vs vc).1
      | .fin _ _ _, _ => vc
      | _, _ => vs
    match etyFmt d with
    | some f => fencode f md ftz sat (scaled v)
    | none => toInt true d.bits md sat (scaled v)
  else
    let v := intV (intVal true 64 x)
    match etyFmt d, scaled v with
    | some f, v => fencode f md ftz sat v
    | none, .fin n m x =>
      let r := roundInt md n m x
      let y := intToInt true d.bits sat r.1
      (y.1, y.2 ||| stIf r.2 stInx)
    | none, _ => (0, 0)

/-- The converted row as bytes, with its status. -/
def drainRow (e : Word) (d : ETy) (r : TRow) : List Byte × Status :=
  let els := (List.range 192).map fun j => drainEl e d (r.toNat / 2 ^ (64 * j) % 2 ^ 64)
  let g := gather els
  (g.1.flatMap fun x => toBytes (d.bits / 8) x, g.2)

/-- Writes consecutive main-file rows from bytes, zero after the last byte. -/
def wRows (first : Nat) : Nat → List Byte → State → State
  | 0, _, s => s
  | n + 1, bs, s => wRows (first + 1) n (bs.drop 128) (wM s first (BitVec.ofNat 1024 (ofBytes (bs.take 128))))

/-- Main-file rows that a drained row of type `d` takes. -/
def drainRows (d : ETy) : Nat := (192 * (d.bits / 8) + 127) / 128

/-- Keys of the main-file rows that a drain will write, for results still to come. -/
def drainKeys (s : State) (i : Instr) : List Nat :=
  match i with
  | .mdrain _ aa typ _ => (span (rA s aa.toNat).toNat (drainRows (drainTy typ (curFmtX s)))).map keyM
  | _ => []

/-- MDRAIN: the rows are there 8 cycles after its turn of the port (08 R161, 07 R140). -/
def execMdrain (z : BitVec 2) (aa : BitVec 5) (typ : MTyp) (row : BitVec 7) (s : State) : Out :=
  portGate (.mdrain z aa typ row) (mform (some z.toNat) fun s =>
    let e := curFmtX s
    let d := drainTy typ e
    let rows := drainRows d
    let first := (rA s aa.toNat).toNat
    if first + rows > myRows s then .next (trap 0x06 0 0 s)
    else
      let r := drainRow e d (seenRow s z.toNat row.toNat)
      .next (withStatus r.2 (fun s => portResults ((span first rows).map keyM) 8 (wRows first rows r.1 s)) s)) s

/-- Slots of 1 KiB that drain-queue entries take. -/
def queueUsed (q : List DrainEntry) : Nat := q.foldl (fun n e => n + (if e.data.length > 1024 then 2 else 1)) 0

/-- Queue slots that a drain to the queue takes, on a tile of the context. -/
def drainNeed (s : State) (i : Instr) : Nat :=
  match i with
  | .mdrainQ z typ _ => if z.toNat < myTiles s then (if drainTy typ (curFmtX s) = .i64 then 2 else 1) else 0
  | _ => 0

/-- What a drain to the queue takes of the collective shadow set when its bundle issues: the handle, the result area, and the
count of the entries before it (15 R283). -/
def drainWords (s : State) : List Word := [rd 0 s.me.shadow 48, rd 0 s.me.shadow 50, BitVec.ofNat 64 s.me.colCount]

/-- Counts an entry of the drain queue. -/
def countDrain (s : State) : State := s.mod fun c => { c with colCount := c.colCount + 1 }

/-- MDRAIN to the drain queue: while slots are short the drain holds the port. The entry keeps the handle and the result area
of the collective shadow set as they were when the MDRAIN issued (15 R283). -/
def execMdrainQ (z : BitVec 2) (typ : MTyp) (row : BitVec 7) (s : State) : Out :=
  let i : Instr := .mdrainQ z typ row
  if !portOpen s then .next (countDrain (toPortWith (drainWords s) i s))
  else
    let s := holdPort 1 s
    let e := curFmtX s
    let d := drainTy typ e
    let need := if d = .i64 then 2 else 1
    let kept := if s.me.iss.atPort then look s.me.portKeep s.me.iss.slot else none
    let ws := kept.getD (drainWords s)
    let count (s : State) : State := if kept.isSome then s else countDrain s
    if z.toNat < myTiles s ∧ queueUsed (s.core (coreOf s.cur)).drainQ + need > 64 then
      .next (count ((stayAtPort i s).mod fun c => { c with portKeep := put c.portKeep c.iss.slot ws }))
    else mform (some z.toNat) (fun s =>
      let r := drainRow e d (seenRow s z.toNat row.toNat)
      .next (withStatus r.2 (fun s =>
        let c := s.me
        let entry : DrainEntry :=
          { fn := s.myFn, vcore := 16 * s.myVdie + s.myCore, cx := s.cur, serial := c.serial, handle := (ws.getD 0 0).setWidth 32,
            data := r.1, dst := ws.getD 1 0, q := (ws.getD 2 0).toNat, pc := c.iss.pc, slot := c.iss.slot }
        count (s.modCore (coreOf s.cur) fun k =>
          { k with drainQ := k.drainQ ++ [{ entry with no := k.drainNo }], drainNo := k.drainNo + 1 })) s)) s

/-! ### Format table (08 R162, 05 R89) -/

/-- The turn of an FMTLD at the port, with the word that it has read: an invalid entry leaves the register and sets rcd. -/
def fmtPut (n : BitVec 4) (e : Word) (s : State) : State :=
  let s := modMat (fun m => { m with armed := none }) s
  if fValid e then modMat (fun m => { m with ft := wr 0x2011 m.ft n.toNat e }) s else withStatus stRcd id s

/-- FMTLD reads memory at its place in program order, and loads the entry at its turn of the port (10 R183, 08 R148). -/
def execFmtld (aa : BitVec 5) (n : BitVec 4) (s : State) : Out :=
  let a := rA s aa.toNat
  if s.me.iss.atPort then .next (fmtPut n (((look s.me.portKeep s.me.iss.slot).getD []).headD 0) (holdPort 1 s))
  else access (.fmtld aa n) a 8 8 .read (fun _ w _ => w = .local_) (fun t s =>
    match t with
    | .now k => .next (readNow k 8 a (fun bs s =>
        let e : Word := BitVec.ofNat 64 (ofBytes bs)
        if portOpen s then fmtPut n e (holdPort 1 s) else toPortWith [e] (.fmtld aa n) s) s)
    | _ => .next s) s

/-- FMTSEL. -/
def execFmtsel (base : BitVec 4) (l : BitVec 2) (s : State) : Out :=
  portGate (.fmtsel base l) (mform none fun s =>
    .next (modMat (fun m => { m with bind := some (l.toNat, base.toNat) }) s)) s

/-- FMTRD reads the table as it stood before the bundle (02 R28). -/
def execFmtrd (d : BitVec 5) (n : BitVec 4) (s : State) : Out :=
  portGate (.fmtrd d n) (mform none fun s =>
    .next (wS (portResults (if d = 0 then [] else [keyS d.toNat]) 2 s) (d.setWidth 6) (rd 0x2011 s.me.iss.ft n.toNat))) s

end Sys2Proof.Machine
end

