-- ==== Sys2Proof/Machine/Ready.lean ====
section
/-!
DEFINITION. When a bundle is ready, what holds it, and how time passes over held contexts (02 R29, R42, 08 R148, R153,
R161, 10 R186, 14 R263, R265, R266).
-/
namespace Sys2Proof.Machine
open Store

/-! ### What a bundle reads -/

/-- The registers, the format table and the tiles as they stand are what operands read. -/
def peek (s : State) : State :=
  s.mod fun c => { c with iss := { c.iss with view := c.regs, ft := c.mat.ft, tiles := c.mat.tiles } }

/-- Slots that execute. -/
def active (s : State) (b : Bundle) : List (Nat × Instr × Nat) := b.slots.filter fun x => executes s x.2.2

/-- Depth of the A-stage and B binding behind some matrix-class slots (08 R157, R159). -/
def portAfter (l : List Instr) (d : Nat × Option Nat) : Nat × Option Nat :=
  l.foldl (fun d i => match i with
    | .mpush _ => (Nat.min 4 (d.1 + 1), d.2)
    | .mshift n => (d.1 - n.toNat, d.2)
    | .mbsel aa => (d.1, some aa.toNat)
    | _ => d) d

/-- Registers that a beat reads beside its tile: v[va] only with an empty A-stage, four planes for MTERN, and the bound
address register (08 R150, R153). -/
def beatKeys (tern : Bool) (va : Nat) (d : Nat × Option Nat) : List Nat :=
  (if tern then (span va 4).map keyV else if d.1 = 0 then [keyV va] else []) ++ d.2.toList.map keyA

/-- Register keys that a form of the executing context reads, behind the matrix-class slots `before`. -/
def formReads (s : State) (before : List Instr) (i : Instr) : List Nat :=
  let d := portAfter before (s.me.mat.depth, s.me.mat.bBind)
  (shape i).rs ++ match i with
    | .macc _ va _ _ => beatKeys false va.toNat d
    | .mtern _ va _ _ => beatKeys true va.toNat d
    | _ => []

/-- Register keys that a slot of a bundle reads, its predicate among them. -/
def slotReads (s : State) (acts : List (Nat × Instr × Nat)) (x : Nat × Instr × Nat) : List Nat :=
  formReads s (s.me.port.map Prod.snd ++ (acts.filter fun y => y.1 < x.1).map fun y => y.2.1) x.2.1 ++
    if x.2.2 = 0 ∨ (selReg x.2.2).1 = 0 then [] else [keyP (selReg x.2.2).1]

/-- Register that a reply or a landing writes. -/
def destKeys : Dest → List Nat
  | .sload n _ | .old n | .barW n | .call n => [keyS n]
  | .vload n _ | .velem n _ _ => [keyV n]
  | .none | .land _ | .barRec _ | .callW _ => []
def landKey : LandDest → Nat
  | .scalar n _ => keyS n
  | .vector n _ => keyV n

/-- Whether a request belongs to the task of the executing context. -/
def mineReq (s : State) (r : Req) : Bool := decide (r.cx = some s.cur) && decide (r.serial = s.me.serial)

/-- Registers that the slots waiting for the matrix port will write, from what their bundle read: a drain takes its rows in the
format of the binding that the slots ahead of it leave (08 R148, R161). -/
def portKeys (s : State) : List Nat :=
  (s.me.port.foldl (fun (a : State × List Nat) x => match x.2 with
    | .fmtsel base l => (modMat (fun m => { m with bind := some (l.toNat, base.toNat) }) a.1, a.2)
    | i => (a.1, a.2 ++ (shape i).ws ++ drainKeys a.1 i)) (s.mod fun c => { c with iss := c.portIss }, [])).2

/-- Registers that a request in flight, a FENCE or a slot waiting for the matrix port will write. -/
def openKeys (s : State) : List Nat :=
  let p := s.pdie (dieOf s.cur)
  (p.sent.filter fun q => mineReq s q.req && !q.given).flatMap (fun q => destKeys q.req.dest) ++
    (p.walks.filter fun w => mineReq s w.req).flatMap (fun w => destKeys w.req.dest) ++
    (s.me.fences.map fun f => keyS f.d.toNat) ++ portKeys s

/-! ### Readiness -/

/-- Cycle at which a bundle becomes ready (02 R42, 06 R109). -/
def readyAt (c : Ctx) (b : Bundle) : Nat := Nat.max c.minReady (c.lastIssue + 1 + b.wait)

/-- A pattern result belongs to the physical entry that the logical one names under PBANK (07 R134, R143). -/
def physKey (bank : Bool) (k : Nat) : Nat :=
  if bank && decide (20000 ≤ k) && decide (k < 20064) then (if k < 20032 then k + 32 else k - 32) else k

/-- Cycle at which the last fixed-latency source among some registers is available. -/
def availAt (c : Ctx) (ks : List Nat) : Nat := ks.foldl (fun m k => Nat.max m (rd 0 c.avail (physKey c.pbank k))) 0
/-- The same with the delays of the matrix port, which the wait count does not answer for (08 R149). -/
def lateAt (c : Ctx) (ks : List Nat) : Nat := ks.foldl (fun m k => Nat.max m (rd 0 c.late k)) (availAt c ks)

/-- The bundle that a context would issue next, as its loop buffer or memory holds it. -/
def nextBundle (cx : Nat) (s : State) : Option Bundle :=
  let c := s.ctx cx
  match c.task with
  | none => none
  | some t => match look c.lbuf c.pc.toNat with
    | some w => some (decodeBundle w)
    | none => match s.fetchAt (coreOf cx) t.fn c.pc with
      | .ok w => some (decodeBundle w)
      | .error _ => none

/-! ### Holds that take slack -/

/-- Whether slots or a repeat of a context hold the matrix port (08 R148). -/
def holdsPort (c : Ctx) : Bool := (c.mat.running.isSome && decide (c.mode ≠ .halted)) || !c.port.isEmpty

/-- Whether the drains to the queue among some slots find too few free queue slots (08 R161). -/
def drainShort (s : State) (acts : List (Nat × Instr × Nat)) : Bool :=
  let used := queueUsed (s.core (coreOf s.cur)).drainQ
  decide (63 ≤ used) && decide (used + (acts.foldl (fun n x => n + drainNeed s x.2.1) 0) > 64) &&
    acts.any fun x => decide (drainNeed s x.2.1 > 0)

/-- From which cycle on the next bundle of a context is held for late landing data that it reads, or for queue slots of
its drains, which hold the matrix port meanwhile: true then (10 R186, 08 R161). -/
def bundleHeld (cx : Nat) (s : State) : Option (Bool × Nat) :=
  let c := s.ctx cx
  let late := c.landings.filter fun l => l.2.data.isNone
  let full := decide (63 ≤ queueUsed (s.core (coreOf cx)).drainQ)
  if c.mode = .run ∧ c.wait.isEmpty ∧ (!late.isEmpty || full) then
    match nextBundle cx s with
    | none => none
    | some b =>
      let p := peek { s with cur := cx }
      let acts := active p b
      let keys := acts.flatMap (slotReads p acts)
      let ready := Nat.max (readyAt c b) (lateAt c keys)
      let ls := late.filter fun l => keys.contains (landKey l.2.dest)
      match ls with
      | l :: r => some (false, Nat.max ready (r.foldl (fun m l => Nat.min m l.2.due) l.2.due))
      | [] =>
        if drainShort p acts && !(span (coreOf cx * 4) 4).any (fun j => holdsPort (s.ctx j)) then some (true, ready) else none
  else none

/-- A beat at the head of the matrix port, or the next issue of a repeat that has come to ask for one, waits for the first start
token of its core (14 R266). -/
def tokenWait (cx : Nat) (s : State) : Bool :=
  let c := s.ctx cx
  let k := s.core (coreOf cx)
  decide (c.mode ≠ .halted) && decide (k.cols = 0) && match c.mat.running, c.port with
    | some _, _ => k.tokenReq.isSome
    | none, (_, i) :: _ => isBeat i
    | none, [] => false

/-- A drain to the queue at the head of the matrix port waits for queue slots: the cycle from which on it does (08 R161). -/
def queueWait (cx : Nat) (s : State) : Option Nat :=
  let c := s.ctx cx
  match c.mode, c.mat.running, c.port with
  | .halted, _, _ | _, some _, _ => none
  | _, none, (_, i) :: _ =>
    let need := drainNeed (({ s with cur := cx } : State).mod fun c => { c with iss := c.portIss }) i
    if decide (need > 0) && decide (queueUsed (s.core (coreOf cx)).drainQ + need > 64) then some (s.core (coreOf cx)).portAt else none
  | _, none, [] => none

/-- The cycle from which a context takes from SLACKLEFT, when something holds it that does (14 R265). -/
def heldFrom (cx : Nat) (s : State) : Option Nat :=
  if tokenWait cx s then some 0 else (queueWait cx s).orElse fun _ => (bundleHeld cx s).map Prod.snd

/-- Whether the matrix port of the executing context's core is committed: to slots or a repeat of a context, or to a drain
of another one that waits for queue slots (08 R148, R161). -/
def portBusy (s : State) : Bool :=
  (span (coreOf s.cur * 4) 4).any fun j => holdsPort (s.ctx j) ||
    (decide (j ≠ s.cur) && match bundleHeld j s with
      | some (true, t) => decide (t ≤ (s.pdie (dieOf j)).cycle)
      | _ => false)

/-- Cycles of the next `n` for which a context is held so. -/
def heldFor (n cx : Nat) (s : State) : Nat :=
  let now := (s.pdie (dieOf cx)).cycle
  match heldFrom cx s with
  | none => 0
  | some t => now + n - Nat.max now t

/-- The clock domain of a core is frozen: a context is held and has no slack left (10 R186, 08 R161, 14 R266). -/
def coreFrozen (core : Nat) (s : State) : Bool :=
  (span (core * 4) 4).any fun i => decide ((s.ctx i).slackLeft = 0) && decide (heldFor 1 i s > 0)

/-- Whether the clock domain of a core is frozen in cycle `t`, when nothing ends its holds before: a cycle that is reached in order
has none of them behind it. -/
def frozenAt (core t : Nat) (s : State) : Bool :=
  (span (core * 4) 4).any fun i => match heldFrom i s with
    | some h => decide (Nat.max (s.pdie (dieOf i)).cycle h + (s.ctx i).slackLeft ≤ t)
    | none => false

/-- Core cycles until a hold of a context of the core begins, or its slack runs out. -/
def holdMoments (s : State) (cx : Nat) : List Nat :=
  let now := (s.pdie (dieOf cx)).cycle
  match heldFrom cx s with
  | none => []
  | some t => [t - now, Nat.max now t + (s.ctx cx).slackLeft - now].filter (· > 0)

/-- A context loses slack for the cycles that hold it, and its core stands still for the rest: nothing of the core's
contexts and of its matrix port counts the frozen cycles (10 R186, 02 R42). -/
def holdCore (n : Nat) (s : State) (core : Nat) : State :=
  let cs := (span (core * 4) 4).filter fun i => decide (heldFor n i s > 0)
  if cs.isEmpty then s
  else
    let frozen := cs.foldl (fun m i => Nat.max m (heldFor n i s - (s.ctx i).slackLeft)) 0
    let s' := { s with ctxs := mapVals (fun i c =>
      if coreOf i ≠ core then c
      else { c with
        slackLeft := if cs.contains i then c.slackLeft - heldFor n i s else c.slackLeft
        lastIssue := c.lastIssue + frozen, minReady := c.minReady + frozen,
        avail := mapVals (fun _ t => t + frozen) c.avail, late := mapVals (fun _ t => t + frozen) c.late }) s.ctxs }
    s'.modCore core fun k => { k with portAt := k.portAt + frozen, lastBeat := k.lastBeat + frozen,
                                      patNext := k.patNext.map fun p => (p.1 + frozen, p.2) }

/-- `n` core cycles pass by the clock of physical die `d`. -/
def elapse (d n : Nat) (s : State) : State :=
  if n = 0 then s else pass d n (((s.ctxs.map fun c => coreOf c.1).eraseDups).foldl (holdCore n) s)

/-- Time goes on to cycle `t` of physical die `d`. -/
def elapseTo (d t : Nat) (s : State) : State := elapse d (t - (s.pdie d).cycle) s

end Sys2Proof.Machine
end

