-- ==== Sys2Proof/Machine/Port.lean ====
section
/-!
DEFINITION. The turns of the matrix port: slots that wait for it, and the reissues of a repeat (08 R148, R153, R158).
-/
namespace Sys2Proof.Machine
open Store

/-- DETAIL of a poisoned register key (23 R365). -/
def poisonKind (k : Nat) : BitVec 8 :=
  if k < keyK 0 then 9 else if k < keyLc 0 then 5 else if k < keyZ 0 then 9 else if k < keyLs 0 then 7
  else if k < keyM 0 then 8 else 6

/-- The first poisoned register among some keys. -/
def firstPoison (s : State) (ks : List Nat) : Option Nat := ks.find? fun k => s.me.regPoison.contains k

/-- A whole write clears the poison of a register, a row or a tile. -/
def healed (sh : Shape) : List Nat :=
  sh.ws.filter fun k => decide (k < keyK 0) || (decide (k < keyLc 0) && decide (sh.groups = 4)) ||
    (decide (k ≥ keyZ 0) && decide (k < keyLs 0)) || decide (k ≥ keyM 0)

/-- After a slot, which had seen `n` traps of its bundle before: unless it trapped, the registers it wrote whole are no longer
poisoned. -/
def heal (i : Instr) (n : Nat) (s : State) : State :=
  if s.me.regPoison.isEmpty || decide (s.me.iss.codes.length ≠ n) then s
  else s.mod fun c => { c with regPoison := c.regPoison.filter fun k => !(healed (shape i)).contains k }

/-- The STOPPC of a halted context's record (23 R360). -/
def setStop (i : Nat) (pc : Word) (s : State) : State :=
  match (s.ctx i).task with
  | none => s
  | some t => s.modFn t.fn fun g => { g with recs := g.recs.map fun r => if recIs t i r then r.set 4 pc else r }

/-- The halt line of a context's function is overdue on its die. -/
def haltOverdueAt (s : State) (cx : Nat) : Bool :=
  match (s.ctx cx).task with
  | some t => haltOverdue s t.fn t.vdie
  | none => false

/-- A slot that waited for the port runs there. -/
def portSlot (i : Instr) (s : State) : Out :=
  match i with
  | .macc z va typ aux => execMacc z va typ aux s
  | .mtern z va typ aux => execMtern z va typ aux s
  | .mpush va => execMpush va s
  | .mshift n => execMshift n s
  | .mdrain z aa typ row => execMdrain z aa typ row s
  | .mdrainQ z typ row => execMdrainQ z typ row s
  | .mclr z => execMclr z s
  | .mbsel aa => execMbsel aa s
  | .vrdz z d blk row => execVrdz z d blk row s
  | .fmtld aa n => execFmtld aa n s
  | .fmtsel base l => execFmtsel base l s
  | .fmtrd d n => execFmtrd d n s
  | .rept x y g n => execRept x y g n s
  | _ => .next s

/-- THE NEXT SLOT OF A CONTEXT TAKES THE PORT, when the port is free of earlier slots: it reads what its bundle reads, and its
traps are those of its bundle (08 R148). An FMTLD has looked at its operand when it read memory. -/
def portRun (cx : Nat) (s : State) : State :=
  let c := s.ctx cx
  match c.port with
  | [] => s
  | (n, i) :: r =>
    if c.mat.running.isSome || haltOverdueAt s cx then s
    else
      let s := elapseTo (dieOf cx) (s.core (coreOf cx)).portAt s
      let c := s.ctx cx
      let t := { s.setCtx cx { c with port := r, iss := { c.portIss with slot := n, atPort := true } } with cur := cx }
      let t := match if i matches .fmtld _ _ then none else firstPoison t (formReads t [] i) with
        | some k => trap 0x10 (poisonKind k) 0 t
        | none => match portSlot i t with
          | .next u => heal i t.me.iss.codes.length u
          | _ => t
      let d := t.ctx cx
      let t := t.setCtx cx { d with portIss := { d.iss with atPort := false }, iss := c.iss,
                                    portKeep := restrict (fun k => d.port.any fun x => decide (x.1 = k)) d.portKeep }
      let t : State := if d.mode = Mode.halted then setStop cx (s.nextPc cx) t else t
      { t with cur := s.cur }

/-- What a reissue finds: it waits, it traps, or it goes at a cycle (08 R153, 02 R42, 10 R187, 23 R365). -/
inductive Reissue where
  | wait
  | trap (code detail : BitVec 8)
  | at_ (t : Nat)
  deriving DecidableEq, Repr

/-- A reissue of the executing context's repeat, which the port can take from cycle `t` on. -/
def reissueAt (r : Running) (t : Nat) (s : State) : Reissue :=
  let c := s.me
  let ks := beatKeys r.tern r.va (c.mat.depth, c.mat.bBind)
  let ls := c.landings.filter fun l => ks.contains (landKey l.2.dest)
  match firstPoison s (keyZ r.z :: ks) with
  | some k => .trap 0x10 (poisonKind k)
  | none =>
    if ks.any fun k => (openKeys s).contains k then .wait
    else if s.checking ∧ availAt c ks > t then .trap 0x07 0
    else if s.checking ∧ ls.any (fun l => t < l.2.due) then .trap 0x09 0
    else if ls.any (fun l => l.2.data.isNone ∨ t < l.2.due) then .wait
    else .at_ (Nat.max t (lateAt c ks))

/-- REPEAT_REISSUE: the next issue of the running repeat, from the registers as they stand, in the next turn of the port
(08 R153, R158). On an array that has gone idle meanwhile it waits for a start token (14 R266). -/
def execRepeatReissue (cx : Nat) (s : State) : Out :=
  let c := s.ctx cx
  match c.mat.running with
  | none => .next s
  | some r =>
    match beatFmt r.tern r.typ r.entry, decide (c.mode = .halted ∨ c.mode = .free) || haltOverdueAt s cx with
    | none, _ | _, true => .next s
    | some f, false =>
      let p := peek { s with cur := cx }
      let t := Nat.max (s.core (coreOf cx)).portAt (s.pdie (dieOf cx)).cycle
      let back (u : State) : State := { u.setCtx cx { u.ctx cx with
        iss := { (u.ctx cx).iss with view := c.iss.view, ft := c.iss.ft, tiles := c.iss.tiles } } with cur := s.cur }
      match reissueAt r t p with
      | .wait => .next s
      | .trap code detail => .next (back (trapAt cx r.pc (slotBit r.slot) code detail 0 (s.nextPc cx) p))
      | .at_ t =>
        let u := askToken (elapseTo (dieOf cx) t p)
        .next (back (if (u.core (coreOf cx)).cols = 0 then u else beatIssue r f u))

end Sys2Proof.Machine
end

