-- ==== Sys2Proof/Machine/Transport.lean ====
section
/-!
DEFINITION. Steps of the links and of the package router (18 R307 to R314, R320).
-/
namespace Sys2Proof.Machine
open Store

/-- A bonded link: UCIe module 3 of a die is held in reset (18 R307). -/
def bonded (l : Nat) : Bool := decide (l < 48) && (decide (l ≥ 40) || decide (l % 5 ≠ 3))

/-- A counter field of LSTAT, saturating. -/
def satInc {n : Nat} (x : BitVec n) : BitVec n := if x = BitVec.allOnes n then x else x + 1

/-- A link starts to train: nothing crosses it in either direction, and the replay buffers keep their contents (18 R309). Only
a training that firmware ordered can bring back lanes that had failed. -/
def retrain (fresh : Bool) (link : Nat) (s : State) : State :=
  let go (l : Link) : Link :=
    { l with state := 1, rtrn := satInc l.rtrn, wire := [], naks := [], lastFail := [], trainAt := s.cycleG, fresh := fresh }
  (s.modLink link go).modLink (backLink link) go

/-- The receiving die counts a flit that failed its CRC in the LSTAT of its end (18 R310). -/
def countCrc (link : Nat) (s : State) : State := s.modLink (backLink link) fun l => { l with crce := satInc l.crce }

/-- FLIT_RECEIVE: the next flit on a link reaches its receiver (18 R308, R309). -/
def execFlitReceive (link : Nat) (crcOk : Bool) (s : State) : Out :=
  let l := s.link link
  match l.wire with
  | [] => .next s
  | (n, m) :: ws =>
    if l.state ≠ 2 then .next s
    else if !crcOk then
      if l.lastFail.contains n then
        .next (retrain false link (countCrc link s))
      else .next ((countCrc link s).modLink link fun l =>
        { l with wire := ws, lastFail := l.lastFail ++ [n], naks := l.naks ++ [l.rxExp] })
    else if n = l.rxExp then
      .next (route (linkEnd link) m (s.modLink link fun l =>
        { l with wire := ws, rxExp := l.rxExp + 1, lastFail := l.lastFail.filter (· ≠ n) }))
    else .next (s.modLink link fun l =>
      { l with wire := ws, lastFail := l.lastFail.filter (· ≠ n), naks := l.naks ++ [l.rxExp] })

/-- Buffered flits from number `n` onward. -/
def bufFrom (n : BitVec 10) (b : List (BitVec 10 × Msg)) : List (BitVec 10 × Msg) :=
  b.filter fun p => decide ((p.1 - n).toNat < 512)

/-- NAK_RECEIVE: flits from the expected number are sent again, in order (18 R308). -/
def execNakReceive (link : Nat) (n : BitVec 10) (s : State) : Out :=
  let l := s.link link
  if l.state = 2 ∧ l.naks.contains n then
    .next (s.modLink link fun l =>
      { l with naks := l.naks.erase n, rply := satInc l.rply, wire := l.wire ++ bufFrom n l.buf })
  else .next s

/-- FLIT_ACK_RECEIVE: flits up to `n`, which the receiver has passed, leave the replay buffer (18 R308). -/
def execFlitAckReceive (link : Nat) (n : BitVec 10) (s : State) : Out :=
  let l := s.link link
  if l.state = 2 ∧ (l.rxExp - 1 - n).toNat < 512 ∧ l.buf.any (fun p => p.1 = n) then
    .next (s.modLink link fun l => { l with buf := bufFrom (n + 1) l.buf })
  else .next s

/-- An end of a link after training, with the halves in which lanes failed the test. A link that was at 32 lanes does not come back
to 64 unless firmware ordered the training: with no lane that fails it keeps its half (18 R309). -/
def trained (loBad hiBad : Bool) (l : Link) : Link :=
  if loBad && hiBad then { l with state := 0, half := 0 }
  else { l with state := 2, half := if hiBad then 1 else if loBad then 2 else if l.fresh then 0 else l.half, wire := l.buf }

/-- LINK_TRAIN_DONE: training ends at 64 lanes, at one half, or with the link down, of which firmware is told (18 R309). -/
def execLinkTrainDone (link : Nat) (loBad hiBad : Bool) (s : State) : Out :=
  let l := s.link link
  if l.state = 1 then
    let s := due (l.trainAt + 4096) s
    let s := (s.modLink link (trained loBad hiBad)).modLink (backLink link) (trained loBad hiBad)
    .next (if loBad && hiBad then s.send [.linkDown link] else s)
  else .next s

/-- FIRMWARE_ORDERED_RETRAIN (18 R309). -/
def execFirmwareOrderedRetrain (link : Nat) (s : State) : Out :=
  if bonded link then .next (retrain true link s) else .next s

/-! ### Between modules (18 R313, R314, R320) -/

/-- Candidate ports of an entry for a message with `h` hops behind it. -/
def candidates (e : Word) (down : List Nat) (h : Nat) : List Nat :=
  (List.range 4).filterMap fun c =>
    let port := (e.extractLsb' (6 * c + 2) 4).toNat
    let hops := (e.extractLsb' (6 * c) 2).toNat + 1
    if e.getLsbD (60 + c) ∧ !down.contains port ∧ hops ≤ 4 - h then some port else none

/-- K of R314. -/
def hashK (m : Msg) : Nat :=
  match m.body with
  | .req r => ((BitVec.ofNat 8 (r.addr.toNat / 64)) ^^^ (BitVec.ofNat 8 r.srcDie)).toNat
  | .reply r => r.tag % 256
  | .ack _ _ t => t % 256
  | .beacon _ | .exit _ _ _ | .tree _ _ _ | .chunk _ | .nest _ _ _ _ _ | .treeCmd _ _ _ _ | .record _ _ _ => 0

/-- FABRIC_FORWARD: message `k` of the package router, the first of its class there, goes out on a candidate port, in the
virtual channel of its hop (R312, R314), or is discarded: for want of a candidate, or because it is too old (R320). -/
def execFabricForward (k : Nat) (s : State) : Out :=
  match s.hub.fabQ[k]? with
  | none => .next s
  | some m =>
    if (s.hub.fabQ.take k).any fun x => x.body.isResponse == m.body.isResponse then .next s
    else
      let old := m.aged s
      let s := { s with hub := { s.hub with fabQ := s.hub.fabQ.eraseIdx k } }
      match m.toMod with
      | none => .next s
      | some t =>
        let cs := candidates (rd 0 s.hub.route t) s.hub.portsDown m.hops
        match if old then none else cs[hashK m % cs.length]? with
        | some p => .next (s.send [.fabric p m.hops { m with hops := m.hops + 1 }])
        | none => .next s

/-- FABRIC_PORT_DOWN. -/
def execFabricPortDown (port : Nat) (s : State) : Out :=
  .next { s with hub := { s.hub with portsDown := if s.hub.portsDown.contains port then s.hub.portsDown else s.hub.portsDown ++ [port] } }
/-- FABRIC_PORT_UP. -/
def execFabricPortUp (port : Nat) (s : State) : Out :=
  .next { s with hub := { s.hub with portsDown := s.hub.portsDown.filter (· ≠ port) } }

/-- A request with the partition tag that no master has (21 R338). -/
def Body.noMaster : Body → Bool
  | .req r => decide (r.fn ≥ 7)
  | _ => false

/-- A message from another module reaches the package router: it goes on to its die here, or to its module. A request with tag 7 is
discarded there (21 R338). -/
def arriveMsg (m : Msg) (s : State) : State :=
  if m.body.noMaster then s
  else match m.toMod, m.body with
  | some t, b =>
    if t = s.hub.modid.toNat then
      let m := { m with toMod := none }
      match b with
      | .reply _ => route 8 { m with dst := m.toDie } s
      | .ack _ _ _ | .exit _ _ _ => route 8 { m with dst := s.phys m.toDie } s
      | _ => leaveDie 8 m s
    else acceptMsg m s
  | none, _ => route 8 m s

/-- COPY_AGE_DISCARD: copy `k` at a home, or at the package router for die 8, has grown older than 8,192 hub cycles. -/
def execCopyAgeDiscard (die k : Nat) (s : State) : Out :=
  let q := if die = 8 then s.hub.fabQ else (s.pdie die).inbox
  match q[k]? with
  | none => .next s
  | some m =>
    if isFabricCopy s m then
      let s := due (m.born + 8193) s
      if die = 8 then .next { s with hub := { s.hub with fabQ := s.hub.fabQ.eraseIdx k } }
      else .next (s.modPdie die fun p => { p with inbox := p.inbox.eraseIdx k })
    else .next s

end Sys2Proof.Machine
end

