-- ==== Sys2Proof/Machine/Homes.lean ====
section
/-!
DEFINITION. Steps of the homes and of the source routers: a request is taken in, applied or served once, its reply
comes back, its stamp is merged and its destination written (10 R177, R186, R190 to R193, 11 R196 to R198,
12 R239, 18 R315 to R321, 21 R346).
-/
namespace Sys2Proof.Machine
open Store

/-- Runs `f` with context `i` as the executing one. -/
def onCtx (i : Nat) (f : State → State) (s : State) : State := { f { s with cur := i } with cur := s.cur }

/-- A context still holds the registers of the task that made a request: it has not halted, and no other task has entered.
A reply that comes after EXIT still writes them (06 R115). -/
def State.alive (s : State) (i serial : Nat) : Bool :=
  let c := s.ctx i
  decide (c.serial = serial) && decide (c.mode ≠ .halted)

/-- A context still runs the task of a number: it has not exited, been pre-empted or stopped (15 R270). -/
def State.runs (s : State) (i serial : Nat) : Bool :=
  let c := s.ctx i
  decide (c.serial = serial) && c.task.isSome && decide (c.mode = .run ∨ c.mode = .parked)

/-! ### A request arrives (18 R318, 21 R346) -/

/-- Location of a request at its home (10 R171). -/
def homeLoc : Loc → Loc
  | .fabric _ d o => if o / 2 ^ 36 = 1 then .shared d (o % 2 ^ 36) else .dram d o
  | l => l

/-- Whether the grants of a function hold `n` bytes of a location (21 R342, R343). -/
def State.granted (s : State) (f : Nat) (l : Loc) (n : Nat) : Bool :=
  match l with
  | .dram d o => s.grantDram f d o && s.grantDram f d (o + n - 1)
  | .shared d o => s.grantShared f d o && s.grantShared f d (o + n - 1)
  | _ => true

/-- Whether a reply-cache entry belongs to a request. -/
def entryOf (m d t : Nat) (e : CacheEntry) : Bool := decide (e.srcMod = m) && decide (e.srcDie = d) && decide (e.tag = t)

/-- A reply goes to its source. -/
def sendReply (die : Nat) (r : Reply) (s : State) : State :=
  let here := decide (r.srcMod = s.hub.modid.toNat)
  route die { dst := if here then r.srcDie else 8, body := .reply r, born := s.cycleG,
              toMod := if here then none else some r.srcMod, toDie := r.srcDie } s

/-- A request from another module takes its stamp at its home; its grants have been checked. -/
def admitted (r : Req) (s : State) : Req × State :=
  if r.srcMod = s.hub.modid.toNat then (r, s)
  else
    let r := { r with loc := homeLoc r.loc, cx := none }
    let h := r.loc.home
    if r.op.writes then
      let s := bump h s
      let clk := (s.vdie h).clock
      ({ r with clk := clk, vdie := h, prev := rd 0 (s.vdie h).lastTo h },
        s.modVdie h fun v => { v with lastTo := wr 0 v.lastTo h (clkGet clk h) })
    else ({ r with clk := [], vdie := h }, s)

/-- The clock of a die by which requests come at the same time; the hub has its own (01 R18). -/
def State.homeCycle (s : State) (die : Nat) : Nat := if die ≥ 8 then s.cycleG else (s.pdie die).cycle

/-- Puts a request among those the home is to apply or serve. -/
def pending (die born : Nat) (r : Req) (s : State) : State :=
  let (r, s) := admitted { r with arr := s.homeCycle die, born := born } s
  rechain r.loc.home r.vdie (s.modPdie die fun p => { p with pend := p.pend ++ [r] })

/-- REQUEST_ARRIVE_HOME: request `k` at a home. A copy that a remap has overtaken goes on to the die that its home now
lies on (18 R319, log 10). -/
def execRequestArriveHome (die k : Nat) (s : State) : Out :=
  let p := s.pdie die
  match p.inbox[k]? with
  | none => .next s
  | some m => match m.body with
    | .req r =>
      let foreign := decide (r.srcMod ≠ s.hub.modid.toNat)
      let gone := s.modPdie die fun p => { p with inbox := p.inbox.eraseIdx k }
      if foreign && decide (s.cycleG > m.born + 8192) then .next gone
      else if s.phys r.loc.home ≠ die then
        .next (route die { m with dst := s.phys r.loc.home } gone)
      else if foreign && (!(s.granted r.fn (homeLoc r.loc) r.op.size) || (s.fn r.fn).resetting) then .next gone
      else if !r.op.writes then .next (pending die m.born r gone)
      else match p.cache.find? (entryOf r.srcMod r.srcDie r.tag) with
        | none =>
          if p.cache.length ≥ 4096 then .next s
          else .next (pending die m.born r (gone.modPdie die fun p =>
            { p with cache := p.cache ++ [⟨r.srcMod, r.srcDie, r.tag, r.fn, 1, none, s.cycleG, foreign⟩] }))
        | some e =>
          let n := e.copies + 1
          let t := gone.modPdie die fun p =>
            { p with cache := p.cache.map fun e => if entryOf r.srcMod r.srcDie r.tag e then { e with copies := n } else e }
          match e.reply with
          | none => .next t
          | some rep => .next (sendReply die { rep with copies := n } t)
    | _ => .next s

/-! ### Applying and serving (11 R197, R198, 12 R224 to R230, R238, 10 R192) -/

/-- Context on whose behalf a home acts, for conflicts with elided regions. -/
def Req.agent (s : State) (r : Req) : Option Nat := if r.srcMod = s.hub.modid.toNat then r.cx else none

/-- The reply to a request. -/
def replyTo (r : Req) (data : List Byte) (stamp : Clock) (st : BitVec 8) (code detail : BitVec 8) : Reply :=
  { srcMod := r.srcMod, srcDie := r.srcDie, tag := r.tag, data := data, stamp := stamp, status := st,
    trap := code, detail := detail, copies := 1 }

/-- A request has had its effect: its reply leaves, with the copies counted so far, and the cache keeps it. -/
def answer (die k : Nat) (r : Req) (rep : Reply) (s : State) : State :=
  let s := s.modPdie die fun p => { p with pend := p.pend.eraseIdx k }
  let s := if r.srcMod = s.hub.modid.toNat then
    markSent r.srcDie (fun q => decide (q.req.tag = r.tag)) (fun q => { q with done := true }) s else s
  if r.op.writes then
    let n := match (s.pdie die).cache.find? (entryOf r.srcMod r.srcDie r.tag) with | some e => e.copies | none => 1
    let rep := { rep with copies := n }
    let keep (e : CacheEntry) : CacheEntry := if entryOf r.srcMod r.srcDie r.tag e then { e with reply := some rep } else e
    let s := s.modPdie die fun p => { p with cache := p.cache.map keep }
    sendReply die rep (frontPast r.loc.home r.vdie (clkGet r.clk r.vdie) s)
  else sendReply die rep s

/-- The bank of a storage key: its unit and its number there (10 R172, R173). What the controllers of a tower do is not
visible (R174): one block of 64 bytes stands for a bank. -/
def bankOf (k : Nat) : Nat × Nat :=
  match keyKind k with
  | 1 => (k / 2 ^ 23, k / 256 % 64)
  | 2 => (k / 2 ^ 26, k / 256 % 128)
  | _ => (k / 64, 0)

/-- Place of a request among those that come to a bank in one cycle: by source die, core and context, and behind them the
engines of the home die (12 R223). -/
def Req.rank (die : Nat) (r : Req) : Nat :=
  match r.cx with
  | some i => 2 * i
  | none => if r.srcDie = die then 2 ^ 11 else 128 * r.srcDie + 127

/-- Whether the home can apply or serve a request now. -/
def State.serves (s : State) (die : Nat) (r : Req) : Bool :=
  match r.op with
  | .rocall _ _ _ _ => false
  | .rred _ _ lnch tile seg => s.mayApply r && (tagHeld (s.pdie die) (r.fn, lnch, tile, seg) || tagRoom (s.pdie die))
  | op => if op.writes then s.mayApply r else s.covers r.loc.home r.clk

/-- Whether it is the turn of a request at its bank (12 R223). -/
def State.bankTurn (s : State) (die : Nat) (r : Req) : Bool :=
  !(s.pdie die).pend.any fun q => decide (q.arr = r.arr) && decide (q.rank die < r.rank die) &&
    decide (bankOf (s.locKey q.loc) = bankOf (s.locKey r.loc)) && s.serves die q

/-- A copy of a request of another module has grown too old at this home (18 R320): it is dropped, which counts as applied
in the frontier (11 R197). Its reply-cache entry stays until it is acknowledged or expires (18 R318). -/
def State.aged (s : State) (r : Req) : Bool := decide (r.srcMod ≠ s.hub.modid.toNat) && decide (s.cycleG > r.born + 8192)

def discard (die k : Nat) (r : Req) (s : State) : State :=
  let s := s.modPdie die fun p => { p with pend := p.pend.eraseIdx k }
  if r.op.writes then frontPast r.loc.home r.vdie (clkGet r.clk r.vdie) s else s

/-- WRITE_APPLY: pending write `k` takes effect at its home. A barrier word carries the clocks of all the steps that have come to
it (11 R199). -/
def execWriteApply (die k : Nat) (s : State) : Out :=
  match (s.pdie die).pend[k]? with
  | none => .next s
  | some r =>
    if s.aged r then .next (discard die k r s)
    else if !s.mayApply r || !s.bankTurn die r then .next s
    else
      let key := s.locKey r.loc
      let by_ := r.agent s
      let n := r.op.size
      let old := s.bytes key n
      let seen := s.stampOf key n
      let bad := s.poisoned key n
      let done (data : List Byte) (st : BitVec 8) (s : State) : Out := .next (answer die k r (replyTo r data seen st 0 0) s)
      let fail : Out := .next (answer die k r (replyTo r [] [] 0 0x10 (BitVec.ofNat 8 (keyKind key))) s)
      match r.op with
      | .read _ | .barw _ | .rocall _ _ _ _ => .next s
      | .write bs => .next (answer die k r (replyTo r [] [] 0 0 0) (s.store by_ key bs r.clk))
      | .atom op n x y =>
        if bad then fail
        else
          let v := atomNew op n (ofBytes old) x.toNat y.toNat
          done old v.2 (s.store by_ key (toBytes n v.1) r.clk)
      | .rred fl x lnch tile seg =>
        let tag := (r.fn, lnch, tile, seg)
        let p := s.pdie die
        if tagHeld p tag then done [] 0 s
        else if !tagRoom p then .next s
        else if bad then fail
        else done [] 0 ((s.store by_ key (toBytes n (rredNew fl (ofBytes old) x.toNat)) r.clk).modPdie die
          fun p => { p with rtags := p.rtags ++ [tag] })
      | .barp x => if bad then fail else done old 0 (s.store by_ key (barStep true x.toNat old) (clkMerge seen r.clk))
      | .bara x => if bad then fail else done old 0 (s.store by_ key (barStep false x.toNat old) (clkMerge seen r.clk))

/-- READ_SERVE: pending read `k` is served once the home's frontier covers its clock. A BARW whose phase has not
changed goes on waiting at the home (12 R239). -/
def execReadServe (die k : Nat) (s : State) : Out :=
  match (s.pdie die).pend[k]? with
  | none => .next s
  | some r =>
    if r.op.writes then .next s
    else if s.aged r then .next (discard die k r s)
    else if !s.covers r.loc.home r.clk || !s.bankTurn die r then .next s
    else
      let key := s.locKey r.loc
      let n := r.op.size
      let s := s.touch (r.agent s) key n false
      let bytes := s.bytes key n
      let cover := s.frontier r.loc.home
      let give : Out := .next (answer die k r { replyTo r bytes (s.stampOf key n) 0 0 0 with cover := cover } s)
      if s.poisoned key n then
        .next (answer die k r { replyTo r [] [] 0 0x10 (BitVec.ofNat 8 (keyKind key)) with cover := cover } s)
      else match r.op with
        | .barw ph =>
          let now := barPhase bytes
          if ph.isSome ∧ ph ≠ some now then give
          else .next (s.modPdie die fun p =>
            { p with pend := p.pend.eraseIdx k, barWaits := p.barWaits ++ [(r, ph.getD now)] })
        | _ => give

/-- BARW_COMPLETE: waiting BARW `k` of a home sees another phase. -/
def execBarwComplete (die k : Nat) (s : State) : Out :=
  match (s.pdie die).barWaits[k]? with
  | none => .next s
  | some (r, ph) =>
    let key := s.locKey r.loc
    let s := s.touch (r.agent s) key 16 false
    let bytes := s.bytes key 16
    if barPhase bytes = ph then .next s
    else
      let s := s.modPdie die fun p => { p with barWaits := p.barWaits.eraseIdx k }
      .next (answer die ((s.pdie die).pend.length) r
        { replyTo r bytes (s.stampOf key 16) 0 0 0 with cover := s.frontier r.loc.home } s)

/-! ### Back at the source (18 R315, R317, R321) -/

/-- An acknowledgement leaves for the home of a request. -/
def sendAck (r : Req) (s : State) : State :=
  let m : Msg := { dst := 8, body := .ack r.srcMod r.srcDie r.tag, born := s.cycleG, toMod := r.loc.other, toDie := r.loc.home }
  route r.srcDie (match r.loc.other with | some _ => m | none => { m with dst := s.phys r.loc.home }) s

/-- A tag is in use until the reply has written its destination and its acknowledgement has left. -/
def sentOver (q : Sent) : Bool := q.merged && q.given && (q.acked || !q.req.op.writes)

/-- Drops the requests that are over. -/
def sweep (die : Nat) (s : State) : State := s.modPdie die fun p => { p with sent := p.sent.filter fun q => !sentOver q }

/-- Sends the reports of an EXIT that wait for no reduce-store any more (10 R192). -/
def releaseExits (die : Nat) (s : State) : State :=
  let p := s.pdie die
  let waits (e : Nat × Nat × Msg) : Bool := p.sent.any fun q =>
    decide (q.req.cx = some e.1) && decide (q.req.po < e.2.1) && decide (q.req.loc.other = e.2.2.toMod) && !q.replied &&
      match q.req.op with | .rred _ _ _ _ _ => true | _ => false
  let s := s.modPdie die fun p => { p with exits := p.exits.filter waits }
  (p.exits.filter fun e => !waits e).foldl (fun s e => leaveDie die e.2.2 s) s

/-- Sends the requests that no earlier one of their block holds back any more (18 R315), and gives a tag to one that has had
to wait for it (18 R316). No copy leaves for a function that is frozen or in reset (18 R317, 21 R350). -/
def releaseHeld (die : Nat) (s : State) : State :=
  let rec go : List Sent → List Sent → State → State
    | _, [], s => s
    | before, q :: qs, s =>
      let used := ((s.pdie die).sent.map (·.req.tag)).filter (· < 65536)
      let room := decide (q.req.tag < 65536) || decide (used.length < 65536)
      let f := s.fn q.req.fn
      if q.sends = 0 ∧ room ∧ !f.frozen ∧ !f.resetting ∧ !before.any (fun b => sameBlock b.req q.req && !b.replied) then
        let r := if q.req.tag < 65536 then q.req else { q.req with tag := freeTag used (s.pdie die).tagNext used.length }
        go (before ++ [q]) qs (sendFirst r (markSent die (fun x => decide (x.req.tag = q.req.tag))
          (fun x => { x with req := r, sends := 1, firstAt := s.cycleG, lastAt := s.cycleG }) s))
      else go (before ++ [q]) qs s
  releaseExits die (go [] (s.pdie die).sent s)

/-- The acknowledgement of a non-idempotent request, once every copy is counted. -/
def tryAck (die tag : Nat) (s : State) : State :=
  match (s.pdie die).sent.find? fun q => q.req.tag = tag with
  | some q =>
    if q.req.op.writes ∧ q.replied ∧ !q.acked ∧ q.copies = q.sends then
      sweep die (markSent die (fun x => decide (x.req.tag = tag)) (fun x => { x with acked := true }) (sendAck q.req s))
    else s
  | none => s

/-- REPLY_RECEIVE: response `k` at a source. The first reply of a tag completes the request. -/
def execReplyReceive (die k : Nat) (s : State) : Out :=
  match (s.pdie die).rinbox[k]? with
  | none => .next s
  | some m => match m.body with
    | .reply rep =>
      let s := s.modPdie die fun p => { p with rinbox := p.rinbox.eraseIdx k }
      match (s.pdie die).sent.find? fun q => q.req.tag = rep.tag with
      | none => .next s
      | some q =>
        let s := if q.replied then s else s.modPdie die fun p => { p with waitRep := p.waitRep ++ [rep] }
        let s := markSent die (fun x => decide (x.req.tag = rep.tag))
          (fun x => { x with replied := true, done := true, copies := max x.copies rep.copies, failed := false }) s
        .next (releaseHeld die (tryAck die rep.tag s))
    | _ => .next s

/-- ACKNOWLEDGEMENT_RECEIVE: response `k` at a home frees its entry, which a remap may have moved (log 10). -/
def execAcknowledgementReceive (die k : Nat) (s : State) : Out :=
  match (s.pdie die).rinbox[k]? with
  | none => .next s
  | some m => match m.body with
    | .ack a b t =>
      let here := (s.pdie die).cache.any (entryOf a b t)
      let s := s.modPdie die fun p => { p with rinbox := p.rinbox.eraseIdx k }
      let free (d : Nat) (p : PDie) : PDie :=
        if here ∧ d ≠ die then p else { p with cache := p.cache.filter fun e => !entryOf a b t e }
      .next { s with pdies := mapVals free s.pdies }
    | _ => .next s

/-- REQUEST_TIMER_EXPIRE: a copy is sent again, no FABRIC one later than 14,336 hub cycles after the first, or a FABRIC request whose
copies have all aged is acknowledged (18 R317, R318). A failed one without a reply is acknowledged once no copy and no reply-cache
entry of it can be left, and its tag is free then (R320, R321, log 42). -/
def execRequestTimerExpire (die : Nat) (tag : BitVec 16) (s : State) : Out :=
  match (s.pdie die).sent.find? fun q => q.req.tag = tag.toNat with
  | none => .next s
  | some q =>
    let f := s.fn q.req.fn
    let far := q.req.loc.other.isSome
    if q.sends = 0 then .next s
    else if q.failed then
      .next (releaseHeld die ((sendAck q.req (due (q.lastAt + 40960) s)).modPdie die fun p =>
        { p with sent := p.sent.filter fun x => decide (x.req.tag ≠ tag.toNat) }))
    else if q.replied then
      if far ∧ q.req.op.writes ∧ !q.acked then
        let s := due (q.lastAt + 8192) s
        .next (sweep die (markSent die (fun x => decide (x.req.tag = tag.toNat)) (fun x => { x with acked := true })
          (sendAck q.req s)))
      else .next s
    else if f.frozen || f.resetting || decide (q.sends ≥ (if far then 8 else 2)) || (far && decide (s.cycleG > q.firstAt + 14336)) then .next s
    else
      let s := due (q.lastAt + 2048) s
      .next (sendReq q.req (markSent die (fun x => decide (x.req.tag = tag.toNat))
        (fun x => { x with sends := x.sends + 1, lastAt := s.cycleG }) s))

/-- REPLY_CACHE_ENTRY_EXPIRE: entry `k` of a FABRIC request is freed. -/
def execReplyCacheEntryExpire (die k : Nat) (s : State) : Out :=
  match (s.pdie die).cache[k]? with
  | none => .next s
  | some e => if e.fabric then
      .next ((due (e.madeAt + 32768) s).modPdie die fun p => { p with cache := p.cache.eraseIdx k })
    else .next s

/-! ### Delivery (10 R180 to R186, R190, 12 R224, R228, R239) -/

/-- A load that was issued before an elided region writes s n: the saved registers take it as well. -/
def arriveS (i n : Nat) (x : Word) (s : State) : State :=
  let s := onCtx i (fun s => wS s (BitVec.ofNat 6 n) x) s
  let c := s.ctx i
  match c.region with
  | .elided e => if n = 0 then s else s.setCtx i { c with region := .elided { e with s := wr 0 e.s n x } }
  | _ => s

/-- A landing delivery of cycle `at_` writes its destination, unless one of a later cycle, or one of a later load in this
cycle, has written it (10 R188). -/
def landWrite (i at_ : Nat) (l : Landing) (v : VReg) (s : State) : State :=
  let k := landKey l.dest
  if match look (s.ctx i).landed k with
      | some (t, po) => decide (at_ < t) || (decide (t = at_) && decide (l.po < po))
      | none => false then s
  else
    let s := match l.dest with
      | .scalar n ty => arriveS i n (ldValue ty (vBytes v 8)) s
      | .vector n w => s.setCtx i (landV n (widthBits w) v.toNat (s.ctx i))
    s.setCtx i { s.ctx i with landed := put (s.ctx i).landed k (at_, l.po) }

/-- Writes a landing destination in cycle `at_` and frees the slot; a poisoned landing buffer traps instead, at the bundle
and slot of the load (23 R360, R365). -/
def landNow (i slot at_ : Nat) (s : State) : State :=
  let c := s.ctx i
  match look c.landings slot with
  | none => s
  | some l =>
    let s := s.setCtx i { c with landings := del c.landings slot, regPoison := c.regPoison.filter (· ≠ keyLs slot) }
    if c.regPoison.contains (keyLs slot) then trapAt i l.pc (slotBit l.slot) 0x10 8 0 (s.nextPc i) s
    else match l.data with
      | none => s
      | some v => landWrite i at_ l v s

/-- Replaces element j of e bits. -/
def setElem (v : VReg) (j e x : Nat) : VReg :=
  BitVec.ofNat 1024 (v.toNat - elem v j e * 2 ^ (e * j) + x % 2 ^ e * 2 ^ (e * j))

/-- Writes the destination of an access of context `i` from the bytes of its reply. -/
def deliver (i : Nat) (d : Dest) (bs : List Byte) (s : State) : State :=
  match d with
  | .none => s
  | .callW _ => s.setCtx i { s.ctx i with waitKey := some (2 ^ 64 + ofBytes bs) }
  | .sload n ty => arriveS i n (ldValue ty bs) s
  | .vload n w => s.setCtx i (landV n (widthBits w) (ofBytes bs) (s.ctx i))
  | .velem n e j =>
    let c := s.ctx i
    match look c.vparts n with
    | none => s
    | some (v, left) =>
      let v := setElem v j e (ofBytes bs)
      if left ≤ 1 then s.setCtx i (landV n 1024 v.toNat { c with vparts := del c.vparts n })
      else s.setCtx i { c with vparts := put c.vparts n (v, left - 1) }
  | .old n | .call n => arriveS i n (BitVec.ofNat 64 (ofBytes bs)) s
  | .barRec a => s.setCtx i { s.ctx i with barRec := some (a, barPhase bs) }
  | .barW n => onCtx i (fun s => (wS s (BitVec.ofNat 6 n)
      (((if barLovf bs then 1 else 0) <<< 16) ||| (barPhase bs).setWidth 64)).mod fun c => { c with barRec := none }) s
  | .land slot =>
    let c := s.ctx i
    match look c.landings slot with
    | none => s
    | some l =>
      let s := s.setCtx i { c with landings := put c.landings slot { l with data := some (BitVec.ofNat 1024 (ofBytes bs)) } }
      if (s.pdie (dieOf i)).cycle ≥ l.due then landNow i slot (s.pdie (dieOf i)).cycle s else s

/-- The last awaited reply of a parked context puts its continuation into the ready queue (14 R263). -/
def unpark (i : Nat) (s : State) : State :=
  let c := s.ctx i
  let open_ (r : Req) : Bool := decide (r.cx = some i) && decide (r.serial = c.serial) && r.park
  let p := s.pdie (dieOf i)
  if c.mode = .parked ∧ !p.sent.any (fun q => open_ q.req && !q.given) ∧ !p.walks.any (fun w => open_ w.req) then
    s.modCore (coreOf i) fun k => if k.readyQ.contains i then k else { k with readyQ := k.readyQ ++ [i] }
  else s

/-- Marks the request of a tag. -/
def markTag (r : Req) (f : Sent → Sent) (s : State) : State :=
  sweep r.srcDie (markSent r.srcDie (fun x => decide (x.req.tag = r.tag)) f s)

/-- A reply reaches its core: the destination is written, a trap or a status reported. An element of a vector atomic has no
destination and no status (12 R229). -/
def give (r : Req) (rep : Reply) (s : State) : State :=
  let s := markTag r (fun x => { x with given := true }) s
  match r.cx with
  | none => s
  | some i =>
    if rep.trap ≠ 0 ∧ ((s.ctx i).serial ≠ r.serial ∨ (s.ctx i).task.isNone) then lateTrap i r rep.trap rep.detail s
    else if !s.alive i r.serial then s
    else if rep.trap ≠ 0 then trapAt i r.pc (slotBit r.slot) rep.trap rep.detail r.addr (s.nextPc i) s
    else
      let status := if r.dest = .none then 0 else rep.status
      let s := deliver i r.dest rep.data s
      let s := s.setCtx i { s.ctx i with astat := (s.ctx i).astat ||| status.setWidth 64 }
      let s := unpark i s
      if status &&& atrapMask { s with cur := i } ≠ 0 then trapAt i r.pc (slotBit r.slot) 0x0A 0 r.addr (s.nextPc i) s
      else s

/-- A reply is merged at the die router of its source, and goes on to its core (11 R198, 01 R17). -/
def settle (q : Sent) (rep : Reply) (s : State) : State :=
  let r := q.req
  let s := markTag r (fun x => { x with merged := true }) (mergeClock r.vdie rep.stamp s)
  match r.cx with
  | none => give r rep s
  | some i =>
    let s := s.setCtx i { s.ctx i with seen := if rep.stamp.isEmpty then (s.ctx i).seen else clkMerge (s.ctx i).seen rep.stamp }
    match r.loc with
    | .near _ _ => give r rep s
    | _ => if coreOf i % 16 = 0 then give r rep s
           else rideIn r.srcDie (coreOf i) { dst := r.srcDie, body := .reply rep, born := s.cycleG } s

/-- Whether an earlier read of the context has not merged its reply yet: replies take effect in program order. -/
def State.early (s : State) (r : Req) : Bool :=
  match r.cx with
  | none => false
  | some i => r.awaited i &&
    ((s.pdie r.srcDie).sent.any (fun q => q.req.awaited i && !q.merged && decide (q.req.po < r.po)) ||
      (s.pdie r.srcDie).walks.any fun w => w.req.awaited i && decide (w.req.po < r.po))

/-- Whether a read was served before its home knew what the replies of earlier reads of the context have brought (11 R198). -/
def State.stale (s : State) (r : Req) (rep : Reply) : Bool :=
  match r.cx with
  | none => false
  | some i => r.awaited i && !r.op.writes && !clkCovers rep.cover (s.ctx i).seen

/-- Serves a near request: the bytes, what the die knows, or the poison. -/
def nearReply (r : Req) (rep : Reply) (s : State) : Reply :=
  let k := s.locKey r.loc
  let n := r.op.size
  let rep := { rep with cover := wr 0 (s.frontier r.vdie) r.vdie (clkGet (s.vdie r.vdie).clock r.vdie) }
  if s.poisoned k n then { rep with data := [], stamp := [], trap := 0x10, detail := BitVec.ofNat 8 (keyKind k) }
  else { rep with data := s.bytes k n, stamp := s.stampOf k n, trap := 0, detail := 0 }

/-- A read is issued again with the clock as it now stands (11 R198): a near one is served at once. -/
def reissue (die k : Nat) (r : Req) (rep : Reply) (s : State) : State :=
  match r.loc with
  | .near _ key =>
    let s := s.touch r.cx key r.op.size false
    s.modPdie die fun p => { p with waitRep := p.waitRep.set k (nearReply r rep s) }
  | _ =>
    let s := s.modPdie die fun p => { p with waitRep := p.waitRep.eraseIdx k, sent := p.sent.filter fun q => decide (q.req.tag ≠ r.tag) }
    launchReq { r with clk := (s.vdie r.vdie).clock } s

/-- Whether a bank that a near request of a context reaches is held by another context (12 R231). -/
def nearHeld (r : Req) (s : State) : Bool :=
  match r.loc, r.cx with
  | .near _ k, some i => ({ s with cur := i } : State).barred k r.op.size
  | _, _ => false

/-- REPLY_CLOCK_MERGE: waiting reply `k` of a die is merged once the die's frontier covers its stamp and the earlier reads of
its context have merged theirs. -/
def execReplyClockMerge (die k : Nat) (s : State) : Out :=
  match (s.pdie die).waitRep[k]? with
  | none => .next s
  | some rep =>
    match (s.pdie die).sent.find? fun q => q.req.tag = rep.tag with
    | none => .next (s.modPdie die fun p => { p with waitRep := p.waitRep.eraseIdx k })
    | some q =>
      if s.early q.req || !s.covers q.req.vdie rep.stamp then .next s
      else if s.stale q.req rep then (if nearHeld q.req s then .next s else .next (reissue die k q.req rep s))
      else .next (settle q rep (s.modPdie die fun p => { p with waitRep := p.waitRep.eraseIdx k }))

/-- Message `k` among the core routers of a die goes on to the next one, or has come to its router (01 R17). -/
def rideStep (die k : Nat) (s : State) : State :=
  match (s.pdie die).rides[k]? with
  | none => s
  | some r =>
    if (s.pdie die).rides.take k |>.any fun q => decide (q.pos = r.pos ∧ q.dst = r.dst ∧ q.leaves = r.leaves) &&
        q.msg.body.isResponse == r.msg.body.isResponse then s
    else if r.pos ≠ r.dst then s.modPdie die fun p => { p with rides := p.rides.set k (rideNext r) }
    else
      let s := s.modPdie die fun p => { p with rides := p.rides.eraseIdx k }
      if r.leaves then leaveDie die r.msg s
      else match r.msg.body with
        | .reply rep => match (s.pdie die).sent.find? fun q => q.req.tag = rep.tag with
          | some q => give q.req rep s
          | none => s
        | _ => settleMsg r.msg s

/-- FABRIC_REQUEST_FAIL: the request completes as failed, its destination reads zero, and the context's failure map
takes the module's bit (18 R320, 10 R193). -/
def execFabricRequestFail (die : Nat) (tag : BitVec 16) (s : State) : Out :=
  match (s.pdie die).sent.find? fun q => q.req.tag = tag.toNat with
  | none => .next s
  | some q =>
    match q.req.loc.other with
    | none => .next s
    | some m =>
      if q.replied ∨ q.sends = 0 then .next s
      else
        let s := due (q.firstAt + 22528) s
        let s := markSent die (fun x => decide (x.req.tag = tag.toNat))
          (fun x => { x with replied := true, done := true, merged := true, given := true, failed := x.req.op.writes }) s
        let s := sweep die s
        let s := match q.req.cx with
          | some i =>
            let s := s.setCtx i { s.ctx i with failMap := (s.ctx i).failMap ||| BitVec.ofNat 2048 (2 ^ m) }
            if s.alive i q.req.serial then unpark i (deliver i q.req.dest [] s) else s
          | none => s
        .next (releaseHeld die s)

/-! ### Beacons (11 R197, 16 R294, 18 R321) -/

/-- Key of an object and generation in the figures of a beacon. -/
def objKey (f idx gen : Nat) : Nat := (f * 1024 + idx) * 2 ^ 16 + gen

/-- Figures of the objects on virtual die `d`. -/
def State.objFigures (s : State) (d : Nat) : PMap Nat :=
  s.fns.foldl (fun m f => f.2.objs.foldl (fun m o =>
    if o.2.live then put m (objKey f.1 o.1 o.2.gen) (rd 0 o.2.applied d) else m) m) []

/-- The beacon of virtual die `v`; the hub issues no writes. -/
def State.beacon (s : State) (v : Nat) : Beacon :=
  let d := s.vdie v
  { from_ := v, front := (List.range 8).foldl (fun c f => wr 0 c f (s.front v f)) [],
    hi := clkGet d.clock v, lastTo := d.lastTo, applied := s.objFigures v }

/-- BEACON_SEND: a die or the hub sends its frontiers and issue figures to all the others. -/
def execBeaconSend (die : Nat) (s : State) : Out :=
  let b := s.beacon (s.virt die)
  match (List.range 9).filter (· ≠ die) with
  | [] => .next s
  | d :: ds => .next (route die { dst := d, more := ds, body := .beacon b, born := s.cycleG } s)

/-- A(d) of an object as its home knows it: its own at once, the others' from beacons. -/
def State.knownApplied (s : State) (f idx : Nat) (o : Obj) (d : Nat) : Nat :=
  if d = o.home then rd 0 o.applied d
  else Nat.min (rd 0 o.applied d) (rd 0 (s.vdie o.home).appliedOf (2 ^ 40 * d + objKey f idx o.gen))

/-- Drops the log positions that every die has applied (16 R294). -/
def trimTo (n : Nat) (o : Obj) : Obj := 
  if n > o.base then
    let k := n - o.base
    { o with base := n, log := o.log.drop k, baseStamp := (o.log.take k).foldl (fun c x => clkMerge c x.stamp) o.baseStamp }
  else o

/-- The home of virtual die `h` trims the logs of its objects (LOG_TRIM). -/
def trimHome (h : Nat) (s : State) : State :=
  let one (f idx : Nat) (o : Obj) : Obj :=
    if o.live ∧ o.home = h then
      trimTo ((List.range 8).foldl (fun m d => Nat.min m (s.knownApplied f idx o d)) (rd 0 o.applied h)) o
    else o
  { s with fns := mapVals (fun f g => { g with objs := mapVals (one f) g.objs }) s.fns }

/-- BEACON_RECEIVE: response `k` at a die or the hub updates what it holds of the sender. -/
def execBeaconReceive (die k : Nat) (s : State) : Out :=
  match (s.pdie die).rinbox[k]? with
  | none => .next s
  | some m => match m.body with
    | .beacon b =>
      let h := s.virt die
      let x := b.from_
      let s := s.modPdie die fun p => { p with rinbox := p.rinbox.eraseIdx k }
      let s := s.modVdie h fun v => { v with
        frontOf := (List.range 8).foldl (fun q f => wr 0 q (8 * x + f) (clkGet b.front f)) v.frontOf,
        beacHi := wr 0 v.beacHi x b.hi, beacLast := wr 0 v.beacLast x (rd 0 b.lastTo h),
        appliedOf := b.applied.foldl (fun q e => put q (2 ^ 40 * x + e.1) e.2) v.appliedOf }
      .next (trimHome h (if x < 8 then rechain h x s else s))
    | _ => .next s

/-! ### Walks, landings and reports -/

/-- TRANSLATION_WALK_DONE: walk `k` of a die ends. The access is sent, or its fault is reported at once; a write, which has its
place in the order of its home already, then goes there without effect. -/
def execTranslationWalkDone (die k : Nat) (s : State) : Out :=
  match (s.pdie die).walks[k]? with
  | none => .next s
  | some w =>
    if k ≥ 64 || !(s.walkDies w.root w.fn w.va).all (s.linked die) then .next s
    else
      let s := s.modPdie die fun p => { p with walks := p.walks.eraseIdx k }
      let go (r : Req) (s : State) : State := if r.op.writes then launchReq r s else launchLate r s
      let fault (code : BitVec 8) (s : State) : Out :=
        let s := if w.write then launchReq { w.req with op := .write [], dest := .none, park := false } s else s
        match w.req.cx with
        | some i => .next (if s.alive i w.req.serial then
            trapAt i w.req.pc (slotBit w.req.slot) code (walkDetail code) w.req.addr (s.nextPc i) s else s)
        | none => .next s
      let acc : Acc := match w.req.op with
        | .read _ | .barw _ => .read
        | .write _ => .write
        | _ => .atomic
      match s.leafFrom w.root w.core w.fn w.va with
      | .error c => fault c s
      | .ok (leaf, block) =>
        let s := s.fillLeaf w.core w.fn w.va (leaf, block)
        match s.leafLoc w.fn leaf block w.va acc with
        | .error c => fault c s
        | .ok l =>
          if w.ownDie ∧ l.home ≠ w.req.vdie then fault 0x06 s
          else .next (go { w.req with loc := if w.write && decide (l.home ≠ w.req.loc.home) then w.req.loc else l } s)

/-- Landing slots with data, due no later than cycle `t`, in the order of delivery. -/
def landOrder (c : Ctx) (t : Nat) : List (Nat × Landing) :=
  let rec ins (x : Nat × Landing) : List (Nat × Landing) → List (Nat × Landing)
    | [] => [x]
    | y :: ys => if x.2.due < y.2.due ∨ (x.2.due = y.2.due ∧ x.2.po < y.2.po) then x :: y :: ys else y :: ins x ys
  ((c.landings.filter fun l => l.2.data.isSome ∧ l.2.due ≤ t).foldl (fun q x => ins x q) [])

/-- Deliveries of a context due up to cycle `t`, each in its own cycle (10 R186, R188). -/
def landDue (i t : Nat) (s : State) : State := (landOrder (s.ctx i) t).foldl (fun s l => landNow i l.1 l.2.due s) s

/-- LANDING_DELIVERY: the arrival cycle of a slot whose data waits has come. -/
def execLandingDelivery (cx slot : Nat) (s : State) : Out :=
  match look (s.ctx cx).landings slot with
  | none => .next s
  | some l =>
    if l.data.isNone then .next s
    else
      .next (landDue cx l.due (elapseTo (dieOf cx) l.due s))

/-- EXIT_REPORT_ARRIVE: the tags of an exited task are released at a home, once no reduce-store of it is left there (10
R192). -/
def execExitReportArrive (die k : Nat) (s : State) : Out :=
  match (s.pdie die).inbox[k]? with
  | none => .next s
  | some m => match m.body with
    | .exit f n t =>
      let mine (r : Req) : Bool := match r.op with
        | .rred _ _ l x _ => decide (r.fn = f ∧ l = n ∧ x = t)
        | _ => false
      if (s.pdie die).pend.any mine || (s.pdie die).inbox.any (fun m => match m.body with | .req r => mine r | _ => false) then
        .next s
      else .next (s.modPdie die fun p =>
        { p with inbox := p.inbox.eraseIdx k, rtags := p.rtags.filter fun x => !(x.1 = f ∧ x.2.1 = n ∧ x.2.2.1 = t) })
    | _ => .next s

end Sys2Proof.Machine
end

