-- ==== Sys2Proof/Machine/Sync.lean ====
section
/-!
DEFINITION. Fences, bank holds, lock elision, barriers and events (11 R203, 12 R231 to R240).
-/
namespace Sys2Proof.Machine
open Store

/-! ### FENCE (11 R203, 12 R235, R236) -/

/-- Bit of the storage set that selects a request by its target (03 R63). -/
def setBit (r : Req) : Nat :=
  match r.loc with
  | .host _ => 5
  | .fabric _ _ _ => 4
  | .shared _ _ => if inWindow .fabric r.addr.toNat then 4 else 2
  | .dram _ _ => if inWindow .fabric r.addr.toNat then 4 else 3
  | .object _ _ _ => 3
  | .near _ _ => if inWindow .local_ r.addr.toNat then 0 else 1

/-- Whether a scope of a fence of the executing context covers a request. -/
def inScope (s : State) (sc : Scope) (r : Req) : Bool :=
  match sc with
  | .context => decide (r.cx = some s.cur)
  | .core => (match r.cx with | some i => decide (coreOf i = coreOf s.cur) | none => false)
  | .die | .module | .fabric => decide (r.fn = s.myFn) ||
      (match r.cx with | some i => decide (coreOf i = coreOf s.cur) | none => false)

/-- An outstanding request is complete for a fence: served or applied at its home; below fabric scope, a request to
another module once the package router has it. -/
def fenceDone (sc : Scope) (q : Sent) : Bool :=
  if q.req.loc.other.isSome && sc ≠ .fabric then q.accepted || q.done else q.done

/-- A write that is clk-before a fence and in its storage set (11 R199, R203). -/
def Fence.catches (f : Fence) (r : Req) : Bool :=
  r.op.writes && !below (clkGet f.clk r.vdie) (clkGet r.clk r.vdie) && f.set.getLsbD (setBit r)

/-- A transfer of a loop nest writes a scratchpad: the sets of LOCAL and of PEER select it (11 R203). -/
def selectsMoves (set : BitVec 6) : Bool := set.getLsbD 0 || set.getLsbD 1

/-- Whether a fence waits for a transfer of a collective engine: one of its die that it covers, or one clk-before it. -/
def Fence.waitsMove (f : Fence) (own : Bool) (m : Move) : Bool :=
  (own && f.moves.contains m.no) || (decide (f.scope = .module ∨ f.scope = .fabric) && selectsMoves f.set && match m.seq with
    | some n => !below (clkGet f.clk m.vdie) n
    | none => false)

/-- Whether a fence of context `i` is complete: what it covers, and from module scope on every write clk-before it in its
set. -/
def fenceOver (s : State) (i : Nat) (f : Fence) : Bool :=
  let p := s.pdie (dieOf i)
  !(p.sent.any fun q => f.cover.contains q.req.key && !fenceDone f.scope q) &&
    !(p.walks.any fun w => f.cover.contains w.req.key) &&
    !(s.pdies.any fun q => q.2.moves.any (f.waitsMove (decide (q.1 = dieOf i)))) &&
    (decide (f.scope ≠ .module ∧ f.scope ≠ .fabric) || s.pdies.all fun p =>
      !(p.2.sent.any fun q => f.catches q.req && !fenceDone f.scope q) && !(p.2.walks.any fun w => f.catches w.req) &&
        !(p.2.pend.any fun r => decide (r.srcMod ≠ s.hub.modid.toNat) && f.catches r))

/-- FENCE: it covers what its scope and set select, and completes by FENCE_COMPLETE. One that may trap 0x0D also holds back
the next bundle. -/
def execFence (d a : BitVec 6) (sc : Scope) (set : BitVec 6) (s : State) : Out :=
  notElided s fun s =>
    let p := s.pdie (dieOf s.cur)
    if s.me.waitKey.isSome then
      if s.me.fences.any fun f => f.pc = s.me.iss.pc then waitFor (.fence d a sc set) s
      else .next (s.mod fun c => { c with waitKey := none })
    else
      let cover := ((p.sent.filter fun q => inScope s sc q.req && set.getLsbD (setBit q.req) && !fenceDone sc q).map
        fun q => q.req.key) ++ (p.walks.filter fun w => inScope s sc w.req && set.getLsbD (setBit w.req)).map fun w => w.req.key
      let f : Fence :=
        { d := d, row := rS s a, scope := sc, set := set, cover := cover,
          clk := if sc = .module ∨ sc = .fabric then (s.vdie s.myVdie).clock else [],
          moves := if sc = .context ∨ sc = .core ∨ !selectsMoves set then [] else
            (p.moves.filter fun m => m.fn = s.myFn).map (·.no),
          pc := s.me.iss.pc, slot := s.me.iss.slot }
      let s := s.mod fun c => { c with fences := c.fences ++ [f] }
      if set.getLsbD 4 ∧ (rS s a).toNat + 2 > myRows s then
        waitFor (.fence d a sc set) (s.mod fun c => { c with waitKey := some 0 })
      else .next s

/-- A fence completes: sd takes the number of failed modules, and the map goes to two main-file rows (12 R236). -/
def fenceEnd (i : Nat) (f : Fence) (s : State) : State :=
  let c := s.ctx i
  let s := s.setCtx i { c with fences := c.fences.erase f }
  if !f.set.getLsbD 4 then arriveS i f.d.toNat 0 s
  else
    let n := popNat 2048 c.failMap.toNat
    if n = 0 then arriveS i f.d.toNat 0 s
    else if f.row.toNat + 2 > (match c.task with | some t => t.mwin | none => 0) then
      trapAt i f.pc (slotBit f.slot) 0x0D 0 0 (s.nextPc i) s
    else
      let s := onCtx i (fun s => wM (wM s f.row.toNat (c.failMap.extractLsb' 0 1024)) (f.row.toNat + 1)
        (c.failMap.extractLsb' 1024 1024)) s
      let s := s.setCtx i { s.ctx i with failMap := 0 }
      arriveS i f.d.toNat (BitVec.ofNat 64 n) s

/-- FENCE_COMPLETE: the oldest fence of a context whose accesses are complete ends. One in a context that has halted
never completes (11 R208). -/
def execFenceComplete (cx : Nat) (s : State) : Out :=
  let c := s.ctx cx
  if c.task.isNone ∨ c.mode = .halted then .next s
  else match c.fences.find? (fenceOver s cx) with
    | some f => .next (fenceEnd cx f s)
    | none => .next s

/-! ### BLK (12 R231) -/

/-- Whether other contexts of the core hold banks of a mask. -/
def banksHeld (s : State) (mask : BitVec 64) : Bool :=
  (List.range 4).any fun j =>
    let i := coreOf s.cur * 4 + j
    decide (i ≠ s.cur) && match (s.ctx i).hold with
      | some h => decide (h.left > 0) && h.lasts (s.pdie (dieOf i)).cycle && decide (h.mask &&& mask ≠ 0)
      | none => false

/-- BLK: the banks are held for the next n bundles, and 128 cycles at most. -/
def execBlk (a n : BitVec 6) (s : State) : Out :=
  notElided s fun s =>
    if banksHeld s (rS s a) then waitFor (.blk a n) s
    else .next (s.mod fun c => { c with hold := some ⟨rS s a, n.toNat, (s.pdie (dieOf s.cur)).cycle + 128⟩,
                                        iss := { c.iss with blk := true } })

/-- BLK_HOLD_EXPIRE: 128 cycles have passed. -/
def execBlkHoldExpire (cx : Nat) (s : State) : Out :=
  match (s.ctx cx).hold with
  | none => .next s
  | some h =>
    let s := elapseTo (dieOf cx) (h.until_ + 1) s
    .next (s.setCtx cx { s.ctx cx with hold := none })

/-! ### Lock elision (12 R232 to R234) -/

/-- Whether the region lock of the executing function is held. -/
def lockHeld (s : State) : Bool := (look (s.vdie s.myVdie).locks s.myFn).isSome

/-- Takes the region lock: elided regions of the function on the die abort. -/
def takeLock (s : State) : State :=
  let one (i : Nat) (c : Ctx) : Ctx :=
    match c.task with
    | some t => if i ≠ s.cur ∧ t.fn = s.myFn ∧ t.vdie = s.myVdie then abortCtx 0x01 c else c
    | none => c
  let s := { s with ctxs := mapVals one s.ctxs }
  (s.modVdie s.myVdie fun d => { d with locks := put d.locks s.myFn s.cur }).mod fun c => { c with region := .locked }

/-- XBEGIN. -/
def execXbegin (d : BitVec 6) (s : State) : Out :=
  match s.me.region with
  | .elided _ => .next (abortMe 0x03 s)
  | .locked => .next (wS s d 1)
  | .none =>
    if lockHeld s || s.readsOpen then waitFor (.xbegin d) s
    else if s.myFlag 26 then .next (wS (takeLock s) d 1)
    else if s.me.aborts ≥ 4 then .next (wS (takeLock (s.mod fun c => { c with aborts := 0 })) d 1)
    else
      let c := s.me
      let e : Elided := { s := c.regs.s, a := c.regs.a, p := c.regs.p, dest := d.toNat, resume := c.iss.pc + 16 }
      .next (wS (s.mod fun c => { c with region := .elided e }) d 0)

/-- Whether a storage key belongs to a scratchpad. -/
def isScratch (k : Nat) : Bool := decide (keyKind k = 1)

/-- The `n` stores of a group, applied in one step: each is a write of die `d`, and their bytes carry the stamp of the last (11
R196, log 28). -/
def applyGroup (d : Nat) (by_ : Option Nat) (n : Nat) (m : PMap Byte) (s : State) : State :=
  if m.isEmpty then s
  else
    let s := (List.range n).foldl (fun s _ => bump d s) s
    m.foldl (fun s e => s.store by_ e.1 [e.2] (s.vdie d).clock) s

/-- Closes a region: a group of stores, or the lock. -/
def closeRegion (i : Instr) (s : State) : Out :=
  match s.me.region with
  | .none => .next s
  | .locked => if s.readsOpen then waitFor i s else .next (releaseLock s.cur s)
  | .elided e =>
    let keys := e.stores.map Prod.fst
    if (keys.any (fun k => !isScratch k) && !s.quiet) || keys.any (fun k => s.barred k 1) then waitFor i s
    else .next (applyGroup s.myVdie (some s.cur) e.writes e.stores
      (s.mod fun c => { c with region := .none, aborts := 0 }))

/-- XEND. -/
def execXend (s : State) : Out := closeRegion .xend s
/-- XABORT: in a locked region it acts as XEND. -/
def execXabort (c : BitVec 6) (s : State) : Out :=
  if s.inElided then .next (abortMe (0x40#8 + c.setWidth 8) s) else closeRegion (.xabort c) s
/-- ELIDED_REGION_ABORT: a conflict or limit of 12 R234 is met. -/
def execElidedRegionAbort (cx : Nat) (cause : BitVec 8) (s : State) : Out :=
  if 1 ≤ cause.toNat ∧ cause.toNat ≤ 5 then .next (s.setCtx cx (abortCtx cause (s.ctx cx))) else .next s

/-! ### Barriers (12 R237 to R239) -/

/-- Windows of the barrier forms (12 R222). -/
def reachBar (_ : State) (w : Window) (_ : Nat) : Bool := w = .local_ || w = .peer || w = .shared

/-- One step at a barrier word. The record keeps the phase at which the step acted. -/
def barForm (i : Instr) (post : Bool) (src aa : BitVec 6) (s : State) : Out :=
  notElided s fun s =>
    let a := rA s aa.toNat
    let x := rS s src
    access i a 16 16 .atomic reachBar (fun t s =>
      match t with
      | .now k => .next (readNow k 16 a (fun bs s =>
          (writeNow k (barStep post x.toNat bs) s).mod fun c => { c with barRec := some (a, barPhase bs) }) s)
      | .far l => .next (request l (if post then .barp x else .bara x) (.barRec a) a false s)
      | .miss _ _ => .next s) s

/-- BARP. -/
def execBarp (src aa : BitVec 6) (s : State) : Out := barForm (.barp src aa) true src aa s
/-- BARA. -/
def execBara (src aa : BitVec 6) (s : State) : Out := barForm (.bara src aa) false src aa s

/-- Whether access `po` of the executing task has not yet written its destination. -/
def openPo (s : State) (po : Nat) : Bool :=
  let mineReq (r : Req) : Bool := decide (r.cx = some s.cur) && decide (r.po = po)
  (s.pdie (dieOf s.cur)).sent.any (fun q => mineReq q.req && !q.given) ||
    (s.pdie (dieOf s.cur)).walks.any fun w => mineReq w.req

/-- Whether the acknowledgement of a BARP or BARA of the executing task is still to set the barrier record (12 R239). -/
def openStep (s : State) : Bool :=
  (s.pdie (dieOf s.cur)).sent.any fun q => decide (q.req.cx = some s.cur) && decide (q.req.serial = s.me.serial) && !q.given &&
    match q.req.dest with | .barRec _ => true | _ => false

/-- Phase of the barrier record, when it names the word. -/
def recPhase (s : State) (a : Word) : Option (BitVec 16) :=
  match s.me.barRec with
  | some (b, p) => if b = a then some p else none
  | none => none

/-- BARW: waits for the record of the task's earlier steps, and then until the phase differs from the recorded one, or from the one at which it was served. -/
def execBarw (d aa : BitVec 6) (s : State) : Out :=
  notElided s fun s =>
    let a := rA s aa.toNat
    access (.barw d aa) a 16 16 .read reachBar (fun t s =>
      if openStep s then waitFor (.barw d aa) s
      else match t with
      | .now k =>
        if s.readsOpen then waitFor (.barw d aa) s
        else if s.poisoned k 16 then .next (accessFault 0x10 (BitVec.ofNat 8 (keyKind k)) a s)
        else
          let s := s.touch (some s.cur) k 16 false
          let bs := s.bytes k 16
          match (match recPhase s a with | some p => some p | none => s.me.waitKey.map (BitVec.ofNat 16)) with
          | some p =>
            if barPhase bs = p then waitFor (.barw d aa) s
            else
              let s := mergeClock s.myVdie (s.stampOf k 16) s
              .next ((deliver s.cur (.barW d.toNat) bs s).mod fun c => { c with waitKey := none })
          | none => waitFor (.barw d aa) (s.mod fun c => { c with waitKey := some (barPhase bs).toNat })
      | .far l =>
        match s.me.waitKey with
        | none => waitFor (.barw d aa)
            ((request l (.barw (recPhase s a)) (.barW d.toNat) a false s).mod fun c => { c with waitKey := some s.me.po })
        | some po => if openPo s po then waitFor (.barw d aa) s
                     else .next (s.mod fun c => { c with waitKey := none })
      | .miss _ _ => .next s) s

/-! ### Events (12 R240) -/

/-- Key of an event counter of a virtual core. -/
def evKey (vdie core e : Nat) : Nat := 64 * (16 * vdie + core) + e

/-- EVSIG on a counter of a virtual core of function `f`. A context that idles there is released (23 R379). -/
def signal (f vdie core e : Nat) (s : State) : State :=
  let s := s.modFn f fun g =>
    let k := evKey vdie core e
    { g with events := wr 0 g.events k (satInc (rd 0 g.events k)) }
  let wake (c : Ctx) : Ctx :=
    match c.task, c.wait with
    | some t, [(_, .idle)] => if t.fn = f ∧ t.vdie = vdie ∧ t.vcore = core then { c with waitKey := some 1 } else c
    | _, _ => c
  { s with ctxs := mapVals (fun _ c => wake c) s.ctxs }

/-- EVSIG: it waits for the earlier reads of its context, which the EVWAIT comes after (11 R202, R204). -/
def execEvsig (e : BitVec 6) (s : State) : Out :=
  notElided s fun s =>
    if s.readsOpen then waitFor (.evsig e) s else .next (signal s.myFn s.myVdie s.myCore e.toNat s)

/-- The primary context of a core in the present cycle (14 R264). -/
def State.primary (s : State) (core : Nat) : Option Nat :=
  match (s.core core).turn with
  | some u => if u.cycle = (s.pdie (core / 16)).cycle then some u.cx else none
  | none => none

/-- Cycle since which a context waits at an EVWAIT of counter `e` of the executing virtual core. -/
def waitsSince (s : State) (e : BitVec 6) (c : Ctx) : Option Nat :=
  match c.task, c.wait with
  | some t, (_, .evwait f) :: _ =>
    if f = e ∧ c.mode = .run ∧ t.fn = s.myFn ∧ t.vdie = s.myVdie ∧ t.vcore = s.myCore then c.waitKey else none
  | _, _ => none

/-- Waiters of the counter that are served before the executing context, which waits since cycle `since`: the primary of the
cycle, and otherwise the earlier ones (12 R240). -/
def waitersBefore (s : State) (e : BitVec 6) (since : Nat) : Nat :=
  let p := s.primary (coreOf s.cur)
  ((span (coreOf s.cur * 4) 4).filter fun j => decide (j ≠ s.cur) && match waitsSince s e (s.ctx j) with
    | some t => decide (p ≠ some s.cur) && (decide (p = some j) || decide (t < since) || (decide (t = since) && decide (j < s.cur)))
    | none => false).length

/-- EVWAIT. -/
def execEvwait (e : BitVec 6) (s : State) : Out :=
  notElided s fun s =>
    let k := evKey s.myVdie s.myCore e.toNat
    let n := rd 0 (s.fn s.myFn).events k
    let since := s.me.waitKey.getD (s.pdie (dieOf s.cur)).cycle
    if n.toNat ≤ waitersBefore s e since then waitFor (.evwait e) (s.mod fun c => { c with waitKey := some since })
    else .next ((s.modFn s.myFn fun g => { g with events := wr 0 g.events k (n - 1) }).mod fun c => { c with waitKey := none })

/-- YIELD_WINDOW_END (06 R116). -/
def execYieldWindowEnd (cx : Nat) (s : State) : Out :=
  let c := s.ctx cx
  if c.yieldUntil = 0 then .next s
  else
    let s := elapseTo (dieOf cx) c.yieldUntil s
    .next (s.setCtx cx { s.ctx cx with yieldUntil := 0 })

end Sys2Proof.Machine
end

