-- ==== Sys2Proof/Machine/Graph.lean ====
section
/-!
DEFINITION. The task graph: accepting launches and jobs, edges, indirect counts, walkers, task entry and exit, bank
hand-over, slack and start tokens (14 R246 to R266, 20 R334).
-/
namespace Sys2Proof.Machine
open Store

/-! ### Ids (14 R249) -/

/-- Sequence numbers run from 1 to 2^29 − 1. -/
def seqMod : Nat := 2 ^ 29 - 1
/-- The number after n. -/
def seqNext (n : Nat) : Nat := if n ≥ seqMod then 1 else n + 1
/-- Sequence number and virtual die of an id. -/
def idSeq (n : BitVec 32) : Nat := (n.extractLsb' 0 29).toNat
def idDie (n : BitVec 32) : Nat := (n.extractLsb' 29 3).toNat
/-- Whether a sequence number lies below another, as serial numbers. -/
def seqBelow (a b : Nat) : Bool :=
  let d := (b + seqMod - a) % seqMod
  decide (1 ≤ d) && decide (d ≤ (seqMod - 1) / 2)

/-- The node of an id on a virtual die. -/
def State.node (s : State) (v : Nat) (id : BitVec 32) : Option Node := (s.vdie v).nodes.find? fun n => n.id = id
/-- Updates a node. -/
def State.modNode (s : State) (v : Nat) (id : BitVec 32) (f : Node → Node) : State :=
  s.modVdie v fun d => { d with nodes := d.nodes.map fun n => if n.id = id then f n else n }

/-- A scheduler holds 64 unretired nodes of a function. -/
def State.nodesFull (s : State) (v f : Nat) : Bool := decide (((s.vdie v).nodes.filter fun n => n.fn = f).length ≥ 64)

/-- The next id of a die. -/
def giveId (v : Nat) (s : State) : BitVec 32 × State :=
  let n := seqNext (s.vdie v).nodeSeq
  (BitVec.ofNat 32 (v * 2 ^ 29 + n), s.modVdie v fun d => { d with nodeSeq := n })

/-! ### Records (14 R246, R248, 15 R268) -/

/-- Fields of a launch record. -/
def lDies (ws : List Word) : Nat := ((ws.getD 4 0).extractLsb' 0 8).toNat
def lCores (ws : List Word) : Nat := ((ws.getD 4 0).extractLsb' 8 16).toNat
def lGran (ws : List Word) : Nat := ((ws.getD 3 0).extractLsb' 32 16).toNat
def lOrder (ws : List Word) : Nat := ((ws.getD 3 0).extractLsb' 48 2).toNat
def lPrio (ws : List Word) : Nat := ((ws.getD 3 0).extractLsb' 50 2).toNat
def lZacc (ws : List Word) : Nat := ((ws.getD 3 0).extractLsb' 52 3).toNat
def lSlots (ws : List Word) : Nat := ((ws.getD 3 0).extractLsb' 55 7).toNat
def lMwin (ws : List Word) : Nat := ((ws.getD 5 0).extractLsb' 48 14).toNat
def lFmtimg (ws : List Word) : Word := ((ws.getD 5 0).extractLsb' 0 48).setWidth 64
def lIcnt (ws : List Word) : Nat := ((ws.getD 6 0).extractLsb' 0 48).toNat
def lIcdim (ws : List Word) : Nat := ((ws.getD 6 0).extractLsb' 48 2).toNat
def lExt (ws : List Word) : Nat × Nat × Nat :=
  (((ws.getD 2 0).extractLsb' 0 32).toNat, ((ws.getD 2 0).extractLsb' 32 32).toNat, ((ws.getD 3 0).extractLsb' 0 32).toNat)
/-- Flag bit of word 4: 24 NOSPLIT, 29 HOLD, 30 PRIV. -/
def lFlag (ws : List Word) (i : Nat) : Bool := (ws.getD 4 0).getLsbD i

/-- Footprint regions, words 8 to 15: base, size, and whether it is a write region. -/
def regionsOf (ws : List Word) : List (Nat × Nat × Bool) :=
  (List.range 8).filterMap fun j =>
    let w := ws.getD (8 + j) 0
    let l := (w.extractLsb' 58 6).toNat
    if l = 0 then none else some ((w.extractLsb' 0 55).toNat, 2 ^ l, decide (j ≥ 4))

/-- A region word that R248 accepts. -/
def regionOk (w : Word) : Bool :=
  let l := (w.extractLsb' 58 6).toNat
  decide (w.extractLsb' 55 3 = 0) &&
    (decide (l = 0) || (decide (6 ≤ l) && decide (l ≤ 54) && decide ((w.extractLsb' 0 55).toNat % 2 ^ l = 0)))

/-- All eight region words. -/
def regionsOk (ws : List Word) : Bool := (List.range 8).all fun j => regionOk (ws.getD (8 + j) 0)

/-- Placed virtual cores of a launch: ordinals follow dies, then cores (14 R251). -/
def placed (ws : List Word) : List (Nat × Nat) :=
  (List.range 128).filterMap fun i =>
    if lDies ws / 2 ^ (i / 16) % 2 = 1 ∧ lCores ws / 2 ^ (i % 16) % 2 = 1 then some (i / 16, i % 16) else none

/-- A power of two. -/
def isPow2 (n : Nat) : Bool := decide (n ≠ 0) && decide (2 ^ Nat.log2 n = n)

/-- Checks of R248; `priv` says whether the submitter may set PRIV. -/
def launchOk (s : State) (f : Nat) (priv : Bool) (ws : List Word) : Bool :=
  let (x, y, z) := lExt ws
  decide ((ws.getD 3 0).extractLsb' 62 2 = 0) && !lFlag ws 31 && decide ((ws.getD 5 0).extractLsb' 62 2 = 0)
  && decide ((ws.getD 6 0).extractLsb' 50 14 = 0) && decide (lIcdim ws ≠ 3)
  && (!lFlag ws 30 || priv)
  && inWindow .device (ws.getD 0 0).toNat && decide ((ws.getD 0 0).toNat % 16 = 0)
  && decide (lGran ws ≠ 0) && decide ((ws.getD 4 0).extractLsb' 40 24 ≠ 0) && decide (lDies ws ≠ 0) && decide (lCores ws ≠ 0)
  && (placed ws).all (fun p => (s.vcorePhys f p.1 p.2).isSome)
  && decide (lSlots ws ≤ 64) && decide (lZacc ws ≤ 4) && decide (lMwin ws ≤ 12288)
  && regionsOk ws
  && (decide (lOrder ws ≠ 2) || (isPow2 x && isPow2 y))
  && decide ((lFmtimg ws).toNat % 8 = 0) && decide (lIcnt ws % 4 = 0)
  && decide (x * y * z ≤ 2 ^ 32 - 1)

/-- Coordinates of a record whose count is direct. -/
def lCount (ws : List Word) : Nat := let (x, y, z) := lExt ws; x * y * z

/-! ### Edges and indirect counts (14 R250, R257) -/

/-- Whether the footprints of two records conflict. -/
def conflict (a b : List Word) : Bool :=
  (regionsOf a).any fun p => (regionsOf b).any fun q =>
    (p.2.2 || q.2.2) && decide (p.1 < q.1 + q.2.1) && decide (q.1 < p.1 + p.2.1)

/-- Whether a write region of a record holds an indirect count at `a`. -/
def writesAt (ws : List Word) (a : Nat) : Bool :=
  (regionsOf ws).any fun p => p.2.2 && decide (p.1 < a + 4) && decide (a < p.1 + p.2.1)

/-- Extents after an indirect count replaces one. -/
def extWith (ws : List Word) (c : Nat) : Nat × Nat × Nat :=
  let (x, y, z) := lExt ws
  match lIcdim ws with | 0 => (c, y, z) | 1 => (x, c, z) | _ => (x, y, c)

/-- The record with its count in place of the extent that ICDIM names. -/
def withCount (ws : List Word) (c : Nat) : List Word :=
  let (x, y, z) := extWith ws c
  let w3 := ws.getD 3 0
  ((ws.set 2 (BitVec.ofNat 64 (y * 2 ^ 32 + x))).set 3 (w3 - (w3 &&& 0xFFFFFFFF#64) + BitVec.ofNat 64 z))

/-- Reads the indirect count of a node on die `v`, for every die that holds the node (INDIRECT_COUNT_READ). A count
that is too large, a fault or poison makes it zero. The dies take the stamp of what is read (11 R198). -/
def readCount (v : Nat) (n : Node) (s : State) : State :=
  let core := (s.vcorePhys n.fn v 0).getD (16 * s.phys v)
  let a := BitVec.ofNat 64 (lIcnt n.words)
  let (ws, c) := match s.agentRead n.fn v core a 4 with
    | .ok bs =>
      let ws := withCount n.words (ofBytes bs)
      if lCount ws ≤ 2 ^ 32 - 1 then (ws, lCount ws) else (n.words, 0)
    | .error _ => (n.words, 0)
  let st := s.agentStamp n.fn v core a 4
  (List.range 8).foldl (fun s d => match s.node d n.id with
    | none => s
    | some _ => mergeClock d st (s.modNode d n.id fun m =>
        { m with words := ws, count := c, countWait := false, clk := clkMerge m.clk st })) s

/-- Whether an unretired node that the die accepted earlier, of the same function, writes the count of a node, or a link to the count is
not up. -/
def countHeld (s : State) (v : Nat) (n : Node) : Bool :=
  !s.linkedTo (s.phys v) n.fn v ((s.vcorePhys n.fn v 0).getD (16 * s.phys v)) (BitVec.ofNat 64 (lIcnt n.words)) .read 4 ||
  ((s.vdie v).nodes.takeWhile fun e => e.id ≠ n.id).any fun e => decide (e.fn = n.fn) && writesAt e.words (lIcnt n.words)

/-- Claims of a launch's banks on its cores of a die, in acceptance order (14 R262). -/
def claimBanks (v f : Nat) (id : BitVec 32) (ws : List Word) (s : State) : State :=
  let b := ws.getD 7 0
  if b = 0 then s
  else ((placed ws).filter fun p => p.1 = v).foldl (fun s p =>
    match s.vcorePhys f v p.2 with
    | some c => s.modCore c fun k => { k with claims := k.claims ++ [(id, b, 0)] }
    | none => s) s

/-- The event of a card at completion, on the submitting virtual core (15 R268, 12 R240). -/
def jobEvent (n : Node) (s : State) : State :=
  let ctl := n.words.getD 5 0
  if ctl.getLsbD 63 then signal n.fn (n.vcore / 16) (n.vcore % 16) (ctl.extractLsb' 56 6).toNat s else s

/-- THE SCHEDULER OF DIE `v` ACCEPTS A NODE, with the edges of R257 against its unretired nodes. A launch without
coordinates retires at once. -/
def acceptNode (v : Nat) (n : Node) (empty : Bool) (s : State) : State :=
  if empty then s
  else
    let preds := ((s.vdie v).nodes.filter fun e => decide (e.fn = n.fn) && conflict e.words n.words).map (·.id)
    let s := s.modVdie v fun d => { d with nodes := d.nodes ++ [{ n with preds := preds }] }
    match n.kind with
    | .launch =>
      let s := claimBanks v n.fn n.id n.words s
      if n.countWait && idDie n.id = v && !countHeld s v n then readCount v n s else s
    | _ => s

/-- The node of a launch record. -/
def launchNode (f : Nat) (id : BitVec 32) (ws : List Word) (q : Option Nat) : Node :=
  { id := id, fn := f, kind := .launch, words := ws, held := lFlag ws 29, preds := [],
    countWait := decide (lIcnt ws ≠ 0), count := if lIcnt ws ≠ 0 then 0 else lCount ws, queue := q }

/-- A launch that runs no task whatever its count. -/
def launchEmpty (ws : List Word) : Bool := decide (lIcnt ws = 0) && decide (lCount ws = 0)

/-! ### LNCH and LNCHI (14 R258) -/

/-- Windows of records, cards and descriptors. -/
def reachRec (_ : State) (w : Window) (_ : Nat) : Bool := w = .local_ || w = .shared || w = .device

/-- A form that reads `n` bytes at an address of `al` bytes alignment in LOCAL, SHARED or DEVICE, once the task's
earlier accesses are done (11 R205), the links to its homes are up and no FENCE holds the storage (12 R235), and goes on with the words. The die takes the stamp of what is read (11 R198). -/
def recordForm (i : Instr) (a : Word) (al n : Nat) (k : List Word → State → Out) (s : State) : Out :=
  notElided s fun s =>
    if a.toNat % al ≠ 0 then .next (trap 0x05 0 a s)
    else match window a with
    | none => .next (trap 0x06 0 a s)
    | some (w, rel) =>
      if !reachRec s w rel then .next (trap 0x06 0 a s)
      else if !s.quiet || fenceSets s a || !s.linkedTo (dieOf s.cur) s.myFn s.myVdie (coreOf s.cur) a .read n then waitFor i s
      else match s.agentKeys s.myFn s.myVdie (coreOf s.cur) a .read n with
        | .error c => .next (trap c (walkDetail c) a s)
        | .ok ks =>
          let st := s.stampKeys ks
          if ks.any (fun k => s.barred k 1) || (decide (w ≠ .local_) && !s.covers s.myVdie st) then waitFor i s
          else
            let s := mergeClock s.myVdie st (s.touchKeys (some s.cur) ks false)
            if ks.any fun k => s.poisoned k 1 then
              .next (trap 0x10 (if w = .local_ then 1 else if w = .shared then 2 else 3) a s)
            else k (wordsOf (n / 8) (ks.map s.byte)) s

/-- A launch record leaves the issuing core for the scheduler of another die (01 R17). -/
def forward (f v : Nat) (ws : List Word) (id : BitVec 32) (s : State) : State :=
  sendFrom (coreOf s.cur) { dst := 8, body := .record f v id, born := s.cycleG }
    (s.modFn f fun g => { g with coming := g.coming ++ [(v, ws, id)] })

/-- Appends a record to the banks of a queue, for one die. -/
def toBank (f q v : Nat) (k : NodeKind) (ws : List Word) (id : Option (BitVec 32)) (s : State) : State :=
  s.modFn f fun g => { g with queues := put g.queues q (let x := rd {} g.queues q; { x with banks := x.banks ++ [(v, k, ws, id)] }) }

/-- Submits the record at aa. -/
def launchForm (i : Instr) (indirect : Bool) (d aa : BitVec 6) (s : State) : Out :=
  if s.nodesFull s.myVdie s.myFn && !s.inElided then waitFor i s
  else recordForm i (rA s aa.toNat) 64 128 (fun ws s =>
    let v := s.myVdie
    let f := s.myFn
    if !launchOk s f s.myPriv ws || decide ((lIcnt ws ≠ 0) ≠ indirect) then .next (wS s d 0)
    else
      let (id, s) := giveId v s
      let c := s.me
      let n := { launchNode f id ws none with
        cx := some s.cur, serial := c.serial, pc := c.iss.pc, slot := c.iss.slot, vcore := 16 * v + s.myCore,
        clk := (s.vdie v).clock }
      let s := acceptNode v n (launchEmpty ws) s
      let s := if launchEmpty ws then s else
        ((List.range 8).filter fun x => lDies ws / 2 ^ x % 2 = 1 ∧ x ≠ v).foldl
          (fun s x => forward f x ws id s) s
      .next (wS s d (id.setWidth 64))) s

/-- LNCH. -/
def execLnch (d aa : BitVec 6) (s : State) : Out := launchForm (.lnch d aa) false d aa s
/-- LNCHI. -/
def execLnchi (d aa : BitVec 6) (s : State) : Out := launchForm (.lnchi d aa) true d aa s

/-! ### TGDEP and TGWAIT (14 R258, R260) -/

/-- TGDEP. With se = 0 it releases the launch on the issuing die; held parts on other dies wait for their own release (14 R260).
DESIGN CHOICE, log 46. -/
def execTgdep (l e : BitVec 6) (s : State) : Out :=
  notElided s fun s =>
    let v := s.myVdie
    let sl := (rS s l).setWidth 32
    let se : BitVec 32 := (rS s e).setWidth 32
    match s.node v sl with
    | none => .next s
    | some n =>
      if n.fn ≠ s.myFn ∨ !n.held ∨ rS s l ≠ sl.setWidth 64 then .next s
      else if rS s e = 0 then .next (s.modNode v sl fun n => { n with held := false })
      else if rS s e ≠ se.setWidth 64 ∨ idDie se ≠ v ∨ !seqBelow (idSeq se) (idSeq sl) then .next s
      else if n.edges ≥ 16 then
        let older := ((s.vdie v).nodes.filter fun m => decide (m.fn = n.fn) && seqBelow (idSeq m.id) (idSeq sl)).map (·.id)
        .next (s.modNode v sl fun n => { n with edges := 17, preds := n.preds ++ older.filter (!n.preds.contains ·) })
      else .next (s.modNode v sl fun n => { n with edges := n.edges + 1, preds := n.preds ++ [se] })

/-- Whether a part of a launch is on its way to a die, or waits in a shadow bank there. -/
def Fn.partsLeft (g : Fn) (id : BitVec 32) : Bool :=
  g.coming.any (fun x => decide (x.2.2 = id)) || g.queues.any fun q => q.2.banks.any fun b => decide (b.2.2.2 = some id)

/-- Whether a node of the function is unretired on some die, or a part of it has not come there. -/
def State.unretired (s : State) (f : Nat) (id : BitVec 32) : Bool :=
  (List.range 8).any (fun v => match s.node v id with | some n => decide (n.fn = f) | none => false) || (s.fn f).partsLeft id

/-- Whether the scheduler of an id's die has given it. -/
def State.wasGiven (s : State) (id : BitVec 32) : Bool :=
  let n := (s.vdie (idDie id)).nodeSeq
  decide (idSeq id ≠ 0) && (decide (idSeq id = n) || seqBelow (idSeq id) n)

/-- A wait for a node that is over: the clock of the die that gave the id, as it then stands, is merged once the frontier of the
waiting die covers it (11 R199). -/
def syncFrom (i : Instr) (id : BitVec 32) (s : State) : Out :=
  if idDie id = s.myVdie ∨ s.wasGiven id = false then .next s
  else
    let c := s.me.syncClk.getD (s.vdie (idDie id)).clock
    if s.covers s.myVdie c then .next ((mergeClock s.myVdie c s).mod fun x => { x with syncClk := none })
    else waitFor i (s.mod fun x => { x with syncClk := some c })

/-- TGWAIT: the writes of the node are sources of a sync edge (11 R204). -/
def execTgwait (a : BitVec 6) (s : State) : Out :=
  notElided s fun s =>
    let x := rS s a
    if x.toNat ≥ 2 ^ 32 then .next s
    else if s.unretired s.myFn (x.setWidth 32) then waitFor (.tgwait a) s
    else syncFrom (.tgwait a) (x.setWidth 32) s

/-! ### Walkers (14 R251 to R254) -/

/-- Ranges of a launch's walkers on die `v`. -/
def cutRanges (v f : Nat) (n : Node) : List Walker :=
  let ps := placed n.words
  let g := lGran n.words
  let c := (n.count + g - 1) / g
  let q := (c + ps.length - 1) / ps.length
  ((ps.zip (List.range ps.length)).filter fun p => p.1.1 = v).map fun p =>
    { lnch := n.id, fn := f, vcore := p.1.2, ordinal := p.2,
      next := Nat.min n.count (g * Nat.min c (p.2 * q)), end_ := Nat.min n.count (g * Nat.min c ((p.2 + 1) * q)),
      qnext := 0, qend := 0, splits := 0 }

/-- Walker slots in use on a die. -/
def walkersUsed (d : VDie) : Nat := (d.walkers.filter (!·.away)).length

/-- The queued range becomes the current one when that is empty (14 R261). -/
def promote (w : Walker) : Walker :=
  if w.next ≥ w.end_ ∧ w.qnext < w.qend then { w with next := w.qnext, end_ := w.qend, qnext := 0, qend := 0 } else w

/-- A walker has nothing left. -/
def walkerDry (w : Walker) : Bool := decide (w.next ≥ w.end_) && decide (w.qnext ≥ w.qend) && w.again.isEmpty

/-- Updates the walker of a launch with an ordinal. -/
def modWalker (v : Nat) (id : BitVec 32) (o : Nat) (f : Walker → Walker) (s : State) : State :=
  s.modVdie v fun d => { d with walkers := d.walkers.map fun w => if w.lnch = id ∧ w.ordinal = o then f w else w }

/-- The victim of a split for walker `o` (14 R254): remainder at least 2G, the largest, lowest ordinal at a tie. -/
def victim (ws : List Walker) (id : BitVec 32) (o g : Nat) : Option Walker :=
  ws.foldl (fun b w =>
    if w.lnch = id ∧ w.ordinal ≠ o ∧ !w.away ∧ w.end_ - w.next ≥ 2 * g then
      match b with
      | none => some w
      | some x => if w.end_ - w.next > x.end_ - x.next ∨ (w.end_ - w.next = x.end_ - x.next ∧ w.ordinal < x.ordinal)
          then some w else some x
    else b) none

/-- A split: what the thief takes, and the victim without it (WALKER_SPLIT). -/
def splitFor (v : Nat) (n : Node) (o : Nat) (s : State) : Option (Nat × Nat × State) :=
  if lFlag n.words 24 then none
  else match victim (s.vdie v).walkers n.id o (lGran n.words) with
    | none => none
    | some x =>
      let g := lGran n.words
      let h := (x.end_ - x.next) / 2 / g * g
      let up (k : Nat) : Nat := Nat.min (k + 1) (2 ^ 32 - 1)
      some (x.end_ - h, x.end_,
        modWalker v n.id o (fun w => { w with splits := up w.splits })
          (modWalker v n.id x.ordinal (fun w => { w with end_ := w.end_ - h, splits := up w.splits }) s))

/-- Bits of a Z-order index: alternately to x and y, x first, the rest to the one with bits left (14 R252). -/
def zOrder : Nat → Nat → Nat → Nat → Nat → Nat × Nat
  | 0, _, _, _, _ => (0, 0)
  | k + 1, m, nx, ny, turn =>
    let toX := if turn = 0 then decide (nx > 0) else decide (ny = 0)
    let r := if toX then zOrder k (m / 2) (nx - 1) ny 1 else zOrder k (m / 2) nx (ny - 1) 0
    if toX then (m % 2 + 2 * r.1, r.2) else (r.1, m % 2 + 2 * r.2)

/-- Coordinate of a linear index (14 R252). In Z-order an extent that an indirect count makes no power of two counts by the floor of
its log2: R248 checks the record alone. DESIGN CHOICE, log 46. -/
def coordOf (ws : List Word) (n : Nat) : Nat × Nat × Nat :=
  let (x, y, _) := lExt ws
  let m := n % (x * y)
  let z := n / (x * y)
  match lOrder ws with
  | 0 => (m % x, m / x, z)
  | 1 => (m / y, m % y, z)
  | 2 => let p := zOrder 64 m (Nat.log2 x) (Nat.log2 y) 0; (p.1, p.2, z)
  | _ => ((if n / x % 2 = 1 then x - 1 - m % x else m % x), m / x, z)

/-! ### Task entry (14 R253, R256, 05 R89) -/

/-- Resources that the tasks of a core hold: tiles, landing slots, main-file rows. -/
def coreUse (s : State) (core : Nat) : Nat × Nat × Nat :=
  (List.range 4).foldl (fun u j =>
    let c := s.ctx (4 * core + j)
    match c.task with
    | some t => if c.mode = .halted then u else (u.1 + t.zacc, u.2.1 + t.lslots, u.2.2 + t.mwin)
    | none => u) (0, 0, 0)

/-- Whether a core has free what a launch needs. -/
def coreFits (s : State) (core : Nat) (ws : List Word) : Bool :=
  let u := coreUse s core
  decide (u.1 + lZacc ws ≤ 4) && decide (u.2.1 + lSlots ws ≤ 128) && decide (u.2.2 + lMwin ws ≤ 12288)

/-- Format registers from an image: an invalid entry gives the default and sets ASTAT.rcd. -/
def fmtImage (ws : List Word) : PMap Word × Bool :=
  ((ws.zip (List.range 16)).foldl (fun m p => wr 0x2011 m p.2 (if fValid p.1 then p.1 else 0x2011)) [],
    ws.any fun w => !fValid w)

/-- The homes on other modules that hold tags of a task leave its context with it (10 R192). -/
def putAway (i : Nat) (t : Task) (s : State) : State :=
  let c := s.ctx i
  if c.rredAt.isEmpty then s
  else s.modFn t.fn fun g => { g with rredAway := g.rredAway ++ [⟨t.lnch, t.n, i, c.po, c.rredAt⟩] }

/-- Such homes of a tile of a launch, with the context and its place in program order. -/
def awayOf (s : State) (f : Nat) (lnch : BitVec 32) (n : Nat) : TagHomes :=
  ((s.fn f).rredAway.find? fun x => x.lnch = lnch ∧ x.n = n).getD ⟨lnch, n, 0, 0, []⟩

/-- They are no longer away. -/
def takeAway (f : Nat) (lnch : BitVec 32) (n : Nat) (s : State) : State :=
  s.modFn f fun g => { g with rredAway := g.rredAway.filter fun x => !(x.lnch = lnch ∧ x.n = n) }

/-- A task starts on context `cx` with the state of R256. A fault of the format image is taken at its ENTRY, with the address
of the first 8-byte word that has one (05 R89). What belongs to the context stays: its last trap, its failure map and its
order. -/
def enterTask (cx v : Nat) (n : Node) (core idx : Nat) (s : State) : State :=
  let (x, y, z) := coordOf n.words idx
  let old := s.ctx cx
  let t : Task :=
    { fn := n.fn, priv := lFlag n.words 30, vdie := v, vcore := core, x := x, y := y, z := z, n := idx, lnch := n.id,
      lflags := n.words.getD 4 0, zacc := lZacc n.words, lslots := lSlots n.words, mwin := lMwin n.words,
      entry := n.words.getD 0 0, param := n.words.getD 1 0, fmtimg := lFmtimg n.words }
  let now := (s.pdie (dieOf cx)).cycle
  let c : Ctx :=
    { mode := .run, serial := old.serial + 1, pc := t.entry, task := some t, minReady := now,
      regs := { a := wr 0 [] 0 t.param }, mat := { seed := s.freeCtr }, trapPC := old.trapPC, trapCode := old.trapCode,
      trapMask := old.trapMask, failMap := old.failMap, po := old.po, seen := old.seen,
      rredAt := (awayOf s n.fn n.id idx).homes }
  let s := { takeAway n.fn n.id idx (s.setCtx cx c) with freeCtr := s.freeCtr + 1 }
  if t.fmtimg = 0 then s
  else match s.agentWords n.fn v (coreOf cx) t.fmtimg 16 with
    | .error (e, a) => trapAt cx t.entry 0 e (if e = 0x10 then 3 else 0) a t.entry s
    | .ok ws =>
      let f := fmtImage ws
      (mergeClock v (s.agentStamp n.fn v (coreOf cx) t.fmtimg 128) s).setCtx cx { c with mat := { c.mat with ft := f.1 }, astat := if f.2 then stRcd.setWidth 64 else 0 }

/-- Inserts a launch by decreasing priority, then increasing id. -/
def byPrio (n : Node × Walker) : List (Node × Walker) → List (Node × Walker)
  | [] => [n]
  | m :: ms =>
    if lPrio m.1.words < lPrio n.1.words ∨ (lPrio m.1.words = lPrio n.1.words ∧ n.1.id.toNat < m.1.id.toNat) then n :: m :: ms
    else m :: byPrio n ms

/-- Walkers whose virtual core lies on a physical core, with their launches, in the order of service. -/
def walkersOf (s : State) (v core : Nat) : List (Node × Walker) :=
  ((s.vdie v).walkers.filterMap fun w =>
    if s.vcorePhys w.fn v w.vcore = some core then (s.node v w.lnch).map fun n => (n, w) else none).foldl (fun l p => byPrio p l) []

/-- Whether the walkers of a launch may issue (23 R361). -/
def mayIssue (s : State) (n : Node) : Bool :=
  let f := s.fn n.fn
  !f.frozen && !f.resetting && (!f.halted || lFlag n.words 30)

/-- Takes the next index of a walker: indices to run again, then the current range. -/
def takeIndex (w : Walker) : Option (Nat × Walker) :=
  match w.again with
  | i :: is => some (i, { w with again := is })
  | [] => if w.next < w.end_ then some (w.next, promote { w with next := w.next + 1 }) else none

/-- What a context without a task can have from the walkers of its core in this cycle. -/
inductive Work where
  | none
  | issue (n : Node) (w : Walker)
  | split (n : Node) (w : Walker)
  deriving DecidableEq, Repr

/-- The first launch of a core that gives a coordinate, or that waits for room; a walker hands out one coordinate a cycle
(14 R253). A context that comes to a launch whose walker is saved away has no work of later launches either (R255). DESIGN CHOICE,
log 46. -/
def workFrom (s : State) (cx v : Nat) : List (Node × Walker) → Work
  | [] => .none
  | (n, w) :: r =>
    if !mayIssue s n then workFrom s cx v r
    else if w.away then .none
    else
      let dry := walkerDry w
      if dry && (splitFor v n w.ordinal s).isNone then workFrom s cx v r
      else if !coreFits s (coreOf cx) n.words || decide (w.handed = some (s.pdie (dieOf cx)).cycle) then .none
      else if dry then .split n w else .issue n w

/-- Whether a reply is still to write a register of a context for the task that it ran last (06 R115, 13 R244, 17 R306). -/
def replyOwed (s : State) (cx : Nat) : Bool :=
  let owes (r : Req) : Bool := decide (r.cx = some cx) && decide (r.serial = (s.ctx cx).serial) && match r.dest with
    | .none | .land _ | .barRec _ => false
    | _ => true
  (s.pdie (dieOf cx)).sent.any (fun q => owes q.req && !q.given) || (s.pdie (dieOf cx)).walks.any fun w => owes w.req

/-- What context `cx` can have now: nothing before the replies of its last task have written their registers. A format image is
read once the writes before it have been applied and the links to it are up. -/
def workOf (s : State) (cx : Nat) : Work :=
  if (s.ctx cx).mode ≠ .free ∨ cx ≥ 512 ∨ replyOwed s cx then .none
  else
    let v := s.virt (dieOf cx)
    let ws := walkersOf s v (coreOf cx)
    let held (w : Node × Walker) : Bool := decide (lFmtimg w.1.words ≠ 0) &&
      (!s.settled v || !s.linkedTo (dieOf cx) w.1.fn v (coreOf cx) (lFmtimg w.1.words) .read 128)
    if ws.isEmpty || ws.any held then .none else workFrom s cx v ws

/-- Place of what a context can have in the fixed order of its die's walker unit within a cycle: the issues by ordinal, then
the splits by ordinal of the thief (14 R254). -/
def Work.place : Work → Option Nat
  | .none => .none
  | .issue _ w => some w.ordinal
  | .split _ w => some (128 + w.ordinal)

/-- Least place of what the contexts of a physical die can have. -/
def firstWork (s : State) (die : Nat) : Option Nat :=
  if (s.vdie (s.virt die)).walkers.isEmpty then none
  else (span (64 * die) 64).foldl (fun b cx => match (workOf s cx).place, b with
    | some p, some q => some (Nat.min p q)
    | some p, none => some p
    | none, b => b) none

/-- The context enters the next task of a walker (WALKER_ISSUE). -/
def handOut (cx v : Nat) (n : Node) (w : Walker) (s : State) : State :=
  match takeIndex w with
  | none => s
  | some (i, w) =>
    let w := { w with handed := some (s.pdie (dieOf cx)).cycle }
    enterTask cx v n w.vcore i
      ((modWalker v n.id w.ordinal (fun _ => w) s).modNode v n.id fun n => { n with live := n.live + 1 })

/-- CONTEXT_WORK_REQUEST: a context without a task asks the walkers of its core, and is served when its turn has come among
the contexts of its die. -/
def execContextWorkRequest (cx : Nat) (s : State) : Out :=
  let v := s.virt (dieOf cx)
  let k := workOf s cx
  if k.place.isNone ∨ k.place ≠ firstWork s (dieOf cx) then .next s
  else match k with
    | .none => .next s
    | .issue n w => .next (handOut cx v n w s)
    | .split n w => match splitFor v n w.ordinal s with
      | none => .next s
      | some (lo, hi, s) =>
        .next (handOut cx v n { w with next := lo, end_ := hi, splits := Nat.min (w.splits + 1) (2 ^ 32 - 1) } s)

/-- WSPLIT: the stolen range becomes the queued range of the issuing core's walker (14 R261). -/
def execWsplit (d : BitVec 6) (s : State) : Out :=
  notElided s fun s =>
    let v := s.myVdie
    match s.me.task with
    | none => .next (wS s d 0)
    | some t =>
      match (s.vdie v).walkers.find? (fun w => w.lnch = t.lnch ∧ w.vcore = t.vcore), s.node v t.lnch with
      | some w, some n =>
        if w.away ∨ w.qnext < w.qend then .next (wS s d 0)
        else match splitFor v n w.ordinal s with
          | none => .next (wS s d 0)
          | some (lo, hi, s) =>
            .next (wS (modWalker v n.id w.ordinal (fun w => promote { w with qnext := lo, qend := hi }) s) d (BitVec.ofNat 64 (hi - lo)))
      | _, _ => .next (wS s d 0)

/-! ### Start and retirement of nodes (14 R249, R257, R260) -/

/-- Engine of a node: the copy and gather engine, or the collective engine. -/
def engineOf : NodeKind → Nat
  | .job .col | .clnest | .treeOp => 1
  | _ => 0

/-- Whether a node's edges are met and nothing holds it. -/
def startable (s : State) (v : Nat) (n : Node) : Bool :=
  !n.started && !n.held && !n.countWait &&
  !n.preds.any (fun p => (s.node v p).isSome) &&
  (let f := s.fn n.fn
   !f.frozen && !f.resetting && (!f.halted || (decide (n.kind = .launch) && lFlag n.words 30)))

/-- NODE_START: walkers of a launch take their ranges, or an engine takes a job, in the order of acceptance. -/
def execNodeStart (vdie : Nat) (id : BitVec 32) (s : State) : Out :=
  match s.node vdie id with
  | none => .next s
  | some n =>
    if !startable s vdie n then .next s
    else match n.kind with
    | .launch =>
      let ws := cutRanges vdie n.fn n
      if walkersUsed (s.vdie vdie) + ws.length > 32 then .next s
      else .next ((s.modVdie vdie fun d => { d with walkers := d.walkers ++ ws }).modNode vdie id
        fun n => { n with started := true })
    | k =>
      let before := (s.vdie vdie).nodes.takeWhile fun m => m.id ≠ id
      if before.any fun m => decide (m.kind ≠ .launch) && decide (engineOf m.kind = engineOf k) && startable s vdie m then .next s
      else .next (s.modNode vdie id fun n => { n with started := true })

/-- Whether every write that a node issued has been applied at its home, and every read of it is over, which the nodes that
wait for it come after (14 R249, 11 R205). -/
def writesApplied (s : State) (id : BitVec 32) : Bool :=
  (List.range 8).all fun p =>
    let d := s.pdie p
    !d.sent.any (fun q => decide (q.req.node = id) && !(if q.req.op.writes then q.done else q.merged)) &&
      !d.walks.any fun w => decide (w.req.node = id)

/-- Whether the part of a node on one die is done. -/
def partDone (s : State) (v : Nat) (n : Node) : Bool :=
  match n.kind with
  | .launch => !n.countWait && (decide (n.count = 0) ||
      (n.started && decide (n.live = 0) && (s.vdie v).walkers.all fun w => decide (w.lnch ≠ n.id) || walkerDry w))
  | .job _ | .clnest => n.done
  | .treeOp =>
    let h := (n.words.getD 0 0).setWidth 32
    match look (s.fn n.fn).trees ((h : BitVec 32).extractLsb' 16 14).toNat with
    | none => true
    | some t => !t.valid || decide (t.gen ≠ ((h : BitVec 32).extractLsb' 0 16).toNat) || n.done ||
        !t.segs.any fun e => decide (e.code = 128 * s.hub.modid.toNat + n.vcore) && decide (e.seg = (n.words.getD 1 0).toNat) && !e.localdone

/-- Whether a node may retire. -/
def retirable (s : State) (id : BitVec 32) : Bool :=
  ((List.range 8).all fun v => match s.node v id with | some n => partDone s v n | none => true) &&
  !(s.fns.any fun f => f.2.partsLeft id) &&
  writesApplied s id

/-- Removes a node from its die: its claims go, and counts that waited for it are read (14 R250, R262). Its walkers keep their slots
until now, also those that are dry for good: 14 R251 and R255 free a slot at a pre-emption alone. DESIGN CHOICE, log 46. -/
def dropNode (v : Nat) (n : Node) (s : State) : State :=
  let s := s.modVdie v fun d =>
    { d with nodes := d.nodes.filter (fun m => m.id ≠ n.id), walkers := d.walkers.filter fun w => w.lnch ≠ n.id }
  let s := (span (16 * s.phys v) 16).foldl (fun s c =>
    if (s.core c).claims.any (fun k => k.1 = n.id) then
      s.modCore c fun k => { k with claims := k.claims.filter fun x => x.1 ≠ n.id } else s) s
  ((s.vdie v).nodes.filter fun m => m.countWait ∧ idDie m.id = v ∧ !countHeld s v m).foldl (fun s m => readCount v m s) s

/-- Clocks of the dies that ran parts of a node. -/
def nodeClk (s : State) (id : BitVec 32) : Clock :=
  (List.range 8).foldl (fun c v => match s.node v id with | some n => clkMerge c n.clk | none => c) []

/-- Die `v` knows what a clock names: its own clock holds it, or its frontier covers it. -/
def State.knows (s : State) (v : Nat) (c : Clock) : Bool := c.isEmpty || clkCovers (s.vdie v).clock c || s.covers v c

/-- NODE_RETIRE: a halted function's jobs retire when ERET clears the halt (23 R361). What waits for the node on the die comes
after the node's tasks on every die (11 R205): the die merges their clocks. -/
def execNodeRetire (vdie : Nat) (id : BitVec 32) (s : State) : Out :=
  match s.node vdie id with
  | none => .next s
  | some n =>
    let c := nodeClk s id
    if retirable s id && !(n.stopped && (s.fn n.fn).halted) && s.knows vdie c then
      .next (dropNode vdie n (mergeClock vdie c (((List.range 8).filter fun x => (s.node x id).isSome).foldl
        (fun s x => s.modNode x id fun m => { m with clk := c }) s)))
    else .next s

/-! ### Shadow banks (20 R334) -/

/-- The first record of a queue for a die. -/
def bankHead (q : Queue) (v : Nat) : Option (NodeKind × List Word × Option (BitVec 32)) :=
  (q.banks.find? fun b => b.1 = v).map Prod.snd

/-- Removes the first record of a queue for a die. -/
def dropHead (v : Nat) : List (Nat × NodeKind × List Word × Option (BitVec 32)) →
    List (Nat × NodeKind × List Word × Option (BitVec 32))
  | [] => []
  | b :: bs => if b.1 = v then bs else b :: dropHead v bs

/-- Die `v` gives the id of a host launch to its record on the other dies: the first of each die that has none. -/
def shareId (v : Nat) (ws : List Word) (id : BitVec 32) (bs : List (Nat × NodeKind × List Word × Option (BitVec 32))) :
    List (Nat × NodeKind × List Word × Option (BitVec 32)) :=
  (bs.foldl (fun (acc : List Nat × List (Nat × NodeKind × List Word × Option (BitVec 32))) b =>
    if b.2.1 = .launch ∧ b.2.2.1 = ws ∧ b.2.2.2 = none ∧ !acc.1.contains b.1 then
      (b.1 :: acc.1, acc.2 ++ [(b.1, b.2.1, b.2.2.1, some id)])
    else (acc.1, acc.2 ++ [b])) ([v], [])).2

/-- The lowest die of a launch gives the id of a host launch. -/
def lowestDie (ws : List Word) : Nat := ctzNat 8 (lDies ws)

/-- A job without work. -/
def jobEmpty (k : NodeKind) (ws : List Word) : Bool :=
  match k with
  | .job .col => decide (ws.getD 3 0 = 0)
  | .job _ => decide (ws.getD 0 0 = 0)
  | _ => false

/-! ### Bank hand-over (14 R262) -/

/-- The claim of the issuing task's launch on its core. -/
def myClaim (s : State) : Option (BitVec 64 × BitVec 64) :=
  match s.me.task with
  | none => none
  | some t => ((s.core (coreOf s.cur)).claims.find? fun c => c.1 = t.lnch).map Prod.snd

/-- BREL: it waits for the earlier reads of its context and for every open read of its launch on the core, which come before what
the next owner does (11 R205). -/
def execBrel (a : BitVec 6) (s : State) : Out :=
  notElided s fun s =>
    match s.me.task with
    | none => .next s
    | some t =>
      if s.readsOpen || s.readsLeft (dieOf s.cur) (fun r => decide (r.node = t.lnch) && match r.cx with
          | some i => decide (coreOf i = coreOf s.cur) && r.awaited i
          | none => false) then waitFor (.brel a) s
      else .next (s.modCore (coreOf s.cur) fun k => { k with claims := k.claims.map fun c =>
        if c.1 = t.lnch then (c.1, c.2.1, c.2.2 ||| (rS s a &&& c.2.1)) else c })

/-- Banks among `m` that older claims still own. -/
def ownedBefore (id : BitVec 32) : List (BitVec 32 × BitVec 64 × BitVec 64) → BitVec 64
  | [] => 0
  | c :: cs => if c.1 = id then 0 else (c.2.1 &&& ~~~ c.2.2) ||| ownedBefore id cs

/-- BOWN. -/
def execBown (a : BitVec 6) (s : State) : Out :=
  notElided s fun s =>
    match s.me.task, myClaim s with
    | some t, some (b, rel) =>
      if rS s a &&& b &&& ~~~ rel &&& ownedBefore t.lnch (s.core (coreOf s.cur)).claims ≠ 0 then waitFor (.bown a) s else .next s
    | _, _ => .next s

/-! ### Slack and start tokens (14 R265, R266) -/

/-- SLACK. -/
def execSlack (n : BitVec 14) (s : State) : Out := .next (s.mod fun c => { c with slackLeft := n.toNat })

/-- START_TOKEN_RELEASE: the next token goes to the earliest request, or is held; one that no core takes is lost. -/
def execStartTokenRelease (die : Nat) (s : State) : Out :=
  if die ≥ 8 then .next s
  else
    let p := tokensBy s.cycleG (s.pdie die)
    .next (grantHeld die (if p.tokenHeld then s else due (p.lastToken + tokenGap p) s))

/-- ARRAY_IDLE_TIMEOUT: 256 port cycles without a beat. -/
def execArrayIdleTimeout (core : Nat) (s : State) : Out :=
  let k := s.core core
  let die := core / 16
  if k.cols = 0 then .next s
  else
    let now := (s.pdie die).cycle
    let s := if now < k.lastBeat + 256 then pass die (k.lastBeat + 256 - now) s else s
    .next (s.modCore core fun k => { k with cols := 0, tokens := 0, tokenReq := none })

/-! ### The end of a task (06 R115, 10 R192) -/

/-- A request lapses: word 0 of its area becomes zero, then EVSIG #63 reaches the requester. A write that faults is not
made, and its fault goes into the function's GETLOG entries (23 R367). -/
def lapseReq (p : Preempt) (s : State) : State :=
  let v := p.by_ / 16
  let s := match s.agentLoc p.fn v ((s.vcorePhys p.fn v (p.by_ % 16)).getD 0) p.area .write with
    | .ok l => agentWrite v p.fn (p.by_ % 16) 0 l p.area (toBytes 8 0) s
    | .error c => s.modFn p.fn fun g =>
        { g with getlog := g.getlog ++ [((fcauseOf c v (p.by_ % 16) 0 false).setWidth 64) <<< 2] }
  signal p.fn v (p.by_ % 16) 63 s

/-- The request at context `i` lapses. -/
def lapse (i : Nat) (s : State) : State :=
  match (s.ctx i).preempt with
  | none => s
  | some p => lapseReq p (s.setCtx i { s.ctx i with preempt := none })

/-- A task leaves its launch: one live task less, and its RRED tags are reported to the homes: from its core to those of this
module, and, once its reduce-stores there have been answered, to the homes on other modules. -/
def leaveLaunch (t : Task) (rreds core : Nat) (far : List (Nat × Nat)) (cx po : Nat) (s : State) : State :=
  let clk := (s.vdie t.vdie).clock
  let s := s.modNode t.vdie t.lnch fun n => { n with live := n.live - 1, clk := clkMerge n.clk clk }
  if rreds = 0 then s
  else
    let m : Msg := { dst := 8, body := .exit t.fn t.lnch t.n, born := s.cycleG }
    let s := (List.range 8).foldl (fun s d => sendFrom core { m with dst := d } s) s
    let out := far.map fun h => (cx, po, { m with toMod := some h.1, toDie := h.2 })
    releaseExits (core / 16) (s.modPdie (core / 16) fun p => { p with exits := p.exits ++ out })

/-- The task of context `i` has exited. -/
def endTask (i : Nat) (s : State) : State :=
  let c := s.ctx i
  match c.task with
  | none => s
  | some t => dropTask i (lapse i (leaveLaunch t c.rredSeg (coreOf i) c.rredAt i c.po s))

end Sys2Proof.Machine
end

