-- ==== Sys2Proof/Machine/Engines.lean ====
section
/-!
DEFINITION. Job cards, the copy and gather engine, and the drains (15 R267 to R272, 10 R194).
-/
namespace Sys2Proof.Machine
open Store

/-! ### Cards (15 R268, R270) -/

/-- CTL and BAR of a card. -/
def cCtl (ws : List Word) : Word := ws.getD 5 0
def cBar (ws : List Word) : Word := ws.getD 6 0
def cBsl (ws : List Word) : Bool := (cCtl ws).getLsbD 62

/-- A barrier word that a card may name. -/
def barOk (b : Word) : Bool :=
  decide (b = 0) || (decide (b.toNat % 16 = 0) && match window b with
    | some (.local_, _) | some (.peer, _) | some (.shared, _) => true
    | _ => false)

/-- Checks of R270. -/
def cardOk (e : Eng) (ws : List Word) : Bool :=
  decide ((cCtl ws).extractLsb' 0 56 = 0) && decide (ws.getD 7 0 = 0) && barOk (cBar ws) && regionsOk ws &&
  (decide (e = .cpy) || !cBsl ws) &&
  match e with
  | .cpy => decide ((ws.getD 0 0).toNat < 2 ^ 40) && decide (ws.getD 4 0 = 0) &&
      (if cBsl ws then decide ((ws.getD 3 0).toNat < 2 ^ 16) else decide (ws.getD 3 0 = 0))
  | .gath | .scat => decide ((ws.getD 0 0).toNat < 2 ^ 32) && decide ((ws.getD 4 0).toNat ≤ 7)
  | .col => decide ((ws.getD 0 0).toNat < 2 ^ 32) && decide ((ws.getD 3 0).toNat < 2 ^ 32) && decide (ws.getD 4 0 = 0)

/-! ### Job forms (15 R267, R272) -/

/-- Number of an engine. -/
def engNo : Eng → Nat | .cpy => 0 | .gath => 1 | .scat => 2 | .col => 3

/-- JOBW. A write of collective field 0 or 2 restarts the count of drain-queue entries (15 R283). -/
def execJobw (eng : Eng) (f a : BitVec 6) (s : State) : Out :=
  notElided s fun s => .next (s.mod fun c => { c with
    shadow := wr 0 c.shadow (16 * engNo eng + f.toNat) (rS s a),
    colCount := if eng = .col ∧ (f = 0 ∨ f = 2) then 0 else c.colCount })

/-- Whether a job is unretired and no halt has stopped it. -/
def jobOpen (s : State) (f : Nat) (id : BitVec 32) : Bool :=
  (List.range 8).any fun v => match s.node v id with | some n => decide (n.fn = f) && !n.stopped | none => false

/-- JOBWAIT. -/
def execJobwait (a : BitVec 6) (s : State) : Out :=
  notElided s fun s =>
    let x := rS s a
    if x.toNat ≥ 2 ^ 32 then .next s
    else if jobOpen s s.myFn (x.setWidth 32) then waitFor (.jobwait a) s
    else syncFrom (.jobwait a) (x.setWidth 32) s

/-! ### Running a job (15 R269, R271) -/

/-- A fault of a job: code, detail and address; code 0 when a held bank makes it wait. -/
abbrev JobErr := BitVec 8 × BitVec 8 × Word

/-- Whether some context holds the bank of a key (12 R231). -/
def bankHeld (s : State) (k : Nat) : Bool :=
  decide (keyKind k = 1) && (List.range 4).any fun j =>
    let i := (k - 2 ^ 41) / 2 ^ 23 * 4 + j
    match (s.ctx i).hold with
    | some h => decide (h.left > 0) && h.lasts (s.pdie (dieOf i)).cycle && h.mask.getLsbD (k / 256 % 64)
    | none => false

/-- Physical core of the submitting core; LOCAL and PEER are relative to it. -/
def State.subCore (s : State) (n : Node) : Option Nat := s.vcorePhys n.fn (n.vcore / 16) (n.vcore % 16)

/-- Keys of `m` bytes for a job. -/
def jobKeys (n : Node) (a : Word) (acc : Acc) (m : Nat) (s : State) : Except JobErr (List Nat) :=
  match s.subCore n with
  | none => .error (0x04, 0, a)
  | some core =>
    match s.agentKeys n.fn (n.vcore / 16) core a acc m with
    | .error c => .error (c, walkDetail c, a)
    | .ok ks => if ks.any (bankHeld s) then .error (0, 0, a) else .ok ks

/-- Location of a byte for a job. -/
def jobLoc (n : Node) (a : Word) (acc : Acc) (s : State) : Except JobErr Loc :=
  match s.subCore n with
  | none => .error (0x04, 0, a)
  | some core => (s.agentLoc n.fn (n.vcore / 16) core a acc).mapError fun c => (c, walkDetail c, a)

/-- Whether the home of a location knows what the clock of die `v` names: then it serves a read of an agent of the die.
LOCAL and PEER are served at once (11 R198). -/
def State.served (s : State) (v : Nat) (l : Loc) : Bool :=
  match l with
  | .near _ _ => true
  | l => s.covers l.home (s.vdie v).clock

/-- Whether a request that the home of a key can serve has come to the bank of the key in this cycle: an engine comes behind it (12
R223). -/
def bankBusy (s : State) (k : Nat) : Bool :=
  let d := keyDie k
  (s.pdie d).pend.any fun q => decide (q.arr = s.homeCycle d) && decide (bankOf (s.locKey q.loc) = bankOf k) && s.serves d q

/-- A read of an engine of die `v`: it is served when the links to its homes are up and the homes know the clock of the die, behind the
requests of this cycle, and poison gives 0x10 with the storage kind. -/
def jobRead (v : Nat) (n : Node) (a : Word) (m : Nat) (s : State) : Except JobErr (List Byte × State) := do
  let ks ← jobKeys n a .read m s
  let l ← jobLoc n a .read s
  let r ← jobLoc n (a + BitVec.ofNat 64 (m - 1)) .read s
  let st := s.stampKeys ks
  if !s.linkedTo (s.phys v) n.fn (n.vcore / 16) ((s.subCore n).getD 0) a .read m ||
      !(s.served v l && s.served v r && (s.covers v st || decide (l = .near v (ks.headD 0)))) || ks.any (bankBusy s) then .error (0, 0, a)
  else match ks.find? fun k => s.poisoned k 1 with
    | some k => .error (0x10, BitVec.ofNat 8 (keyKind k), a)
    | none => .ok (ks.map s.byte, mergeClock v st (s.touchKeys none ks false))

/-- Writes bytes to keys with one stamp of the engine's die. -/
def writeKeys (v : Nat) (ks : List Nat) (bs : List Byte) (s : State) : State :=
  let s := bump v s
  (ks.zip bs).foldl (fun s p => s.store none p.1 [p.2] (s.vdie v).clock) s

/-- A write of a job on die `v`, which lies in one block of its home. -/
def jobWrite (v : Nat) (n : Node) (a : Word) (bs : List Byte) (s : State) : Except JobErr State := do
  let ks ← jobKeys n a .write bs.length s
  let l ← jobLoc n a .write s
  .ok (if ks.isEmpty then s else agentWrite v n.fn (n.vcore % 16) n.id l a bs s)

/-- Block j of a copy: blocks end at the 64-byte boundaries of the destination. Answers its offset and length. -/
def copyBlock (dst len j : Nat) : Nat × Nat :=
  let first := 64 - dst % 64
  if j = 0 then (0, Nat.min len first) else let o := first + 64 * (j - 1); (o, Nat.min (len - o) 64)
/-- Blocks of a copy. -/
def copyBlocks (dst len : Nat) : Nat := if len = 0 then 0 else (dst % 64 + len + 63) / 64

/-- The engine keeps what it has read. -/
def keepRead (v : Nat) (n : Node) (bs : List Byte) (s : State) : State :=
  s.modNode v n.id fun m => { m with data := m.data ++ [bs] }

/-- The engine goes on to the next block or element. -/
def movedOn (v : Nat) (n : Node) (s : State) : State :=
  s.modNode v n.id fun m => { m with data := [], posted := m.posted + 1 }

/-- The next access of a copy job: it reads a block whole, then writes it. -/
def copyStep (v : Nat) (n : Node) (s : State) : Except JobErr State := do
  let ws := n.words
  let len := (ws.getD 0 0).toNat
  let src := ws.getD 1 0
  let dst := ws.getD 2 0
  let (o, m) := copyBlock dst.toNat len n.posted
  match n.data with
  | [] =>
    let (bs, s) ← jobRead v n (src + BitVec.ofNat 64 o) m s
    .ok (keepRead v n bs s)
  | bs :: _ =>
    if cBsl ws then
      let first := (ws.getD 3 0).toNat % 256
      let last := (ws.getD 3 0).toNat / 256
      match s.subCore n with
      | none => .error (0x04, 0, dst)
      | some core =>
        if dst.toNat + len > 131072 ∨ first > last ∨ last > 191 then .error (0x06, 0, dst)
        else .ok (movedOn v n ((span first (last + 1 - first)).foldl (fun s c =>
          let k := keyBslice core c (dst.toNat + o)
          writeKeys v (span k m) bs s) s))
    else do
      let s ← jobWrite v n (dst + BitVec.ofNat 64 o) bs s
      .ok (movedOn v n s)

/-- The next access of a gather or scatter job: it reads the index of an element, then the element, then writes it. -/
def elemStep (scat : Bool) (v : Nat) (n : Node) (s : State) : Except JobErr State := do
  let ws := n.words
  let j := n.posted
  let e := 2 ^ (ws.getD 4 0).toNat
  match n.data with
  | [] =>
    let ia := ws.getD 3 0 + BitVec.ofNat 64 (4 * j)
    if ia.toNat % 4 ≠ 0 then .error (0x05, 0, ia)
    let (ib, s) ← jobRead v n ia 4 s
    .ok (keepRead v n ib s)
  | ib :: r =>
    let far (b : Word) : Word := b + BitVec.ofNat 64 (ofBytes ib * e)
    let near (b : Word) : Word := b + BitVec.ofNat 64 (j * e)
    let src := if scat then near (ws.getD 1 0) else far (ws.getD 1 0)
    let dst := if scat then far (ws.getD 2 0) else near (ws.getD 2 0)
    match r with
    | [] =>
      if src.toNat % e ≠ 0 then .error (0x05, 0, src)
      if dst.toNat % e ≠ 0 then .error (0x05, 0, dst)
      let (bs, s) ← jobRead v n src e s
      .ok (keepRead v n bs s)
    | bs :: _ =>
      let s ← jobWrite v n dst bs s
      .ok (movedOn v n s)

/-- Steps that a job takes. -/
def jobLen (e : Eng) (ws : List Word) : Nat :=
  match e with
  | .cpy => copyBlocks (ws.getD 2 0).toNat (ws.getD 0 0).toNat
  | .gath | .scat => (ws.getD 0 0).toNat
  | .col => 0

/-- Bytes that a job writes. -/
def jobBytes (e : Eng) (ws : List Word) : Nat :=
  match e with
  | .cpy => (ws.getD 0 0).toNat *
      (if cBsl ws then (ws.getD 3 0).toNat / 256 + 1 - (ws.getD 3 0).toNat % 256 else 1)
  | .gath | .scat => (ws.getD 0 0).toNat * 2 ^ (ws.getD 4 0).toNat
  | .col => 0

/-- The BARA at completion (12 R238): at once where the word lies on the engine's die in LOCAL or PEER, else as an atomic at
its home. -/
def jobBara (v : Nat) (n : Node) (bytes : Nat) (s : State) : Except JobErr State := do
  let b := cBar n.words
  if b = 0 then .ok s
  else
    let ks ← jobKeys n b .atomic 16 s
    match ks.find? fun k => s.poisoned k 1 with
    | some k => .error (0x10, BitVec.ofNat 8 (keyKind k), b)
    | none =>
      let l ← jobLoc n b .atomic s
      match l with
      | .near _ k => .ok (agentStore v none k (barStep false bytes (s.bytes k 16)) (mergeClock v (s.stampOf k 16) s))
      | l => .ok (launchLate { agentReq v n.fn (n.vcore % 16) n.id l b s with op := .bara (BitVec.ofNat 64 bytes) } s)

/-- The next access of a job of the copy and gather engine, or its completion once its writes have been applied. -/
def engineMove (v : Nat) (n : Node) (e : Eng) (s : State) : Except JobErr State :=
  if n.posted < jobLen e n.words then
    match e with
    | .cpy => copyStep v n s
    | .gath => elemStep false v n s
    | .scat => elemStep true v n s
    | .col => .error (0, 0, 0)
  else if !writesApplied s n.id then .error (0, 0, 0)
  else do
    let s ← jobBara v n (jobBytes e n.words) s
    .ok ((jobEvent n s).modNode v n.id fun m => { m with done := true })

/-- Stop record of an engine (23 R363). -/
def engRec (s : State) (v : Nat) (n : Node) (code detail : BitVec 8) (addr : Word) : List Word :=
  [recWord0 code 0 (engineOf n.kind + 1) v 0 0 n.fn detail, n.id.setWidth 64, addr, 0, 0, 0, BitVec.ofNat 64 s.cycleG, 0]

/-- A FAULT OF AN ENGINE JOB IS CHARGED (15 R270): to the submitting context while it runs the submitting task,
otherwise by the engine's own stop record. -/
def chargeJob (v : Nat) (n : Node) (code detail : BitVec 8) (addr : Word) (s : State) : State :=
  let s := s.modNode v n.id fun n => { n with done := true, stopped := true }
  match n.cx with
  | some i =>
    if s.runs i n.serial then trapAt i n.pc (slotBit n.slot) code detail addr (s.nextPc i) s
    else alone s
  | none => alone s
where
  /-- The engine's record alone. -/
  alone (s : State) : State :=
    let s := s.modFn n.fn (addRec (engRec s v n code detail addr))
    let s := raiseHalt n.fn (!freezing code) s
    if freezing code then freezeFn n.fn (fcauseOf code v 0 0 true) true s else s

/-! ### Acceptance of cards (15 R267 to R269, 20 R334) -/

/-- A CARD WITHOUT WORK RETIRES WHEN IT IS ACCEPTED (15 R268, R269): it makes the BARA of its 0 bytes, whose fault is the job's, and
its event occurs. None while a held bank lets the BARA wait. -/
def acceptEmpty (v : Nat) (n : Node) (s : State) : Option State :=
  match jobBara v n 0 s with
  | .ok s => some (jobEvent n s)
  | .error (c, d, a) => if c = 0 then none else some (chargeJob v n c d a s)

/-- A die accepts a card. -/
def acceptCard (v : Nat) (n : Node) (s : State) : Option State :=
  if jobEmpty n.kind n.words then acceptEmpty v n s else some (acceptNode v n false s)

/-- Submits a card: the id, or 0 when it is rejected. -/
def submitCard (i : Instr) (e : Eng) (d : BitVec 6) (ws : List Word) (s : State) : Out :=
  if !cardOk e ws then .next (wS s d 0)
  else
    let v := s.myVdie
    let (id, t) := giveId v s
    let c := s.me
    let n : Node :=
      { id := id, fn := s.myFn, kind := .job e, words := ws, held := false, preds := [], cx := some s.cur,
        serial := c.serial, pc := c.iss.pc, slot := c.iss.slot, vcore := 16 * v + s.myCore }
    match acceptCard v n (wS t d (id.setWidth 64)) with
    | none => waitFor i s
    | some t => .next t

/-- JOBGO. -/
def execJobgo (eng : Eng) (d : BitVec 6) (s : State) : Out :=
  notElided s fun s =>
    if s.nodesFull s.myVdie s.myFn || !s.quiet then waitFor (.jobgo eng d) s
    else submitCard (.jobgo eng d) eng d ((span (16 * engNo eng) 16).map fun k => rd 0 s.me.shadow k) s

/-- Reads a card and submits it. -/
def cardForm (i : Instr) (e : Eng) (d aa : BitVec 6) (s : State) : Out :=
  if s.nodesFull s.myVdie s.myFn && !s.inElided then waitFor i s
  else recordForm i (rA s aa.toNat) 64 128 (submitCard i e d) s

/-- CPY. -/
def execCpy (d aa : BitVec 6) (s : State) : Out := cardForm (.cpy d aa) .cpy d aa s
/-- GATH. -/
def execGath (d aa : BitVec 6) (s : State) : Out := cardForm (.gath d aa) .gath d aa s
/-- SCAT. -/
def execScat (d aa : BitVec 6) (s : State) : Out := cardForm (.scat d aa) .scat d aa s

/-- SHADOW_BANK_SWAP: the next record of a queue on a die is accepted, once the record that last used its bank has
retired. Place 64 holds the launches that LNCH and LNCHI forward, which use no bank of a queue: what they run comes after what
the submitting context did before (11 R205). -/
def execShadowBankSwap (vdie fn q : Nat) (s : State) : Out :=
  let old := s
  let x := rd {} (s.fn fn).queues q
  match bankHead x vdie with
  | none => .next s
  | some (k, ws, id) =>
    let bank := rd 0 x.bankNext vdie
    let busy := decide (q ≠ fwdQueue) && (s.vdie vdie).nodes.any fun n => decide (n.fn = fn) && decide (n.queue = some (2 * q + bank))
    let mine := decide (k ≠ .launch) || decide (lowestDie ws = vdie)
    let c := match id.bind fun n => s.node (idDie n) n with | some m => m.clk | none => []
    if busy || s.nodesFull vdie fn || (id.isNone && !mine) || !s.settled vdie || !s.knows vdie c then .next s
    else
      let s := mergeClock vdie c s
      let (n, s) := match id with
        | some n => (n, s)
        | none => giveId vdie s
      let s := s.modFn fn fun g =>
        let y := rd {} g.queues q
        let bs := dropHead vdie y.banks
        { g with queues := put g.queues q { y with
            banks := if id.isNone ∧ k = .launch then shareId vdie ws n bs else bs, bankNext := wr 0 y.bankNext vdie (1 - bank) } }
      let qn := if q = fwdQueue then none else some (2 * q + bank)
      match k with
      | .launch =>
        let known := (List.range 8).findSome? fun v => (s.node v n).bind fun m => if m.countWait then none else some m
        let node := match known with
          | some m => { launchNode fn n m.words qn with countWait := false, count := m.count }
          | none => launchNode fn n ws qn
        .next (acceptNode vdie node (launchEmpty ws) s)
      | k => match acceptCard vdie { id := n, fn := fn, kind := k, words := ws, held := false, preds := [], queue := qn } s with
        | some t => .next t
        | none => .next old

/-- Whether a started job may run: its function is not stopped. -/
def jobReady (s : State) (n : Node) : Bool :=
  n.started && !n.done && !(s.fn n.fn).halted && !(s.fn n.fn).frozen && !(s.fn n.fn).resetting

/-! ### Drains (10 R194) -/

/-- Class of a copy or scatter job: true for DRAIN.cpl, false for DRAIN.cpsh. -/
def drainClass (ws : List Word) : Option Bool :=
  if cBsl ws then some true
  else match window (ws.getD 2 0) with
    | some (.local_, _) | some (.peer, _) => some true
    | some (.shared, _) | some (.device, _) => some false
    | _ => none

/-- Jobs of the issuing core that are not done, accepted up to a sequence number on its own die. -/
def coreJobs (s : State) (upTo : Nat) (p : Node → Bool) : Bool :=
  (List.range 8).any fun v => (s.vdie v).nodes.any fun n =>
    decide (n.fn = s.myFn) && decide (n.vcore = 16 * s.myVdie + s.myCore) && !n.done && p n &&
    (decide (v ≠ s.myVdie) || !seqBelow upTo (idSeq n.id))

/-- A drain waits for the jobs submitted before its bundle. -/
def drainForm (i : Instr) (p : Node → Bool) (s : State) : Out :=
  notElided s fun s =>
    let upTo := s.me.waitKey.getD (s.vdie s.myVdie).nodeSeq
    if coreJobs s upTo p then waitFor i (s.mod fun c => { c with waitKey := some upTo })
    else .next (s.mod fun c => { c with waitKey := none })

/-- A copy or scatter job of a class. -/
def isMove (cls : Bool) (n : Node) : Bool :=
  match n.kind with
  | .job .cpy | .job .scat => decide (drainClass n.words = some cls)
  | _ => false

/-- DRAIN.cpl. -/
def execDrainCpl (s : State) : Out := drainForm .drainCpl (isMove true) s
/-- DRAIN.cpsh. -/
def execDrainCpsh (s : State) : Out := drainForm .drainCpsh (isMove false) s
/-- DRAIN.gath. -/
def execDrainGath (s : State) : Out := drainForm .drainGath (fun n => decide (n.kind = .job .gath)) s

/-- Posts of the executing core whose results are still to come, by tree and segment. -/
def openPosts (s : State) : List (Nat × Nat) :=
  (s.fn s.myFn).trees.flatMap fun t => if t.2.valid then
    (t.2.segs.filter fun e => decide (e.code = 128 * s.hub.modid.toNat + 16 * s.myVdie + s.myCore) && !e.localdone).map
      fun e => (t.1, e.seg) else []

/-- Loop-nest collectives that still write the scratchpad of the executing core. -/
def openNests (s : State) : List (BitVec 32) :=
  ((s.core (coreOf s.cur)).cls.filter fun c => decide (c.fn = s.myFn) && c.accepted && !c.localdone && !c.cancelled).map (·.n)

/-- Whether a drain-queue entry of the executing core below a number has become a post whose result is still to come. -/
def queuedPosts (s : State) (upTo : Nat) : Bool :=
  (s.fn s.myFn).trees.any fun t => t.2.valid && t.2.segs.any fun e =>
    decide (e.code = 128 * s.hub.modid.toNat + 16 * s.myVdie + s.myCore) && !e.localdone &&
      match e.entry with | some n => decide (n < upTo) | none => false

/-- DRAIN.col: drain-queue entries of the core, results of its posts, and collectives that write its scratchpad, as far as
they were submitted before its bundle. -/
def execDrainCol (s : State) : Out :=
  notElided s fun s =>
    let k := s.core (coreOf s.cur)
    let upTo := s.me.waitKey.getD (s.vdie s.myVdie).nodeSeq
    let snap := s.me.drainSnap.getD (k.drainNo, openPosts s, openNests s)
    if k.drainQ.any (fun e => decide (e.no < snap.1)) || queuedPosts s snap.1 || (openPosts s).any (snap.2.1.contains ·) ||
        (openNests s).any (snap.2.2.contains ·) || coreJobs s upTo (fun n => decide (n.kind = .job .col)) then
      waitFor .drainCol (s.mod fun c => { c with waitKey := some upTo, drainSnap := some snap })
    else .next (s.mod fun c => { c with waitKey := none, drainSnap := none })

end Sys2Proof.Machine
end

