-- ==== Sys2Proof/Machine/Trees.lean ====
section
/-!
DEFINITION. Tree objects: table, logical tree, posts, folding, events, freezing, save blocks and edits
(15 R273 to R283, 24 R381 to R386).
-/
namespace Sys2Proof.Machine
open Store

/-! ### Handles and members (15 R273, R274) -/

/-- Tree of an index. -/
def State.tree (s : State) (f i : Nat) : Tree := rd {} (s.fn f).trees i
/-- Updates a tree. -/
def State.modTree (s : State) (f i : Nat) (g : Tree → Tree) : State :=
  s.modFn f fun x => { x with trees := put x.trees i (g (rd {} x.trees i)) }

/-- Index of a handle. -/
def hIdx (h : Word) : Nat := (h.extractLsb' 16 14).toNat
/-- The tree that a handle of function `f` names. -/
def treeOf (s : State) (f : Nat) (h : Word) : Option (Nat × Tree) :=
  let i := hIdx h
  let t := s.tree f i
  if decide (h.toNat < 2 ^ 32) && t.valid && decide (t.kind ≠ 0) && decide (h = (handleOf i t).setWidth 64) then some (i, t) else none

/-- Code of a member: module, virtual die, core. -/
def mcode (m v c : Nat) : Nat := 128 * m + 16 * v + c
/-- Code of a member. -/
def Member.code (m : Member) : Nat := mcode m.modid m.vdie m.core

/-- The bits of a member entry that the format leaves zero are zero. -/
def memberOk (w : Word) : Bool := decide (w &&& 0xFFF000E0000007FF#64 = 0) && decide (w.extractLsb' 29 11 = 0)

/-- Members after an edit. -/
def applyEdit (ms : List Member) (e : Edit) : List Member :=
  let m := memberOf e.word1
  if e.word0.extractLsb' 62 2 = 0 then ms ++ [m] else ms.filter fun x => x.code ≠ m.code
/-- Members of segment `k` (15 R282). -/
def membersAt (t : Tree) (k : Nat) : List Member :=
  (t.edits.filter fun e => e.bound ≤ k).foldl applyEdit t.members

/-! ### The logical tree (15 R276) -/

/-- Number of a router, as slots name it, and the router of a number. -/
def Rtr.code (r : Rtr) : Nat := ((r.level * 2048 + r.modid) * 8 + r.vdie) * 16 + r.core
def rtrOf (n : Nat) : Rtr := ⟨n / 2 ^ 18, n / 128 % 2048, n / 16 % 8, n % 16⟩

/-- Least rank among members that satisfy a condition. -/
def leastRank (ms : List Member) (p : Member → Bool) : Nat := (ms.filter p).foldl (fun n m => Nat.min n m.rank) 4096
/-- Whether some member satisfies a condition. -/
def hasMember (ms : List Member) (p : Member → Bool) : Bool := ms.any p
/-- Module of the root. -/
def rootMod (ms : List Member) (root : Nat) : Nat := match ms.find? fun m => m.rank = root with | some m => m.modid | none => 0

/-- The top router. -/
def topOf (ms : List Member) (root : Nat) : Rtr :=
  let m := rootMod ms root
  if ms.any fun x => x.modid ≠ m then ⟨3, m, 0, 0⟩
  else match ms with
    | [] => ⟨3, m, 0, 0⟩
    | x :: xs => if xs.any fun y => y.vdie ≠ x.vdie then ⟨3, m, 0, 0⟩ else ⟨2, m, x.vdie, 0⟩

/-- Members below a router. -/
def below_ (ms : List Member) (top r : Rtr) (m : Member) : Bool :=
  match r.level with
  | 1 => decide (m.modid = r.modid) && decide (m.vdie = r.vdie) && decide (m.core = r.core)
  | 2 => decide (m.modid = r.modid) && decide (m.vdie = r.vdie)
  | _ => decide (r = top) || (decide (m.modid = r.modid) && hasMember ms fun _ => true)

/-- Inserts by key. -/
def insKey (x : Nat × Rtr) : List (Nat × Rtr) → List (Nat × Rtr)
  | [] => [x]
  | y :: ys => if x.1 < y.1 then x :: y :: ys else y :: insKey x ys

/-- Children of a router in fold order: by the lowest rank in each child's subtree. -/
def childrenOf (ms : List Member) (root : Nat) (r : Rtr) : List Rtr :=
  let top := topOf ms root
  let cands : List Rtr := match r.level with
    | 2 => (List.range 16).map fun c => ⟨1, r.modid, r.vdie, c⟩
    | 3 => (List.range 8).map (fun v => ⟨2, r.modid, v, 0⟩) ++
        (if r = top then ((ms.map (·.modid)).eraseDups.filter (· ≠ r.modid)).map fun m => ⟨3, m, 0, 0⟩ else [])
    | _ => []
  ((cands.filter fun c => ms.any fun m => if c.level = 3 then m.modid = c.modid else below_ ms top c m).foldl (fun l c =>
    insKey (leastRank ms (fun m => if c.level = 3 then m.modid = c.modid else below_ ms top c m), c) l) []).map Prod.snd

/-- Children that a router folds: a leaf has the post of its core alone. -/
def childCount (ms : List Member) (root : Nat) (r : Rtr) : Nat := if r.level = 1 then 1 else (childrenOf ms root r).length

/-- The router above. -/
def parentOf (ms : List Member) (root : Nat) (r : Rtr) : Option Rtr :=
  let top := topOf ms root
  if r = top then none
  else match r.level with
    | 1 => some ⟨2, r.modid, r.vdie, 0⟩
    | 2 => some ⟨3, r.modid, 0, 0⟩
    | _ => some top

/-- Whether the root lies below a router. -/
def holdsRoot (ms : List Member) (root : Nat) (r : Rtr) : Bool :=
  let top := topOf ms root
  ms.any fun m => decide (m.rank = root) && (if r.level = 3 ∧ r ≠ top then decide (m.modid = r.modid) else below_ ms top r m)

/-! ### Combination (15 R277) -/

/-- Bytes of an element. -/
def fmtSize (f : Nat) : Nat := match f with | 1 | 2 => 2 | 4 => 8 | _ => 4
/-- Floating format of an element. -/
def fmtFloat (f : Nat) : Option FFmt := match f with | 0 => some .f32 | 1 => some .bf16 | 2 => some .f16 | _ => none

/-- One element. -/
def combineEl (op fmt a b : Nat) : Nat :=
  let n := 8 * fmtSize fmt
  match fmtFloat fmt with
  | some f => match op with
    | 0 => (fadd f .rne false a b).1
    | 1 => (fminmax f false true a b).1
    | _ => (fminmax f false false a b).1
  | none => match op with
    | 0 => (a + b) % 2 ^ n
    | 1 => if intVal true n a < intVal true n b then b else a
    | 2 => if intVal true n b < intVal true n a then b else a
    | 3 => a &&& b
    | 4 => a ||| b
    | _ => a ^^^ b

/-- Elements of a segment, with fuel. -/
def combineEls (op fmt : Nat) : Nat → List Byte → List Byte → List Byte
  | 0, _, _ => []
  | n + 1, a, b =>
    let k := fmtSize fmt
    toBytes k (combineEl op fmt (ofBytes (a.take k)) (ofBytes (b.take k))) ++ combineEls op fmt n (a.drop k) (b.drop k)

/-- Combination of two children; a broadcast keeps the root's bytes. -/
def combine (op fmt : Nat) (a b : List Byte) : List Byte :=
  if op = 6 then (if a.isEmpty then b else a) else combineEls op fmt (a.length / fmtSize fmt) a b

/-! ### Folding (15 R276, 24 R384) -/

/-- Folds the arrived children of a node in order, with fuel. -/
def foldKids (op fmt : Nat) : Nat → TNode → TNode
  | 0, n => n
  | k + 1, n =>
    match look n.kids n.folded with
    | none => n
    | some d => foldKids op fmt k
        { n with acc := if n.folded = 0 then d else combine op fmt n.acc d, folded := n.folded + 1, kids := del n.kids n.folded }

/-- Router of a node, and of a flit. -/
def TNode.rtr (n : TNode) : Rtr := ⟨n.level, n.modid, n.vdie, n.core⟩
def TFlit.rtr (f : TFlit) : Rtr := ⟨f.level, f.modid, f.vdie, f.core⟩
/-- A flit for a router. -/
def flitTo (r : Rtr) (seg : Nat) (child : Option Nat) (data : List Byte) : TFlit :=
  { seg := seg, level := r.level, modid := r.modid, vdie := r.vdie, core := r.core, child := child, data := data }

/-- Segment size. -/
def segSize (t : Tree) : Nat := 2 ^ t.segLog2

/-- Flits leave router `r` by the routers and links between it and theirs (01 R17, 18 R311). -/
def sendFlits (f i : Nat) (r : Rtr) (fs : List TFlit) (s : State) : State :=
  fs.foldl (fun s fl =>
    let me := s.hub.modid.toNat
    let m : Msg := { dst := 8, body := .tree f (handleOf i (s.tree f i)) { fl with from_ := me }, born := s.cycleG,
                     toMod := if fl.modid = me then none else some fl.modid }
    match r.level with
    | 1 => match s.vcorePhys f r.vdie r.core with
      | some k => sendFrom k m s
      | none => leaveDie (s.phys r.vdie) m s
    | 2 => leaveDie (s.phys r.vdie) m s
    | _ => leaveDie 8 m s) s

/-- A flit that stands at its router already. -/
def addFlit (f i : Nat) (fl : TFlit) (s : State) : State := s.modTree f i fun t => { t with flits := t.flits ++ [fl] }

/-- Flits that carry a result below a router. -/
def spread (t : Tree) (ms : List Member) (r : Rtr) (seg : Nat) (data : List Byte) (clk : Clock) : List TFlit :=
  ((childrenOf ms t.root r).filter fun c => decide (t.kind ≠ 1) || holdsRoot ms t.root c).map fun c =>
    { flitTo c seg none data with clk := clk }

/-- A complete fold goes up from its router, or down from the top. -/
def foldDone (f i : Nat) (n : TNode) (s : State) : State :=
  let t := s.tree f i
  let ms := membersAt t n.seg
  match parentOf ms t.root n.rtr with
  | some p =>
    let c := (childrenOf ms t.root p).findIdx fun x => x = n.rtr
    sendFlits f i n.rtr [{ flitTo p n.seg (some c) n.acc with clk := n.clk }] s
  | none => sendFlits f i n.rtr (spread t ms n.rtr n.seg n.acc n.clk) s

/-- A child reaches its router: the fold goes on as far as it can, and a complete one goes up, or down from the top. -/
def foldIn (f i : Nat) (r : Rtr) (seg c : Nat) (data : List Byte) (clk : Clock) (s : State) : State :=
  let t := s.tree f i
  let ms := membersAt t seg
  let mine (n : TNode) : Bool := decide (n.rtr = r) && decide (n.seg = seg)
  let old : TNode := (t.nodes.find? mine).getD
    { level := r.level, modid := r.modid, vdie := r.vdie, core := r.core, seg := seg, folded := 0, acc := [], kids := [] }
  let n := foldKids t.op t.fmt (childCount ms t.root r + 1) { old with kids := put old.kids c data, clk := clkMerge old.clk clk }
  let rest := t.nodes.filter fun n => !mine n
  if n.folded < childCount ms t.root r then s.modTree f i fun t => { t with nodes := rest ++ [n] }
  else foldDone f i n (s.modTree f i fun t => { t with nodes := rest })

/-! ### Events (15 R278) -/

/-- Segments that are at ALLDONE leave, edits below the new boundary take effect (TREE_EDIT_EFFECT), with fuel. -/
def passDone : Nat → Tree → Tree
  | 0, t => t
  | n + 1, t =>
    let ms := membersAt t t.seq
    if ms.all fun m => t.segs.any fun e => decide (e.code = m.code) && decide (e.seg = t.seq) && e.localdone then
      let k := t.seq + 1
      passDone n { t with
        seq := k, segs := t.segs.filter fun e => e.seg ≠ t.seq,
        doneClk := t.segs.foldl (fun c e => if e.seg = t.seq then clkMerge c e.clk else c) t.doneClk,
        members := membersAt t k, edits := t.edits.filter fun e => k < e.bound }
    else { t with members := membersAt t t.seq, edits := t.edits.filter fun e => t.seq < e.bound }

/-- Passes every finished segment. -/
def Tree.passAll (t : Tree) : Tree := passDone (t.segs.length + 1) t

/-- The same in an ACTIVE tree: an edit queued on a FROZEN or SAVED one applies after TRLOAD (24 R386). -/
def Tree.passNow (t : Tree) : Tree := if t.state = 0 then t.passAll else t

/-- Updates the event of a member for a segment, and restarts the stall timer. -/
def modEv (f i code seg : Nat) (g : SegEv → SegEv) (s : State) : State :=
  s.modTree f i fun t => Tree.passNow { t with
    segs := t.segs.map fun e => if e.code = code ∧ e.seg = seg then g e else e, stallAt := s.cycleG }

/-- LOCALDONE of a member of this module; modules with other members learn it. -/
def localDone (f i code seg : Nat) (s : State) : State :=
  let t := s.tree f i
  let others := ((membersAt t seg).map (·.modid)).eraseDups.filter (· ≠ s.hub.modid.toNat)
  let s := sendFlits f i ⟨1, code / 128, code / 16 % 8, code % 16⟩ (others.map fun m =>
    { seg := seg, level := 0, modid := m, vdie := code / 16 % 8, core := code % 16, child := some (code / 128), data := [] }) s
  modEv f i code seg (fun e => { e with localdone := true }) s

/-- Takes a post's fault at its context, when that still runs the posting task. -/
def chargePost (e : SegEv) (code detail : BitVec 8) (s : State) : State :=
  match e.cx with
  | some c => if s.alive c e.serial then trapAt c e.pc (slotBit e.slot) code detail 0 (s.nextPc c) s else s
  | none => s

/-- Posts of a segment by the members of this module take a fault. -/
def chargeSeg (f i seg : Nat) (code : BitVec 8) (s : State) : State :=
  ((s.tree f i).segs.filter fun e => e.seg = seg).foldl (fun s e => chargePost e code 0 s) s

/-- The bytes of a post reach its leaf router: SRCFREE, and LOCALDONE where R278 puts it with SRCFREE. The post's clock goes
with them. -/
def contribute (f i code seg : Nat) (data : List Byte) (s : State) : State :=
  let t := s.tree f i
  let isRoot := (membersAt t seg).any fun m => decide (m.code = code) && decide (m.rank = t.root)
  let clk := (s.vdie (code / 16 % 8)).clock
  let s := addFlit f i { flitTo ⟨1, code / 128, code / 16 % 8, code % 16⟩ seg (some 0) data with clk := clk } s
  let s := modEv f i code seg (fun e => { e with srcfree := true, clk := clk }) s
  if (t.kind = 1 ∧ !isRoot) ∨ (t.kind = 2 ∧ isRoot) then localDone f i code seg s else s

/-- Whether a held bank keeps a tree from `n` bytes of a scratchpad (12 R231). -/
def segHeld (s : State) (k n : Nat) : Bool := (List.range ((k + n - 1) / 256 + 1 - k / 256)).any fun j => bankHeld s (k + 256 * j)

/-- A post is processed at its leaf: the source is read, but for a broadcast's other members. While a bank of it is held, the
post stays there. -/
def readPost (f i : Nat) (p : Post) (s : State) : State :=
  let t := s.tree f i
  let isRoot := (membersAt t p.seg).any fun m => decide (m.code = p.code) && decide (m.rank = t.root)
  if t.kind = 2 ∧ !isRoot then contribute f i p.code p.seg [] s
  else match s.vcorePhys f (p.vcore / 16) (p.vcore % 16) with
    | none => s
    | some core =>
      let k := keyScratch core p.src
      if segHeld s k (segSize t) || t.held.any (fun q => q.code = p.code) then
        s.modTree f i fun t => { t with held := t.held ++ [p] }
      else if s.poisoned k (segSize t) then
        match t.segs.find? fun e => e.code = p.code ∧ e.seg = p.seg with
        | some e => chargePost e 0x10 1 s
        | none => s
      else contribute f i p.code p.seg (s.bytes k (segSize t)) (s.touch none k (segSize t) false)

/-- A tree becomes ACTIVE: its timer starts, edits whose boundary has come apply, and its held posts are processed in order (24
R382, R386). -/
def thawTree (f i : Nat) (s : State) : State :=
  let held := (s.tree f i).held
  let s := s.modTree f i fun t => Tree.passAll { t with
    state := 0, byStall := false, byHalt := false, held := [], stallAt := s.cycleG }
  held.foldl (fun s p => readPost f i p s) s

/-- The leaf routers process the first post that banks had held and no longer hold. -/
def postStep (f i : Nat) (s : State) : State :=
  let t := s.tree f i
  let free (p : Post) : Bool := match s.vcorePhys f (p.vcore / 16) (p.vcore % 16) with
    | some core => !segHeld s (keyScratch core p.src) (segSize t)
    | none => true
  if !t.valid || decide (t.state ≠ 0) then s
  else match t.held.find? fun p => free p && decide (t.held.find? (fun q => q.code = p.code) = some p) with
    | none => s
    | some p =>
      let rest := t.held.erase p
      let mine := rest.filter fun q => q.code = p.code
      let s := readPost f i p (s.modTree f i fun t => { t with held := rest.filter fun q => q.code ≠ p.code })
      s.modTree f i fun t => { t with held := t.held ++ mine }

/-- A core may not post now: its four segments without LOCALDONE are used up (15 R278), or an edit is fixing its boundary. -/
def postsFull (t : Tree) (code : Nat) : Bool :=
  t.hold || decide ((t.segs.filter fun e => e.code = code ∧ !e.localdone).length ≥ 4)

/-- The next segment of a core. -/
def nextSeg (t : Tree) (code : Nat) : Nat := rd 0 t.posts code

/-- Registers a post: the core's count rises, its events open. -/
def openPost (f i code : Nat) (ev : SegEv) (s : State) : State :=
  s.modTree f i fun t => { t with
    posts := wr 0 t.posts code (ev.seg + 1),
    segs := t.segs ++ [{ ev with srcfree := decide (t.kind = 2) &&
      !((membersAt t ev.seg).any fun m => decide (m.code = code) && decide (m.rank = t.root)) }] }

/-- Tells other modules of a tree: from a core, by the routers and the hub link of its die (01 R17), or from the hub. -/
def tellMods (core : Option Nat) (f : Nat) (h : BitVec 32) (c : TreeCmd) (ms : List Nat) (s : State) : State :=
  ms.foldl (fun s m => match core with
    | some k => sendFrom k (treeMsg f h c m s) s
    | none => acceptMsg (treeMsg f h c m s) s) s

/-- The executing core tells them. -/
def sayMods (f : Nat) (h : BitVec 32) (c : TreeCmd) (ms : List Nat) (s : State) : State := tellMods (some (coreOf s.cur)) f h c ms s

/-- A POST OF A CORE FROM LOCAL. A tree that its timer froze thaws; while it is frozen by order or saved the post is held. -/
def postLocal (f i vcore src : Nat) (ev : SegEv) (s : State) : State :=
  let p : Post := { code := ev.code, vcore := vcore, seg := ev.seg, src := src }
  let s := openPost f i ev.code ev s
  let t := s.tree f i
  if t.state = 0 then readPost f i p s
  else if t.state = 1 ∧ t.byStall then
    readPost f i p (thawTree f i (tellMods (s.vcorePhys f (vcore / 16) (vcore % 16)) f (handleOf i t) .thaw (otherMods s t) s))
  else s.modTree f i fun t => { t with held := t.held ++ [p] }

/-! ### Tree forms (15 R280 to R282) -/

/-- Handle operand of a tree form: a bad one takes trap 0x0B. -/
def withTree (h : Word) (k : Nat → Tree → State → Out) (s : State) : Out :=
  notElided s fun s =>
    match treeOf s s.myFn h with
    | none => .next (trap 0x0B 0 0 s)
    | some (i, t) => k i t s

/-- Code of the issuing core. -/
def myCode (s : State) : Nat := mcode s.hub.modid.toNat s.myVdie s.myCore

/-- A fresh event record of the issuing slot. -/
def newEv (s : State) (code seg : Nat) (res : Option Nat) : SegEv :=
  { code := code, seg := seg, res := res, srcfree := false, localdone := false, cx := some s.cur, serial := s.me.serial,
    pc := s.me.iss.pc, slot := s.me.iss.slot }

/-- TRPOST: the post is a node of the task graph (14 R249). -/
def execTrpost (seg a : BitVec 6) (s : State) : Out :=
  notElided s fun s =>
    let x := rA s seg.toNat
    let h := rS s a
    if x.toNat % 256 ≠ 0 then .next (trap 0x05 0 x s)
    else match window x with
    | some (.local_, off) => withTree h (fun i t s =>
        let code := myCode s
        let k := nextSeg t code
        if off + 2 * segSize t > 2 ^ 23 then .next (trap 0x06 0 x s)
        else if !(membersAt t k).any (fun m => m.code = code) then .next (trap 0x0B 0 0 s)
        else if postsFull t code || s.nodesFull s.myVdie s.myFn || !s.quiet then waitFor (.trpost seg a) s
        else
          let v := s.myVdie
          let (id, s) := giveId v s
          let n : Node :=
            { id := id, fn := s.myFn, kind := .treeOp, words := [h, BitVec.ofNat 64 k], held := false, preds := [],
              started := true, cx := some s.cur, serial := s.me.serial, pc := s.me.iss.pc, slot := s.me.iss.slot,
              vcore := 16 * v + s.myCore }
          .next (postLocal s.myFn i (16 * v + s.myCore) off (newEv s code k (some (off + segSize t))) (acceptNode v n false s))) s
    | _ => .next (trap 0x06 0 x s)

/-- TRWAIT: an event of the latest segment that this core posted. -/
def execTrwait (a : BitVec 6) (ev : TrEv) (s : State) : Out :=
  withTree (rS s a) (fun _ t s =>
    let code := myCode s
    let k := nextSeg t code
    if k = 0 then .next s
    else if k - 1 < t.seq then
      if ev ≠ .alldone then .next s
      else if s.covers s.myVdie t.doneClk then .next (mergeClock s.myVdie t.doneClk s)
      else waitFor (.trwait a ev) s
    else match t.segs.find? fun e => e.code = code ∧ e.seg = k - 1 with
      | none => .next s
      | some e =>
        let ok := match ev with | .srcfree => e.srcfree | .localdone => e.localdone | .alldone => false
        if ok then .next s else waitFor (.trwait a ev) s) s

/-! ### The modules of a tree (15 R274, R279, R280) -/

/-- Whether the executing context is the one that asks the other modules of a tree. -/
def asking (s : State) (t : Tree) : Bool := match t.ask with | some q => decide (q.cx = some s.cur) | none => false

/-- A form that needs the answers of the tree's other modules: it asks them once and waits, and goes on with what came. One
form of a tree does so at a time; the answers to one whose context is gone are waited for. -/
def askMods (i : Instr) (idx : Nat) (t : Tree) (c : TreeCmd) (k : TreeAsk → State → Out) (s : State) : Out :=
  let ms := otherMods s t
  let start : Out :=
    if ms.isEmpty then k { owed := [] } s
    else waitFor i ((sayMods s.myFn (handleOf idx t) c ms s).modTree s.myFn idx fun t =>
      { t with ask := some { cx := some s.cur, owed := ms } })
  match t.ask with
  | none => start
  | some q =>
    if q.cx = some s.cur then
      if q.owed.isEmpty then k q (s.modTree s.myFn idx fun t => { t with ask := none }) else waitFor i s
    else if q.cx = none ∧ q.owed.isEmpty then start
    else waitFor i s

/-- The context of a form that asks the other modules of a tree is gone: they go on (15 R280, R282). -/
def leaveAsks (i f : Nat) (s : State) : State :=
  ((s.fn f).trees.filter fun t => match t.2.ask with | some q => decide (q.cx = some i) | none => false).foldl (fun s t =>
    (tellMods none f (handleOf t.1 t.2) .drop (otherMods s t.2) s).modTree f t.1 fun t =>
      { t with ask := t.ask.map fun q => { q with cx := none } }) s

/-- Every slot of a tree freezes by order. In the hub cycle in which its timer has frozen it the order stands (24 R381). -/
def freezeTree (f i : Nat) (s : State) : State := s.modTree f i fun t => t.ordered false s.cycleG

/-- Every slot of a tree freezes by its stall timer, which stands still (24 R381). -/
def stallTree (f i : Nat) (s : State) : State :=
  s.modTree f i fun t => if t.state = 0 then { t with state := 1, byStall := true, stallAt := s.cycleG } else t

/-- A tree ends: posts whose segment has not reached ALLDONE take trap 0x0B. -/
def endTree (f i : Nat) (s : State) : State :=
  let t := s.tree f i
  t.segs.foldl (fun s e => chargePost e 0x0B 0 s) (s.modTree f i fun t => { gen := t.gen })

/-- TRFRZ: every slot freezes; on a FROZEN or SAVED tree it has no effect, but over a stall of its own hub cycle. -/
def execTrfrz (a : BitVec 6) (s : State) : Out :=
  withTree (rS s a) (fun i t s =>
    if t.state = 0 ∨ asking s t then askMods (.trfrz a) i t (.freeze false) (fun _ s => .next (freezeTree s.myFn i s)) s
    else .next (freezeTree s.myFn i s)) s

/-- TRFREE: it waits for the other modules, and ends the tree. -/
def execTrfree (a : BitVec 6) (s : State) : Out :=
  withTree (rS s a) (fun i t s => askMods (.trfree a) i t .free (fun _ s => .next (endTree s.myFn i s)) s) s

/-- The state word of R281. -/
def treeWord (t : Tree) : Word :=
  BitVec.ofNat 64 (t.seq % 2 ^ 32 * 2 ^ 32 + t.members.length * 2 ^ 16 + t.edits.length * 2 ^ 12 + t.state)

/-- TRQ. -/
def execTrq (d a : BitVec 6) (s : State) : Out :=
  notElided s fun s =>
    let h := rS s a
    let t := s.tree s.myFn (hIdx h)
    if h.toNat < 2 ^ 32 ∧ h.extractLsb' 30 2 ≠ 0 ∧ t.valid ∧ (h.extractLsb' 0 16).toNat = t.gen then .next (wS s d (treeWord t))
    else .next (wS s d 3)

/-! ### TRMK (15 R274, R275) -/

/-- Whether a list of numbers holds none twice. -/
def distinct : List Nat → Bool
  | [] => true
  | x :: xs => !xs.contains x && distinct xs

/-- Checks of a descriptor, before anything that it names is read (00 R9). -/
def descOk (ws : List Word) : Bool :=
  let w := ws.getD 0 0
  let kind := (w.extractLsb' 62 2).toNat
  let op := (w.extractLsb' 59 3).toNat
  let fmt := (w.extractLsb' 56 3).toNat
  let sl := (w.extractLsb' 51 5).toNat
  let n := (w.extractLsb' 32 16).toNat
  decide (w.extractLsb' 48 3 = 0) && decide (w.extractLsb' 0 16 = 0) && decide ((ws.getD 2 0).extractLsb' 32 32 = 0)
  && decide (kind ≠ 0) && decide (op ≠ 7) && decide (fmt ≤ 4) && decide (8 ≤ sl) && decide (sl ≤ 16)
  && decide (1 ≤ n) && decide (n ≤ 4096) && decide ((w.extractLsb' 16 16).toNat < n)
  && decide ((op = 6) = (kind = 2)) && !(decide (3 ≤ op) && decide (op ≤ 5) && decide (fmt ≤ 2))

/-- Checks of a descriptor and its member entries. -/
def treeOk (s : State) (f : Nat) (ws es : List Word) : Bool :=
  let n := ((ws.getD 0 0).extractLsb' 32 16).toNat
  let ms := es.map memberOf
  descOk ws && es.all memberOk && distinct (ms.map (·.rank)) && ms.all (fun m => decide (m.rank < n)) && distinct (ms.map (·.code))
  && ms.all (fun m => decide (m.modid ≠ s.hub.modid.toNat) || (s.vcorePhys f m.vdie m.core).isSome)

/-- Lowest free index of a tree table. -/
def freeTree (f : Fn) : Nat → Nat → Option Nat
  | 0, _ => none
  | n + 1, i => if (rd {} f.trees i).valid then freeTree f n (i + 1) else some i

/-- TRMK. -/
def execTrmk (d aa : BitVec 6) (s : State) : Out :=
  notElided s fun s => privileged s fun s =>
    let a := rA s aa.toNat
    recordForm (.trmk d aa) a 8 32 (fun ws s =>
      let n := ((ws.getD 0 0).extractLsb' 32 16).toNat
      if !descOk ws then .next (wS s d 0) else recordForm (.trmk d aa) (ws.getD 1 0) 8 (8 * n) (fun es s =>
        let f := s.myFn
        if !treeOk s f ws es then .next (wS s d 0)
        else match freeTree (s.fn f) 16384 0 with
          | none => .next (wS s d 0)
          | some i =>
            let w := ws.getD 0 0
            let t : Tree :=
              { valid := true, kind := (w.extractLsb' 62 2).toNat, op := (w.extractLsb' 59 3).toNat,
                fmt := (w.extractLsb' 56 3).toNat, segLog2 := (w.extractLsb' 51 5).toNat,
                root := (w.extractLsb' 16 16).toNat, gen := ((s.tree f i).gen + 1) % 2 ^ 16,
                stall := ((ws.getD 2 0).extractLsb' 0 32).toNat, spill := ws.getD 3 0, members := es.map memberOf,
                stallAt := s.cycleG }
            .next (wS (s.modTree f i fun _ => t) d ((handleOf i t).setWidth 64))) s) s

/-! ### TREDIT (15 R282, 24 R386) -/

/-- Largest count of posts over the members, and the boundary queued last. -/
def boundOf (t : Tree) : Nat :=
  Nat.max ((t.members ++ t.edits.map fun e => memberOf e.word1).foldl (fun n m => Nat.max n (rd 0 t.posts m.code)) 0)
    (t.edits.foldl (fun n e => Nat.max n e.bound) 0)

/-- Whether an edit fits the newest membership. -/
def editOk (t : Tree) (w0 w1 : Word) : Bool :=
  let ms := t.edits.foldl applyEdit t.members
  let m := memberOf w1
  decide (w0.extractLsb' 0 62 = 0) && memberOk w1 &&
  match (w0.extractLsb' 62 2).toNat with
  | 0 => !(ms.any fun x => decide (x.code = m.code) || decide (x.rank = m.rank)) && decide (ms.length < 4096)
  | 1 => ms.any (fun x => decide (x = m)) && decide (m.rank ≠ t.root)
  | _ => false

/-- Queues an edit; an added member's first post is for its boundary. -/
def queueEdit (w0 w1 : Word) (b : Nat) (t : Tree) : Tree :=
  { t with edits := t.edits ++ [⟨w0, w1, b⟩],
           posts := if w0.extractLsb' 62 2 = 0 then wr 0 t.posts (memberOf w1).code b else t.posts }

/-- TREDIT. -/
def execTredit (seg a : BitVec 6) (s : State) : Out :=
  let x := rA s seg.toNat
  let h := rS s a
  recordForm (.tredit seg a) x 8 16 (fun ws s => withTree h (fun i t s =>
    if !editOk t (ws.getD 0 0) (ws.getD 1 0) then .next (trap 0x0B 0 0 s)
    else if t.edits.length ≥ 8 then waitFor (.tredit seg a) s
    else askMods (.tredit seg a) i t .count (fun q s =>
      let t := s.tree s.myFn i
      let e : Edit := ⟨ws.getD 0 0, ws.getD 1 0, Nat.max (boundOf t) q.count⟩
      .next (sayMods s.myFn (handleOf i t) (.edit e) (otherMods s t)
        (s.modTree s.myFn i fun t => Tree.passNow (queueEdit e.word0 e.word1 e.bound t)))) s) s) s

/-! ### The save block (24 R383 to R385) -/

/-- Word 0 of the table entry with a state. -/
def entry0 (t : Tree) (state : Nat) : Word :=
  BitVec.ofNat 64 (2 ^ 63 + state * 2 ^ 61 + t.kind * 2 ^ 59 + t.op * 2 ^ 56 + t.fmt * 2 ^ 53 + t.segLog2 * 2 ^ 48
    + t.members.length * 2 ^ 32 + t.root * 2 ^ 16 + t.gen)

/-- One node record. -/
def recBytes (t : Tree) (b : BRec) : List Byte :=
  let r := b.r
  let vd := if r.level = 3 then 0 else r.vdie
  let co := if r.level = 1 then r.core else 0
  toBytes 8 (b.typ * 2 ^ 62 + r.level * 2 ^ 60 + r.modid * 2 ^ 49 + vd * 2 ^ 46 + co * 2 ^ 42)
    ++ toBytes 8 (b.seg * 2 ^ 32 + b.cidx * 2 ^ 16 + b.rank) ++ toBytes 8 b.src ++ List.replicate 40 (0 : Byte)
    ++ if b.typ ≤ 1 then b.data ++ List.replicate (segSize t - b.data.length) (0 : Byte) else []

/-- Records of a node: its prefix, then its waiting children. -/
def nodeRecs (n : TNode) : List BRec :=
  (if n.folded = 0 then [] else [⟨0, n.rtr, n.seg, n.folded, 0, 0, n.acc⟩]) ++ n.kids.map fun k => ⟨1, n.rtr, n.seg, k.1, 0, 0, k.2⟩

/-- Record of a flit that waits: a leaf's prefix, a result held for delivery, a child that has come ahead of a lower one, or, when
it is the next to be folded, the whole fold of its child (24 R384, 25 R392). -/
def flitRec (t : Tree) (f : TFlit) : BRec :=
  match f.child with
  | none => ⟨0, f.rtr, f.seg, 0xFFFF, 0, 0, f.data⟩
  | some c =>
    let ms := membersAt t f.seg
    let next := match t.nodes.find? fun n => n.rtr = f.rtr ∧ n.seg = f.seg with | some n => n.folded | none => 0
    if f.level = 1 then ⟨0, f.rtr, f.seg, 1, 0, 0, f.data⟩
    else if c > next then ⟨1, f.rtr, f.seg, c, 0, 0, f.data⟩
    else
      let r := (childrenOf ms t.root f.rtr).getD c f.rtr
      ⟨0, r, f.seg, childCount ms t.root r, 0, 0, f.data⟩

/-- The block of a tree with given records. -/
def blockBytes (i : Nat) (t : Tree) (fz : Bool) (state : Nat) (rs : List BRec) : List Byte :=
  let recs := rs.map (recBytes t)
  let all := t.members ++ t.edits.map fun e => memberOf e.word1
  toBytes 8 (2 ^ 56 + (if fz then 2 ^ 55 else 0) + (handleOf i t).toNat) ++ toBytes 8 (entry0 t state).toNat
    ++ toBytes 8 (t.seq % 2 ^ 32 * 2 ^ 32 + recs.length) ++ toBytes 8 (t.edits.length * 2 ^ 60)
    ++ List.replicate (0x100 - 0x20) (0 : Byte)
    ++ (t.edits.flatMap fun e => toBytes 8 e.word0.toNat ++ toBytes 8 e.word1.toNat ++ toBytes 8 (e.bound * 2 ^ 32) ++ toBytes 8 0)
    ++ List.replicate (0x1000 - 0x100 - 32 * t.edits.length) (0 : Byte)
    ++ ((List.range 4096).flatMap fun r => toBytes 4 (match all.find? fun m => m.rank = r with
        | some m => rd 0 t.posts m.code
        | none => 0))
    ++ recs.flatten

/-- Writes a block for function `f` from a core of virtual die `v`. -/
def writeBlock (f v core : Nat) (a : Word) (bs : List Byte) (s : State) : Except (BitVec 8) State := do
  let ks ← s.agentKeys f v core a .write bs.length
  .ok (writeKeys v ks bs s)

/-- Address of a save block in DEVICE, aligned to 4 KiB. -/
def blockAddr (a : Word) (k : State → Out) (s : State) : Out :=
  if a.toNat % 4096 ≠ 0 then .next (trap 0x05 0 a s)
  else if !inWindow .device a.toNat then .next (trap 0x06 0 a s)
  else k s

/-- Reads `n` records from an address; `sz` is the segment size. -/
def readRecs (rd_ : Word → Nat → Except (BitVec 8) (List Byte)) (sz : Nat) : Nat → Word → Except (BitVec 8) (List (BRec × Bool))
  | 0, _ => .ok []
  | n + 1, a => do
    let h ← rd_ a 64
    let ws := wordsOf 8 h
    let w0 := ws.getD 0 0
    let w1 := ws.getD 1 0
    let w2 := ws.getD 2 0
    let typ := (w0.extractLsb' 62 2).toNat
    let lev := (w0.extractLsb' 60 2).toNat
    let d ← if typ ≤ 1 then rd_ (a + 64) sz else .ok []
    let r : BRec :=
      { typ := typ, r := ⟨lev, (w0.extractLsb' 49 11).toNat, (w0.extractLsb' 46 3).toNat, (w0.extractLsb' 42 4).toNat⟩,
        seg := (w1.extractLsb' 32 32).toNat, cidx := (w1.extractLsb' 16 16).toNat, rank := (w1.extractLsb' 0 16).toNat,
        src := (w2.extractLsb' 0 23).toNat, data := d }
    let ok := decide (w0.extractLsb' 0 42 = 0) && decide (w2.extractLsb' 23 41 = 0) && (ws.drop 3).all (· = 0)
      && decide (typ ≠ 3) && decide (lev ≠ 0) && (decide (lev ≠ 3) || decide (r.r.vdie = 0)) && (decide (lev = 1) || decide (r.r.core = 0))
      && (if typ = 2 then decide (r.cidx = 0) else decide (r.rank = 0) && decide (r.src = 0))
    let rs ← readRecs rd_ sz n (a + BitVec.ofNat 64 (64 + if typ ≤ 1 then sz else 0))
    .ok ((r, ok) :: rs)

/-- Records of the spill block of a tree. Firmware wrote it: what its reserved fields hold is not looked at, since 15 R279 and 24 R383
name no error there. DESIGN CHOICE, log 41. -/
def spillRecs (f : Nat) (t : Tree) (s : State) : Except (BitVec 8) (List BRec) :=
  if t.spilled.isEmpty then .ok []
  else do
    let rd_ (a : Word) (n : Nat) := s.agentRead f 0 0 a n
    let n ← rd_ (t.spill + 16) 4
    let rs ← readRecs rd_ (segSize t) (ofBytes n) (t.spill + 0x5000)
    .ok (rs.map Prod.fst)

/-- Records of a frozen tree in this module: partials in slots and in the spill block, waiting flits, held posts. -/
def saveRecs (f i : Nat) (s : State) : Except (BitVec 8) (List BRec) := do
  let t := s.tree f i
  let sp ← spillRecs f t s
  .ok (t.nodes.flatMap nodeRecs ++ sp ++ ((t.flits.filter fun fl => fl.level ≠ 0).map (flitRec t)) ++
    t.held.map fun p => ⟨2, ⟨1, p.code / 128, p.code / 16 % 8, p.code % 16⟩, p.seg, 0,
      (match (membersAt t p.seg).find? fun m => m.code = p.code with | some m => m.rank | none => 0), p.src, []⟩)

/-- Whether a flit of a tree is on its way between routers of this module: a save waits for it (24 R384). -/
def flitsRide (s : State) (f i : Nat) : Bool :=
  let mine (m : Msg) : Bool := match m.body with
    | .tree g h fl => decide (g = f) && decide (h = handleOf i (s.tree f i)) && decide (fl.level ≠ 0)
    | _ => false
  s.pdies.any (fun p => p.2.rides.any fun r => mine r.msg) ||
    s.links.any fun l => l.2.sendQ.any mine || l.2.buf.any fun x => mine x.2 && decide ((x.1 - l.2.rxExp).toNat < 512)

/-- The slots of a tree whose block has been written are released. -/
def releaseTree (f i : Nat) (s : State) : State :=
  s.modTree f i fun t => { t with
    state := 2, byHalt := false, slots := [], nodes := [], spilled := [], held := [], flits := t.flits.filter fun fl => fl.level = 0 }

/-- TRSAVE. -/
def execTrsave (seg a : BitVec 6) (s : State) : Out :=
  let x := rA s seg.toNat
  let h := rS s a
  notElided s fun s => blockAddr x (fun s => withTree h (fun i t s =>
    if t.state ≠ 1 then .next (trap 0x0B 0 0 s)
    else if !s.quiet || !s.mayStore s.myVdie || !s.linkedTo (dieOf s.cur) s.myFn s.myVdie (coreOf s.cur) x .write 0x5000 ||
        flitsRide s s.myFn i then waitFor (.trsave seg a) s
    else
      let f := s.myFn
      let s := s.modTree f i fun t => { t with byStall := false }
      askMods (.trsave seg a) i t .save (fun q s =>
        let t : Tree := { t with posts := q.posts.foldl (fun (m : PMap Nat) e => put m e.1 e.2) t.posts }
        let v := s.myVdie
        let core := coreOf s.cur
        let fault (c : BitVec 8) (x : Word) : Out := .next (trap c (walkDetail c) x s)
        let emptied : Except (BitVec 8) (List Nat) :=
          if t.spilled.isEmpty then .ok [] else s.agentKeys f v core (t.spill + 16) .write 4
        match saveRecs f i s, emptied with
        | .error c, _ => fault c t.spill
        | _, .error c => fault c (t.spill + 16)
        | .ok recs, .ok ks =>
          match writeBlock f v core x (blockBytes i t false 2 (recs ++ q.recs)) s with
          | .error c => fault c x
          | .ok s =>
            let s := if ks.isEmpty then s else writeKeys v ks (toBytes 4 0) s
            .next (releaseTree f i (sayMods f (handleOf i t) .saved (otherMods s t) s))) s) s) s

/-- Whether a record names a router of the logical tree of its segment. -/
def recFits (t : Tree) (r : BRec) : Bool :=
  let ms := membersAt t r.seg
  let top := topOf ms t.root
  (match r.r.level with
  | 1 | 2 => ms.any (below_ ms top r.r)
  | _ => decide (r.r = top) || (decide (top.level = 3) && ms.any fun m => m.modid = r.r.modid)) &&
  (match r.typ with
  | 0 => decide (r.cidx = 0xFFFF) || (decide (1 ≤ r.cidx) && decide (r.cidx ≤ childCount ms t.root r.r))
  | 1 => decide (r.cidx < childCount ms t.root r.r)
  | _ => ms.any fun m => decide (m.rank = r.rank) && decide (m.code = mcode r.r.modid r.r.vdie r.r.core))

/-- Data of a record: the parts of a broadcast that do not come from the root are empty. -/
def recData (t : Tree) (r : BRec) : List Byte :=
  if t.op ≠ 6 ∨ r.cidx = 0xFFFF then r.data
  else
    let ms := membersAt t r.seg
    let cs := childrenOf ms t.root r.r
    let has := if r.r.level = 1 then holdsRoot ms t.root r.r
      else if r.typ = 0 then (cs.take r.cidx).any (holdsRoot ms t.root) else (cs.drop r.cidx).head?.any (holdsRoot ms t.root)
    if has then r.data else []

/-- Installs a record: a partial, a waiting child, or a result on its way down. -/
def install (f i : Nat) (r : BRec) (s : State) : State :=
  let t := s.tree f i
  let d := recData t r
  if r.typ = 0 ∧ r.cidx = 0xFFFF then addFlit f i (flitTo r.r r.seg none d) s
  else if r.typ = 0 ∧ r.r.level = 1 then addFlit f i (flitTo r.r r.seg (some 0) d) s
  else
    let mine (n : TNode) : Bool := decide (n.rtr = r.r) && decide (n.seg = r.seg)
    let old : TNode := (t.nodes.find? mine).getD
      { level := r.r.level, modid := r.r.modid, vdie := r.r.vdie, core := r.r.core, seg := r.seg, folded := 0, acc := [], kids := [] }
    let n := if r.typ = 0 then { old with folded := r.cidx, acc := d } else { old with kids := put old.kids r.cidx d }
    s.modTree f i fun t => { t with nodes := t.nodes.filter (fun n => !mine n) ++ [n] }

/-- Nodes that are complete, or whose next child waits, go on after a load. -/
def resumeNodes (f i : Nat) (s : State) : State :=
  let t := s.tree f i
  t.nodes.foldl (fun s n =>
    let ms := membersAt t n.seg
    let rest (s : State) : State := s.modTree f i fun t => { t with nodes := t.nodes.filter fun m => !(decide (m.rtr = n.rtr) && decide (m.seg = n.seg)) }
    match look n.kids n.folded with
    | some d => foldIn f i n.rtr n.seg n.folded d n.clk s
    | none => if n.folded ≥ childCount ms t.root n.rtr then foldDone f i n (rest s) else s) s

/-- Counts of posts by member code, from the words of a block. -/
def blockPosts (t : Tree) (hd : List Byte) : PMap Nat :=
  (t.members ++ t.edits.map fun e => memberOf e.word1).foldl (fun p m =>
    wr 0 p m.code (ofBytes ((hd.drop (0x1000 + 4 * m.rank)).take 4))) []

/-- A saved tree is rebuilt in this module from its records: partials first, then the posts that were held, and behind them what
has been posted and queued since the save (24 R385, R386). -/
def loadTree (f i seq : Nat) (edits : List Edit) (posts : PMap Nat) (recs : List BRec) (s : State) : State :=
  let since := (s.tree f i).held
  let s := s.modTree f i fun t => { t with
    edits := edits ++ t.edits.filter (!edits.contains ·), seq := seq, held := [], state := 0, stallAt := s.cycleG
    posts := since.foldl (fun m p => wr 0 m p.code (Nat.max (rd 0 m p.code) (p.seg + 1))) posts }
  let s := resumeNodes f i ((recs.filter fun r => r.typ ≠ 2).foldl (fun s r => install f i r s) s)
  let s := (recs.filter fun r => r.typ = 2).foldl (fun s r =>
    let c := mcode r.r.modid r.r.vdie r.r.core
    let s := modEv f i c r.seg (fun e => { e with res := some (r.src + segSize (s.tree f i)) }) s
    readPost f i { code := c, vcore := c % 128, seg := r.seg, src := r.src } s) s
  thawTree f i (s.modTree f i fun t => { t with held := t.held ++ since })

/-- Routers of this module whose slots the records of a block need: those of partial folds and of waiting children (24 R385). -/
def slotRtrs (mods : Nat) (recs : List BRec) : List Rtr :=
  ((recs.filter fun r => decide (r.r.modid = mods) &&
    (decide (r.typ = 1) || (decide (r.typ = 0) && decide (r.cidx ≠ 0xFFFF) && decide (r.r.level ≠ 1)))).map (·.r)).eraseDups

/-- Slots of a router (01 R12, R14, R15). -/
def slotCap (level : Nat) : Nat := match level with | 1 => 32 | 2 => 128 | _ => 512

/-- Evicts a tree's slot at a router: partials of a frozen tree go to its spill block; a write that faults leaves it, and
firmware writes when the homes may apply what it writes. -/
def evict (f i : Nat) (r : Rtr) (s : State) : Option State :=
  let t := s.tree f i
  let here (n : TNode) : Bool := decide (n.rtr = r)
  let drop (s : State) : State := s.modTree f i fun t => { t with slots := t.slots.filter (· ≠ r.code) }
  if !t.nodes.any here then some (drop s)
  else if t.state ≠ 1 ∨ !s.settled 0 ∨ !s.mayStore 0 ∨ !s.linkedTo 8 f 0 0 t.spill .write 0x5000 then none
  else match spillRecs f t s with
    | .error _ => none
    | .ok rs => match writeBlock f 0 0 t.spill (blockBytes i t t.byStall 2 (rs ++ (t.nodes.filter here).flatMap nodeRecs)) s with
      | .error _ => none
      | .ok s => some (drop (s.modTree f i fun t => { t with
          spilled := if t.spilled.contains r.code then t.spilled else t.spilled ++ [r.code]
          nodes := t.nodes.filter fun n => !here n }))

/-- The physical router behind a router of a tree of function `f`: a core, a die, or the package router. -/
def rtrPhys (s : State) (f : Nat) (r : Rtr) : Nat × Nat :=
  match r.level with
  | 1 => (1, (s.vcorePhys f r.vdie r.core).getD (16 * s.phys r.vdie + r.core))
  | 2 => (2, s.phys r.vdie)
  | _ => (3, 0)

/-- Slots at the physical router of `r`: function, tree and the router of it that the slot stands for. -/
def slotsAt (s : State) (f : Nat) (r : Rtr) : List (Nat × Nat × Rtr) :=
  s.fns.flatMap fun g => g.2.trees.flatMap fun t =>
    ((t.2.slots.map rtrOf).filter fun q => rtrPhys s g.1 q = rtrPhys s f r).map fun q => (g.1, t.1, q)

/-- The first slot of a physical router that can be evicted. -/
def evictOne (f : Nat) (r : Rtr) (s : State) : Option State := (slotsAt s f r).findSome? fun x => evict x.1 x.2.1 x.2.2 s

/-- A tree takes a slot at each of some routers, where it has none, or none at all when one of them has no slot to give (24 R385,
15 R279). -/
def takeSlots (f i : Nat) : List Rtr → State → Option State
  | [], s => some s
  | r :: rs, s =>
    if (s.tree f i).slots.contains r.code then takeSlots f i rs s
    else match (if (slotsAt s f r).length < slotCap r.level then some s else evictOne f r s) with
      | none => none
      | some s => takeSlots f i rs (s.modTree f i fun t => { t with slots := t.slots ++ [r.code] })

/-- TRLOAD. -/
def execTrload (seg a : BitVec 6) (s : State) : Out :=
  let x := rA s seg.toNat
  let h := rS s a
  withTree h (fun i t s =>
    let f := s.myFn
    match t.state with
    | 0 => .next s
    | 1 => .next (thawTree f i (sayMods f (handleOf i t) .thaw (otherMods s t) s))
    | _ => blockAddr x (fun s =>
      if !s.quiet || !s.linkedTo (dieOf s.cur) f s.myVdie (coreOf s.cur) x .read 0x5000 then waitFor (.trload seg a) s
      else
        let rd_ (a : Word) (n : Nat) := s.agentRead f s.myVdie (coreOf s.cur) a n
        match rd_ x 0x5000 with
        | .error c => .next (trap c (if c = 0x10 then 3 else 0) x s)
        | .ok hd =>
          let ws := wordsOf (0x1000 / 8) hd
          let w0 := ws.getD 0 0
          let w1 := ws.getD 1 0
          let w2 := ws.getD 2 0
          let w3 := ws.getD 3 0
          let ne := (w3.extractLsb' 60 4).toNat
          let edits : List Edit := (List.range ne).map fun e =>
            let b := ((ws.getD (34 + 4 * e) 0).extractLsb' 32 32).toNat
            ⟨ws.getD (32 + 4 * e) 0, ws.getD (33 + 4 * e) 0, if b = 0xFFFFFFFF then boundOf t else b⟩
          let zeros := (List.range 512).all fun k =>
            decide (k < 4) || (decide (32 ≤ k) && decide (k < 32 + 4 * ne) && decide (k % 4 = 0) &&
                decide ((ws.getD k 0).extractLsb' 0 62 = 0) && decide ((ws.getD k 0).extractLsb' 62 2 ≤ 1#2)) ||
            (decide (32 ≤ k) && decide (k < 32 + 4 * ne) && decide (k % 4 = 1) && memberOk (ws.getD k 0)) ||
            (decide (32 ≤ k) && decide (k < 32 + 4 * ne) && decide (k % 4 = 2) && decide ((ws.getD k 0).extractLsb' 0 32 = 0)) ||
            decide (ws.getD k 0 = 0)
          let st : Word := 0x6000000000000000
          if w0.extractLsb' 56 8 ≠ 1 ∨ w0.extractLsb' 32 24 ≠ 0 ∨ w0.extractLsb' 0 32 ≠ handleOf i t ∨
              w1 &&& ~~~ st ≠ entry0 t 2 &&& ~~~ st ∨ w3.extractLsb' 0 60 ≠ 0 ∨ ne > 8 ∨ !zeros then
            .next (trap 0x0B 0 0 s)
          else
            match readRecs rd_ (segSize t) (w2.extractLsb' 0 32).toNat (x + 0x5000) with
            | .error c => .next (trap c (if c = 0x10 then 3 else 0) x s)
            | .ok rs =>
              let t' := { t with edits := edits, seq := (w2.extractLsb' 32 32).toNat }
              if rs.any fun r => !r.2 || !recFits t' r.1 then .next (trap 0x0B 0 0 s)
              else
                let posts := blockPosts t' hd
                let recs := rs.map Prod.fst
                let of_ (m : Nat) : List BRec := recs.filter fun r => r.r.modid = m
                match takeSlots f i (slotRtrs s.hub.modid.toNat recs) s with
                | none => waitFor (.trload seg a) s
                | some s =>
                  let s := (otherMods s t').foldl (fun s m =>
                    sayMods f (handleOf i t) (.load t'.seq edits posts (of_ m)) [m] s) s
                  .next (loadTree f i t'.seq edits posts (of_ s.hub.modid.toNat) s)) s) s

/-! ### What other modules say of a tree -/

/-- An answer to another module. -/
def answerTree (f : Nat) (h : BitVec 32) (m n : Nat) (rs : List BRec) (ps : PMap Nat) (s : State) : State :=
  tellMods none f h (.ack n rs ps) [m] s

/-- A message of another module about a tree of this one. A form there waits for an answer even when the tree has gone here. -/
def arriveTree (f : Nat) (h : BitVec 32) (src : Nat) (c : TreeCmd) (s : State) : State :=
  match treeOf s f (h.setWidth 64) with
  | none => match c with
    | .free | .freeze false | .save | .count => answerTree f h src 0 [] [] s
    | _ => s
  | some (i, t) =>
    match c with
    | .free => answerTree f h src 0 [] [] (endTree f i s)
    | .freeze false => answerTree f h src 0 [] [] (freezeTree f i s)
    | .freeze true => stallTree f i s
    | .save => answerTree f h src 0 (match saveRecs f i s with | .ok rs => rs | .error _ => [])
        (t.posts.filter fun e => e.1 / 128 = s.hub.modid.toNat) s
    | .saved => releaseTree f i s
    | .thaw => if t.state = 1 then thawTree f i s else s
    | .load seq edits posts recs => loadTree f i seq edits posts recs s
    | .count => answerTree f h src (boundOf t) [] [] (s.modTree f i fun t => { t with hold := true })
    | .edit e => s.modTree f i fun t => Tree.passNow (queueEdit e.word0 e.word1 e.bound { t with hold := false })
    | .drop => s.modTree f i fun t => { t with hold := false }
    | .ack n rs ps => s.modTree f i fun t => { t with ask := t.ask.map fun q => { q with
        owed := q.owed.filter (· ≠ src), count := Nat.max q.count n, recs := q.recs ++ rs, posts := q.posts ++ ps } }
    | .reject seg => chargeSeg f i seg 0x0B s

/-- A flit of another module reaches this one: a post that needs a tree or a member that is not here takes trap 0x0B in its
module (15 R274, R279). -/
def arriveFlit (f : Nat) (h : BitVec 32) (fl : TFlit) (k : State → State) (s : State) : State :=
  let ok := match treeOf s f (h.setWidth 64) with
    | none => false
    | some (_, t) => (membersAt t fl.seg).all fun m => decide (m.modid ≠ s.hub.modid.toNat) || (s.vcorePhys f m.vdie m.core).isSome
  if ok then k s else tellMods none f h (.reject fl.seg) [fl.from_] s

/-! ### Steps of trees (15 R276, R279, 24 R381) -/

/-- Removes flit `k`. -/
def takeFlit (f i k : Nat) (s : State) : State :=
  s.modTree f i fun t => { t with flits := t.flits.eraseIdx k, stallAt := s.cycleG }

/-- Result bytes reach a member: its area is written and LOCALDONE occurs, in segment order at the member. -/
def landResult (f i code seg : Nat) (data : List Byte) (clk : Clock) (s : State) : Option State :=
  let t := s.tree f i
  match t.segs.find? fun e => e.code = code ∧ e.seg = seg with
  | none => none
  | some e =>
    if (t.segs.any fun x => decide (x.code = code) && decide (x.seg < seg) && !x.localdone) ||
        !s.covers (code / 16 % 8) clk then none
    else
      let s := mergeClock (code / 16 % 8) clk s
      let isRoot := (membersAt t seg).any fun m => decide (m.code = code) && decide (m.rank = t.root)
      if t.kind = 2 ∧ isRoot then some s
      else
        let v := code / 16 % 8
        match e.res, s.vcorePhys f v (code % 16) with
        | some o, some core =>
          let k := keyScratch core o
          if segHeld s k (segSize t) then none
          else some (localDone f i code seg (agentStore v none k data s))
        | _, _ => some (localDone f i code seg s)

/-- TREE_FLIT_ARRIVE: flit `k` of an ACTIVE tree reaches a router that holds a slot of the tree. -/
def execTreeFlitArrive (fn idx k : Nat) (s : State) : Out :=
  let t := s.tree fn idx
  match t.flits[k]? with
  | none => .next s
  | some fl =>
    if !t.valid || decide (t.state ≠ 0) then .next s
    else if fl.level = 0 then
      .next ((takeFlit fn idx k s).modTree fn idx fun t => Tree.passNow { t with segs := t.segs ++
        [{ code := mcode (fl.child.getD 0) fl.vdie fl.core, seg := fl.seg, res := none, srcfree := true, localdone := true }] })
    else if !t.slots.contains fl.rtr.code then .next s
    else match fl.child with
      | some c => .next (foldIn fn idx fl.rtr fl.seg c fl.data fl.clk (takeFlit fn idx k s))
      | none =>
        if fl.level = 1 then
          match landResult fn idx (mcode fl.modid fl.vdie fl.core) fl.seg fl.data fl.clk (takeFlit fn idx k s) with
          | some s => .next s
          | none => .next s
        else .next (sendFlits fn idx fl.rtr (spread t (membersAt t fl.seg) fl.rtr fl.seg fl.data fl.clk) (takeFlit fn idx k s))

/-- Loads a slot with the partials of its router that lie in the spill block, which keeps the rest. -/
def reload (f i : Nat) (r : Rtr) (s : State) : Option State :=
  let t := s.tree f i
  let s1 := s.modTree f i fun t => { t with slots := t.slots ++ [r.code] }
  if !t.spilled.contains r.code then some s1
  else if !s.settled 0 ∨ !s.mayStore 0 ∨ !s.linkedTo 8 f 0 0 t.spill .write 0x5000 then none
  else match spillRecs f t s with
    | .error _ => none
    | .ok rs =>
      match writeBlock f 0 0 t.spill (blockBytes i t t.byStall 2 (rs.filter fun q => q.r ≠ r)) s1 with
      | .error _ => none
      | .ok s => some ((rs.filter fun q => q.r = r).foldl (fun s q => install f i q s)
          (s.modTree f i fun t => { t with spilled := t.spilled.filter (· ≠ r.code) }))

/-- TREE_SLOT_FAULT: firmware finds a slot for flit `k`, loads it with the tree's spilled partials there, and the flit
goes on. -/
def execTreeSlotFault (fn idx k : Nat) (s : State) : Out :=
  let t := s.tree fn idx
  match t.flits[k]? with
  | none => .next s
  | some fl =>
    let r := fl.rtr
    if !t.valid || decide (fl.level = 0) || t.slots.contains r.code then .next s
    else
      match (if (slotsAt s fn r).length < slotCap r.level then some s else evictOne fn r s) with
      | none => .next s
      | some t => match reload fn idx r t with
        | none => .next s
        | some t => .next t

/-- TREE_STALL_TIMEOUT: an ACTIVE tree without progress for STALL µs freezes. The module of its top router keeps the timer, and
tells the others. -/
def execTreeStallTimeout (fn idx : Nat) (s : State) : Out :=
  let t := s.tree fn idx
  if t.valid ∧ t.state = 0 ∧ (topOf t.members t.root).modid = s.hub.modid.toNat then
    let us := if t.stall = 0 then 1000 else t.stall
    let s := due (t.stallAt + 1000 * us) s
    .next (tellMods none fn (handleOf idx t) (.freeze true) (otherMods s t) (stallTree fn idx s))
  else .next s

/-! ### The drain queue and collective jobs (15 R269, R283) -/

/-- Whether a member receives a result of a segment. -/
def receives (t : Tree) (code seg : Nat) : Bool :=
  let isRoot := (membersAt t seg).any fun m => decide (m.code = code) && decide (m.rank = t.root)
  match t.kind with | 1 => isRoot | 2 => !isRoot | _ => true

/-- DRAIN_QUEUE_POST: the oldest entry of a core's queue is posted, or dropped with a trap of the filling context. -/
def execDrainQueuePost (core : Nat) (s : State) : Out :=
  match (s.core core).drainQ with
  | [] => .next s
  | e :: rest =>
    let drop (s : State) : State := s.modCore core fun k => { k with drainQ := rest }
    let ev : SegEv :=
      { code := mcode s.hub.modid.toNat (e.vcore / 16) (e.vcore % 16), seg := 0, res := none, srcfree := false,
        localdone := false, cx := some e.cx, serial := e.serial, pc := e.pc, slot := e.slot, entry := some e.no }
    let bad (c : BitVec 8) : Out := .next (chargePost ev c 0 (drop s))
    match treeOf s e.fn (e.handle.setWidth 64) with
    | none => bad 0x0B
    | some (i, t) =>
      let code := ev.code
      let k := nextSeg t code
      let sz := segSize t
      let at_ := e.dst + BitVec.ofNat 64 (e.q * sz)
      let area : Option Nat := match window at_ with
        | some (.local_, o) => if o + sz ≤ 2 ^ 23 ∧ inWindow .local_ e.dst.toNat then some o else none
        | _ => none
      if e.dst ≠ 0 ∧ area.isNone then bad 0x06
      else if e.data.length > sz then bad 0x0B
      else if !(membersAt t k).any (fun m => m.code = code) then bad 0x0B
      else if e.dst = 0 ∧ receives t code k then bad 0x0B
      else if t.state ≠ 0 ∨ postsFull t code ∨ (s.fn e.fn).halted ∨ t.held.any (fun p => p.code = code) then .next s
      else
        let s := openPost e.fn i code { ev with seg := k, res := if e.dst = 0 then none else area } (drop s)
        .next (contribute e.fn i code k
          (if t.kind = 2 ∧ receives t code k then [] else e.data ++ List.replicate (sz - e.data.length) (0 : Byte)) s)

/-- One move of a collective job: the next segment is posted, or the job completes. -/
def colMove (v : Nat) (n : Node) (s : State) : Except JobErr State :=
  let ws := n.words
  let j := n.posted
  match treeOf s n.fn (ws.getD 0 0) with
  | none => .error (0x0B, 0, 0)
  | some (i, t) =>
    let code := 128 * s.hub.modid.toNat + n.vcore
    let sz := segSize t
    if j < (ws.getD 3 0).toNat then
      let k := nextSeg t code
      let src := ws.getD 1 0 + BitVec.ofNat 64 (j * sz)
      let dst := ws.getD 2 0 + BitVec.ofNat 64 (j * sz)
      match window src, window dst with
      | some (.local_, so), some (.local_, d) =>
        if src.toNat % 256 ≠ 0 then .error (0x05, 0, src)
        else if so + sz > 2 ^ 23 ∨ d + sz > 2 ^ 23 then .error (0x06, 0, src)
        else if !(membersAt t k).any (fun m => m.code = code) then .error (0x0B, 0, 0)
        else if postsFull t code then .ok s
        else
          let ev : SegEv := { code := code, seg := k, res := some d, srcfree := false, localdone := false, cx := n.cx,
                              serial := n.serial, pc := n.pc, slot := n.slot }
          .ok (postLocal n.fn i n.vcore so ev (s.modNode v n.id fun n => { n with posted := j + 1 }))
      | _, _ => .error (0x06, 0, src)
    else if t.segs.any fun e => decide (e.code = code) && !e.localdone then .ok s
    else do
      let s ← jobBara v n (if receives t code (nextSeg t code - 1) then (ws.getD 3 0).toNat * sz else 0) s
      .ok ((jobEvent n s).modNode v n.id fun n => { n with done := true })

end Sys2Proof.Machine
end

