-- ==== Sys2Proof/Machine/Nest.lean ====
section
/-!
DEFINITION. Loop-nest collectives and the completion of engine jobs (15 R269, R270, R284 to R286, 24 R387 to R389).
-/
namespace Sys2Proof.Machine
open Store

/-! ### The record (15 R284) -/

/-- Fields of a loop-nest record. -/
def nGsize (ws : List Word) : Nat := ((ws.getD 2 0).extractLsb' 48 16).toNat
def nBase (ws : List Word) : Nat := ((ws.getD 2 0).extractLsb' 32 16).toNat
def nChunk (ws : List Word) : Nat := ((ws.getD 2 0).extractLsb' 0 32).toNat
def nDst (ws : List Word) : Nat := ((ws.getD 3 0).extractLsb' 0 23).toNat
def nExpin (ws : List Word) : Nat := ((ws.getD 4 0).extractLsb' 0 40).toNat
def nBar (ws : List Word) : Option Nat :=
  if (ws.getD 6 0).getLsbD 63 then some ((ws.getD 6 0).extractLsb' 0 23).toNat else none
def nLev (ws : List Word) : Nat := ((ws.getD 7 0).extractLsb' 0 3).toNat
def nBound (ws : List Word) (l : Nat) : Nat := ((ws.getD (8 + 2 * l) 0).extractLsb' 32 32).toNat
def nPeer (ws : List Word) (l : Nat) : Int := ((ws.getD (8 + 2 * l) 0).extractLsb' 0 32).toInt
def nSst (ws : List Word) (l : Nat) : Int := ((ws.getD (9 + 2 * l) 0).extractLsb' 32 32).toInt
def nDstr (ws : List Word) (l : Nat) : Int := ((ws.getD (9 + 2 * l) 0).extractLsb' 0 32).toInt

/-- Checks of R284 on the record. -/
def nestOk (ws : List Word) : Bool :=
  inWindow .local_ (ws.getD 0 0).toNat && decide ((ws.getD 1 0).toNat % 8 = 0)
  && decide (1 ≤ nGsize ws) && decide (nGsize ws ≤ 4096) && decide (nBase ws < nGsize ws)
  && decide (nChunk ws % 64 = 0) && decide (64 ≤ nChunk ws) && decide (nChunk ws ≤ 65536)
  && decide ((ws.getD 3 0).extractLsb' 23 41 = 0) && decide ((ws.getD 4 0).extractLsb' 40 24 = 0)
  && decide ((ws.getD 5 0).extractLsb' 0 56 = 0) && !(ws.getD 5 0).getLsbD 62
  && decide ((ws.getD 6 0).extractLsb' 23 40 = 0) && decide ((ws.getD 6 0).extractLsb' 0 4 = 0)
  && decide ((ws.getD 7 0).extractLsb' 3 61 = 0) && decide (1 ≤ nLev ws) && decide (nLev ws ≤ 4)
  && (List.range 4).all fun l =>
      if l < nLev ws then decide (1 ≤ nBound ws l) else decide (ws.getD (8 + 2 * l) 0 = 0) && decide (ws.getD (9 + 2 * l) 0 = 0)

/-- Checks of the member entries: each in the format of R274, the ranks 0 to GSIZE − 1. -/
def groupOk (ws es : List Word) : Bool :=
  let ms := es.map memberOf
  es.all memberOk && distinct (ms.map (·.rank)) && ms.all (fun m => decide (m.rank < nGsize ws)) && distinct (ms.map (·.code))

/-- Transfers of a rank. -/
def nTotal (ws : List Word) : Nat := (List.range (nLev ws)).foldl (fun n l => n * nBound ws l) 1

/-- Iteration `j` in lexicographic order, levels from the innermost outward: indices by level. -/
def nIndex (ws : List Word) : Nat → Nat → List Nat
  | 0, _ => []
  | l + 1, j => nIndex ws l (j / nBound ws l) ++ [j % nBound ws l]

/-- Σ c[l] × i[l]. -/
def nSum (c : Nat → Int) (is : List Nat) : Int := (is.zip (List.range is.length)).foldl (fun n p => n + c p.2 * p.1) 0

/-! ### States of a collective at its ranks -/

/-- The state of number `n` of function `f` at a core. -/
def Core.nest (k : Core) (f : Nat) (n : BitVec 32) : Option ClState := k.cls.find? fun c => c.fn = f ∧ c.n = n
/-- Updates that state. -/
def modNest (core f : Nat) (n : BitVec 32) (g : ClState → ClState) (s : State) : State :=
  s.modCore core fun k => { k with cls := k.cls.map fun c => if c.fn = f ∧ c.n = n then g c else c }

/-- A number that has reached a core before its CLNEST. -/
def earlyNest (f : Nat) (n : BitVec 32) : ClState :=
  { fn := f, n := n, rcd := [], group := [], accepted := false, attempt := 0, received := 0, next := 0, srcfree := false,
    localdone := false, alldone := false, stopped := false, cancelled := false, node := 0, cx := 0, serial := 0 }

/-- Makes sure that a core has a state for a number. -/
def ensureNest (core f : Nat) (n : BitVec 32) (s : State) : State :=
  match (s.core core).nest f n with
  | some _ => s
  | none => s.modCore core fun k => { k with cls := k.cls ++ [earlyNest f n] }

/-- The numbers that a core remembers: the 16 latest it accepted (15 R285). -/
def remembered (k : Core) (f : Nat) (n : BitVec 32) : Option ClState :=
  let l := k.cls.filter fun c => c.fn = f ∧ c.accepted
  (l.drop (l.length - 16)).find? fun c => c.n = n

/-- Codes of the ranks of a collective. -/
def ranksOf (c : ClState) : List Nat := c.group.map fun w => (memberOf w).code

/-- Whether a rank has reached LOCALDONE in the attempt under way. -/
def fullRank (s : State) (f : Nat) (n : BitVec 32) (c : ClState) (code : Nat) : Bool :=
  if code / 128 ≠ s.hub.modid.toNat then c.farFull.contains code
  else match s.rankCore f code with
    | none => false
    | some k => match (s.core k).nest f n with
      | some d => d.accepted && d.localdone && decide (nExpin d.rcd ≤ d.received)
      | none => false

/-- A message of a rank to another one: by the routers and links between them (01 R16, R17), or at once at its own core. -/
def sayNest (f : Nat) (n : BitVec 32) (src dst : Nat) (c : NestCmd) (s : State) : State :=
  let here := decide (dst / 128 = s.hub.modid.toNat)
  let m : Msg := { dst := 8, body := .nest f n src dst c, born := s.cycleG, toMod := if here then none else some (dst / 128) }
  match s.rankCore f src with
  | none => if here then leaveDie 8 m s else acceptMsg m s
  | some k => match s.rankCore f dst with
    | some r =>
      if r = k then settleMsg m s
      else if r / 16 = k / 16 then
        s.modPdie (k / 16) fun p => { p with rides := p.rides ++ [{ pos := k % 16, dst := r % 16, leaves := false, msg := m }] }
      else sendFrom k m s
    | none => sendFrom k m s

/-- ALLDONE at every rank of this module, when every rank is full. -/
def allDone (f : Nat) (n : BitVec 32) (c : ClState) (s : State) : State :=
  if (ranksOf c).all (fullRank s f n c) then
    (ranksOf c).foldl (fun s r => match s.rankCore f r with
      | some k => modNest k f n (fun d => { d with alldone := true }) s
      | none => s) s
  else s

/-- Whether the barrier word of a record lies in a held bank, for which its BARA waits (12 R231). -/
def barHeld (core : Nat) (ws : List Word) (s : State) : Bool :=
  match nBar ws with
  | none => false
  | some o => bankHeld s (keyScratch core o)

/-- A rank may have received its bytes: LOCALDONE with its BARA, once, then ALLDONE (15 R285, 24 R388). -/
def checkFull (core f : Nat) (n : BitVec 32) (s : State) : State :=
  match (s.core core).nest f n with
  | none => s
  | some c =>
    if !c.accepted || c.cancelled || decide (c.received < nExpin c.rcd) || (!c.localdone && barHeld core c.rcd s) then s
    else
      let me := (ranksOf c).find? fun r => s.rankCore f r = some core
      let s := if c.localdone then s
        else
          let s := modNest core f n (fun d => { d with localdone := true }) s
          match nBar c.rcd with
          | none => s
          | some o =>
            let k := keyScratch core o
            let v := s.virt (core / 16)
            agentStore v none k (barStep false (nExpin c.rcd) (s.bytes k 16)) (mergeClock v (s.stampOf k 16) s)
      let s := match me with
        | some r => ((ranksOf c).filter fun x => x / 128 ≠ s.hub.modid.toNat).foldl
            (fun s x => sayNest f n r x (.full c.attempt) s) s
        | none => s
      allDone f n c s

/-! ### CLNEST, CLABORT, CLEV (15 R285, R286) -/

/-- The value that follows a CLNEST counter: 2^32 − 1 steps to 1. The store holds counters minus one. -/
def clNext (c : BitVec 32) : BitVec 32 := if c = 0xFFFFFFFE#32 then 0 else c + 1

/-- Keeps the sixteen latest accepted numbers, numbers that are not over, and numbers not yet accepted. -/
def trimNests (k : Core) : Core :=
  let done := (k.cls.filter (·.accepted)).dropLast.take ((k.cls.filter (·.accepted)).length - 16)
  { k with cls := k.cls.filter fun c => !((c.alldone || c.cancelled) && done.any fun d => d.fn = c.fn ∧ d.n = c.n) }

/-- An accepted CLNEST: its number, its node and its state. -/
def acceptNest (d : BitVec 6) (ws es : List Word) (s : State) : State :=
  let f := s.myFn
  let v := s.myVdie
  let core := coreOf s.cur
  let n := rd 0 (s.core core).clCtr f + 1
  let (id, s) := giveId v s
  let s := s.modCore core fun k => { k with clCtr := wr 0 k.clCtr f (clNext (rd 0 k.clCtr f)) }
  let me := s.me
  let node : Node :=
    { id := id, fn := f, kind := .clnest, words := [], held := false, preds := [], cx := some s.cur, serial := me.serial,
      pc := me.iss.pc, slot := me.iss.slot, vcore := 16 * v + s.myCore }
  let s := acceptNode v node false (ensureNest core f n s)
  let fresh := ((s.core core).nest f n).getD (earlyNest f n)
  let taken := fresh.accepted
  let c : ClState := { (if taken then earlyNest f n else fresh) with
    rcd := ws, group := es, accepted := true, node := id, cx := s.cur, serial := me.serial }
  let s := s.modCore core fun k => trimNests { k with cls := (k.cls.filter fun x => !(x.fn = f ∧ x.n = n)) ++ [c] }
  let s := if c.cancelled then
      (modNest core f n (fun x => { x with srcfree := true, localdone := true, alldone := true }) s).modNode v id
        fun m => { m with done := true }
    else checkFull core f n s
  wS s d (n.setWidth 64)

/-- CLNEST. -/
def execClnest (d aa : BitVec 6) (s : State) : Out :=
  if s.nodesFull s.myVdie s.myFn && !s.inElided then waitFor (.clnest d aa) s
  else recordForm (.clnest d aa) (rA s aa.toNat) 64 128 (fun ws s =>
    if !nestOk ws then .next (wS s d 0)
    else recordForm (.clnest d aa) (ws.getD 1 0) 8 (8 * nGsize ws) (fun es s =>
      if !groupOk ws es then .next (wS s d 0)
      else if !es.any (fun w => decide ((memberOf w).code = myCode s)) then .next (trap 0x0B 0 0 s)
      else .next (acceptNest d ws es s)) s) s

/-- A collective ends for good at a core: no further transfer, its events occur, no BARA. -/
def cancelAt (core f : Nat) (n : BitVec 32) (s : State) : State :=
  let s := ensureNest core f n s
  match (s.core core).nest f n with
  | none => s
  | some c =>
    let s := modNest core f n (fun d => { d with
      cancelled := true, stopped := true, srcfree := true, localdone := true, alldone := true }) s
    if c.accepted then s.modNode (idDie c.node) c.node fun m => { m with done := true } else s

/-- CLABORT ends a collective at its core and goes to every other rank. -/
def cancelNest (core f : Nat) (n : BitVec 32) (s : State) : State :=
  match (s.core core).nest f n with
  | none => s
  | some c =>
    let me := ((ranksOf c).find? fun r => s.rankCore f r = some core).getD 0
    ((ranksOf c).filter fun r => s.rankCore f r ≠ some core).foldl (fun s r => sayNest f n me r .cancel s) (cancelAt core f n s)

/-- Number operand of CLABORT and CLEV. -/
def nestNum (x : Word) : Option (BitVec 32) := if x.toNat < 2 ^ 32 then some (x.setWidth 32) else none

/-- CLABORT. -/
def execClabort (a : BitVec 6) (s : State) : Out :=
  notElided s fun s =>
    let core := coreOf s.cur
    match nestNum (rS s a) with
    | none => .next s
    | some n => match remembered (s.core core) s.myFn n with
      | none => .next s
      | some _ => .next (cancelNest core s.myFn n s)

/-- CLEV. -/
def execClev (a : BitVec 6) (ev : TrEv) (s : State) : Out :=
  notElided s fun s =>
    match (nestNum (rS s a)).bind (remembered (s.core (coreOf s.cur)) s.myFn) with
    | none => .next s
    | some c =>
      if (match ev with | .srcfree => c.srcfree | .localdone => c.localdone | .alldone => c.alldone) then .next s
      else waitFor (.clev a ev) s

/-! ### The engine runs a collective (15 R285) -/

/-- A transfer leaves its core: it counts as on its way, and one to another die of the module is a write that takes its stamp now
(11 R196, R203). -/
def stampMove (v core : Nat) (x : Chunk) (s : State) : Chunk × State :=
  let h := x.rank / 16 % 8
  let far := decide (x.rank / 128 = s.hub.modid.toNat) && decide (h ≠ v)
  let prev := rd 0 (s.vdie v).lastTo h
  let s := if far then bump v s else s
  let clk := (s.vdie v).clock
  let n := clkGet clk v
  let no := (s.pdie (core / 16)).moveNo
  let s := if far then s.modVdie v fun d => { d with lastTo := wr 0 d.lastTo h n } else s
  ({ x with die := core / 16, no := no, vdie := v, clk := if far then clk else [], prev := if far then prev else 0 },
    s.modPdie (core / 16) fun p => { p with
      moveNo := no + 1, moves := p.moves ++ [⟨no, x.fn, v, if far then some n else none⟩] })

/-- One transfer of a collective, with the state it comes from. -/
def emitChunk (core v : Nat) (n : Node) (c : ClState) (s : State) : Except JobErr State :=
  let ws := c.rcd
  let is := nIndex ws (nLev ws) c.next
  let peer := ((nBase ws : Int) + nSum (nPeer ws) is) % (nGsize ws : Int)
  let src := ((ws.getD 0 0).toNat : Int) - winBase .local_ + nSum (nSst ws) is
  let dst := (nDst ws : Int) + nSum (nDstr ws) is
  let sa := BitVec.ofInt 64 ((winBase .local_ : Int) + src)
  if src < 0 ∨ src + nChunk ws > 2 ^ 23 then .error (0x06, 0, sa)
  else if dst < 0 ∨ dst + nChunk ws > 2 ^ 23 then .error (0x06, 0, BitVec.ofInt 64 dst)
  else match c.group.find? fun w => ((memberOf w).rank : Int) = peer with
    | none => .error (0x04, 0, sa)
    | some w => do
      let (bs, s) ← jobRead v n sa (nChunk ws) s
      let code := (memberOf w).code
      let me := 128 * s.hub.modid.toNat + n.vcore
      let k : Chunk := { fn := c.fn, n := c.n, attempt := c.attempt, src := me, rank := code, dst := dst.toNat, data := bs }
      if code / 128 = s.hub.modid.toNat ∧ (s.rankCore c.fn code).isNone then .error (0x04, 0, sa)
      let s := modNest core c.fn c.n (fun d => { d with
        next := c.next + 1, srcfree := d.srcfree || decide (c.next + 1 = nTotal ws) }) s
      let (k, s) := stampMove v core k s
      let m : Msg := { dst := 8, body := .chunk k, born := s.cycleG }
      if code / 128 ≠ s.hub.modid.toNat then .ok (sendFrom core { m with toMod := some (code / 128) } s)
      else match s.rankCore c.fn code with
        | none => .error (0x04, 0, sa)
        | some r =>
          if r = core then .ok (settleMsg m s)
          else if r / 16 = core / 16 then
            .ok (s.modPdie (core / 16) fun p => { p with rides := p.rides ++
              [{ pos := core % 16, dst := r % 16, leaves := false, msg := m }] })
          else .ok (sendFrom core m s)

/-- One move of a collective: the next transfer leaves, a LOCALDONE that waited for a bank occurs, or the job completes at
ALLDONE. -/
def nestMove (v : Nat) (n : Node) (s : State) : Except JobErr State :=
  match s.subCore n with
  | none => .error (0x04, 0, 0)
  | some core =>
    match (s.core core).cls.find? fun c => c.node = n.id with
    | none => .ok (s.modNode v n.id fun m => { m with done := true })
    | some c =>
      if c.alldone then .ok ((jobEvent { n with words := c.rcd } s).modNode v n.id fun m => { m with done := true })
      else if c.stopped ∨ c.next ≥ nTotal c.rcd then .ok (if c.localdone then s else checkFull core c.fn c.n s)
      else emitChunk core v n c s

/-- CLNEST_TRANSFER_ARRIVE: chunk `k` at a rank is applied and counted, or discarded when an abort for rerun or
CLABORT has gone before. One from another die of the module is a write that waits as R197 says. -/
def execClnestTransferArrive (core k : Nat) (s : State) : Out :=
  match (s.core core).chunks[k]? with
  | none => .next s
  | some x =>
    let key := keyScratch core x.dst
    let h := s.virt (core / 16)
    let s := if x.clk.isEmpty then s else rechain h x.vdie s
    if (blocks key x.data.length).any (fun b => bankHeld s (64 * b)) || (!x.clk.isEmpty && !s.mayStamp h x.vdie x.clk) then .next s
    else
      let s := s.modCore core fun c => { c with chunks := c.chunks.eraseIdx k }
      let s := ensureNest core x.fn x.n s
      match (s.core core).nest x.fn x.n with
      | none => .next (moveOver x s)
      | some c =>
        if c.cancelled ∨ c.attempt ≠ x.attempt then .next (moveOver x s)
        else
          let v := if x.src / 128 = s.hub.modid.toNat then x.src / 16 % 8 else h
          let s := moveOver x (if x.clk.isEmpty then agentStore v none key x.data s else s.store none key x.data x.clk)
          .next (checkFull core x.fn x.n (modNest core x.fn x.n (fun c => { c with received := c.received + x.data.length }) s))

/-! ### Rerun (24 R387, R388) -/

/-- An abort for rerun takes effect at a rank. -/
def rerunAt (core f : Nat) (n : BitVec 32) (s : State) : State :=
  modNest core f n (fun c => { c with
    stopped := true, received := 0, next := 0, farFull := [], attempt := (c.attempt + 1) % 256 }) (ensureNest core f n s)

/-- A resume takes effect at a rank. -/
def resumeAt (core f : Nat) (n : BitVec 32) (s : State) : State :=
  checkFull core f n (modNest core f n (fun c => { c with stopped := c.cancelled }) (ensureNest core f n s))

/-- Sends an abort for rerun or a resume of a collective from a core to every rank, its own among them. Every rank owes an
acknowledgement of an abort. -/
def sendNest (resume : Bool) (core : Nat) (c : ClState) (s : State) : State :=
  let me := ((ranksOf c).find? fun r => s.rankCore c.fn r = some core).getD 0
  let s := (ranksOf c).foldl (fun s r => sayNest c.fn c.n me r (if resume then .resume else .rerun) s) s
  if resume then s else modNest core c.fn c.n (fun d => { d with owed := ranksOf c }) s

/-- Whether every rank has acknowledged the abort for rerun that a core sent: one that is not mapped has nothing to stop. -/
def rerunAcked (s : State) (c : ClState) : Bool :=
  c.owed.all fun r => decide (r / 128 = s.hub.modid.toNat) && (s.rankCore c.fn r).isNone

/-- A message of a rank takes effect at the core of rank `dst`. -/
def arriveNest (core f : Nat) (n : BitVec 32) (src dst : Nat) (m : NestCmd) (s : State) : State :=
  match m with
  | .full a =>
    match (s.core core).nest f n with
    | none => modNest core f n (fun c => { c with farFull := c.farFull ++ [src] }) (ensureNest core f n s)
    | some c =>
      if c.attempt ≠ a then s
      else
        let s := modNest core f n (fun c => { c with farFull := c.farFull ++ [src] }) s
        match (s.core core).nest f n with
        | some c => if c.accepted then allDone f n c s else s
        | none => s
  | .cancel => cancelAt core f n s
  | .rerun => sayNest f n dst src .acked (rerunAt core f n s)
  | .acked => modNest core f n (fun c => { c with owed := c.owed.filter (· ≠ src) }) s
  | .resume => resumeAt core f n s

/-- The first message of a core that satisfies `p` takes effect. -/
def takeNest (core : Nat) (p : Nat × BitVec 32 × Nat × Nat × NestCmd → Bool) (s : State) : State :=
  match (s.core core).nestIn.find? p with
  | none => s
  | some x =>
    arriveNest core x.1 x.2.1 x.2.2.1 x.2.2.2.1 x.2.2.2.2 (s.modCore core fun k => { k with nestIn := k.nestIn.erase x })

/-- Message `k` of a core takes effect. -/
def nestStep (core k : Nat) (s : State) : State :=
  takeNest core (fun x => decide ((s.core core).nestIn[k]? = some x)) s

/-- CLNEST_ABORT_RERUN. -/
def execClnestAbortRerun (core fn : Nat) (n : BitVec 32) (s : State) : Out :=
  .next (takeNest core (fun x => decide (x.1 = fn ∧ x.2.1 = n ∧ x.2.2.2.2 = .rerun)) s)

/-- CLNEST_RESUME. -/
def execClnestResume (core fn : Nat) (n : BitVec 32) (s : State) : Out :=
  .next (takeNest core (fun x => decide (x.1 = fn ∧ x.2.1 = n ∧ x.2.2.2.2 = .resume)) s)

/-- A message from another module reaches the package router. -/
def takeIn (m : Msg) (s : State) : State :=
  if m.toMod = some s.hub.modid.toNat then
    match m.body with
    | .tree f h fl => arriveFlit f h fl (arriveMsg m) s
    | .treeCmd f h src c => arriveTree f h src c s
    | _ => arriveMsg m s
  else arriveMsg m s

/-! ### Completion and faults of engine jobs (15 R269, R270) -/

/-- The next move of a node's engine: one access of a copy, gather or scatter job, one post of a collective job, or one
transfer of a loop nest. Code 0 says that it waits. -/
def nodeMove (v : Nat) (n : Node) (s : State) : Except JobErr State :=
  match n.kind with
  | .job .col => colMove v n s
  | .job e => engineMove v n e s
  | .clnest => nestMove v n s
  | _ => .ok s

/-- ENGINE_JOB_COMPLETE: the engine takes the next step of a job, the last of which completes it. One that faults, or
waits, does not go on. -/
def execEngineJobComplete (vdie : Nat) (id : BitVec 32) (s : State) : Out :=
  match s.node vdie id with
  | none => .next s
  | some n =>
    if !jobReady s n then .next s
    else match nodeMove vdie n s with
      | .ok t => .next t
      | .error _ => .next s

/-- ENGINE_JOB_FAULT: the bytes already written remain, and the fault is charged. -/
def execEngineJobFault (vdie : Nat) (id : BitVec 32) (s : State) : Out :=
  match s.node vdie id with
  | none => .next s
  | some n =>
    if !jobReady s n then .next s
    else match nodeMove vdie n s with
      | .ok _ => .next s
      | .error (c, d, a) => if c = 0 then .next s else .next (chargeJob vdie n c d a s)

end Sys2Proof.Machine
end

