-- ==== Sys2Proof/Machine/Objects.lean ====
section
/-!
DEFINITION. Replayed objects: handles, the method engine, the call log, reads and repair (16 R287 to R300).
-/
namespace Sys2Proof.Machine
open Store

/-! ### Handles (16 R287) -/

/-- Object `i` of a function. -/
def State.obj (s : State) (f i : Nat) : Obj := rd {} (s.fn f).objs i
/-- Updates an object. -/
def State.modObj (s : State) (f i : Nat) (g : Obj → Obj) : State :=
  s.modFn f fun x => { x with objs := put x.objs i (g (rd {} x.objs i)) }

/-- The handle of an object. -/
def objHandle (i : Nat) (o : Obj) : BitVec 32 := BitVec.ofNat 32 (2 ^ 30 + i * 2 ^ 16 + o.gen)

/-- The live object that a handle names. -/
def objOf (s : State) (f : Nat) (h : Word) : Option (Nat × Obj) :=
  let i := (h.extractLsb' 16 10).toNat
  let o := s.obj f i
  if o.live ∧ h = (objHandle i o).setWidth 64 then some (i, o) else none

/-- A method entry's fields (16 R289). -/
def mRo (e : Word) : Bool := e.getLsbD 63
def mBudget (e : Word) : Nat := (e.extractLsb' 48 12).toNat + 1
def mEntry (e : Word) : Word := ((e.extractLsb' 4 44).setWidth 64) <<< 4

/-- The entry of a defined method. -/
def Obj.method (o : Obj) (m : Nat) : Option Word := (o.meths[m]?).bind fun e => if e.getLsbD 0 then some e else none

/-- Positions logged so far. -/
def Obj.next (o : Obj) : Nat := o.base + o.log.length

/-! ### Methods (16 R291, R292) -/

/-- The scalar forms that a method may use. -/
def methodForm (i : Instr) (s : State) : Option Out :=
  match i with
  | .add d a b => some (execAdd d a b s)
  | .sub d a b => some (execSub d a b s)
  | .mul d a b => some (execMul d a b s)
  | .mulh d a b => some (execMulh d a b s)
  | .mulhn d a b => some (execMulhn d a b s)
  | .div d a b => some (execDiv d a b s)
  | .divn d a b => some (execDivn d a b s)
  | .rem d a b => some (execRem d a b s)
  | .remn d a b => some (execRemn d a b s)
  | .neg d a => some (execNeg d a s)
  | .abs d a => some (execAbs d a s)
  | .min d a b => some (execMin d a b s)
  | .max d a b => some (execMax d a b s)
  | .minn d a b => some (execMinn d a b s)
  | .maxn d a b => some (execMaxn d a b s)
  | .and d a b => some (execAnd d a b s)
  | .or d a b => some (execOr d a b s)
  | .xor d a b => some (execXor d a b s)
  | .andn d a b => some (execAndn d a b s)
  | .orn d a b => some (execOrn d a b s)
  | .shl d a b => some (execShl d a b s)
  | .shr d a b => some (execShr d a b s)
  | .sra d a b => some (execSra d a b s)
  | .rotl d a b => some (execRotl d a b s)
  | .rotr d a b => some (execRotr d a b s)
  | .clz d a => some (execClz d a s)
  | .ctz d a => some (execCtz d a s)
  | .popc d a => some (execPopc d a s)
  | .brev d a => some (execBrev d a s)
  | .bswp d a => some (execBswp d a s)
  | .sext d a b => some (execSext d a b s)
  | .zext d a b => some (execZext d a b s)
  | .bext d a b => some (execBext d a b s)
  | .bins d a b => some (execBins d a b s)
  | .mov d a => some (execMov d a s)
  | .cmp bank c d a b => some (execCmp bank c d a b s)
  | .pand bank d a b => some (execPand bank d a b s)
  | .por bank d a b => some (execPor bank d a b s)
  | .pxor bank d a b => some (execPxor bank d a b s)
  | .pnot bank d a => some (execPnot bank d a s)
  | .pmov bank d a => some (execPmov bank d a s)
  | .pset bank d a => some (execPset bank d a s)
  | .pcnt bank d a b => some (execPcnt bank d a b s)
  | .sel p d a b => some (execSel p d a b s)
  | .adda d a b => some (execAdda d a b s)
  | .lea k d a b => some (execLea k d a b s)
  | .acvtRel w d a => some (execAcvtRel w d a s)
  | .acvtGen w d a => some (execAcvtGen w d a s)
  | .atst bank w d a => some (execAtst bank w d a s)
  | .addi d a imm => some (execAddi d a imm s)
  | .subi d a imm => some (execSubi d a imm s)
  | .andi d a imm => some (execAndi d a imm s)
  | .ori d a imm => some (execOri d a imm s)
  | .xori d a imm => some (execXori d a imm s)
  | .shli d a n => some (execShli d a n s)
  | .shri d a n => some (execShri d a n s)
  | .srai d a n => some (execSrai d a n s)
  | .lui d imm => some (execLui d imm s)
  | .movi d imm => some (execMovi d imm s)
  | .cmpi c d a imm => some (execCmpi c d a imm s)
  | .br off => some (execBr off s)
  | .bri a => some (execBri a s)
  | .call off => some (execCall off s)
  | .ret a => some (execRet a s)
  | .loop n a len => some (execLoop n a len s)
  | .lbrk n => some (execLbrk n s)
  | .nop => some (execNop s)
  | _ => none

/-- What a running method holds: the state with its own context, and the stores not yet committed. -/
structure Meth where
  s : State
  /-- Stores of the method, by offset in the block. -/
  held : PMap Byte := []
  result : Option Word := none

/-- The copy that a method runs on. -/
structure Block where
  o : Obj
  vdie : Nat
  ro : Bool

/-- Bytes of a copy, under the method's own stores. A poisoned granule that the method reads gives cause 5. -/
def blockRead (b : Block) (m : Meth) (a n : Nat) : Except Nat (List Byte) :=
  if (span a n).any (fun k => (look m.held k).isNone && b.o.bad.contains (2 ^ 16 * b.vdie + k / 32 * 32)) then .error 5
  else .ok ((span a n).map fun k => (look m.held k).getD (rd 0 b.o.copies (2 ^ 16 * b.vdie + k)))

/-- Whether an access of `n` bytes lies in the block and is aligned. -/
def inBlock (b : Block) (a : Word) (n : Nat) : Bool := decide (a.toNat + n ≤ b.o.ssize) && decide (a.toNat % n = 0)

/-- One slot of a method. -/
def methSlot (b : Block) (i : Instr) (m : Meth) : Except Nat Meth :=
  match i with
  | .ld sz d aa am off =>
    let n := ldSize sz
    let a := mmAddr m.s aa am off n
    if !inBlock b a n then .error 3
    else do
      let bs ← blockRead b m a.toNat n
      .ok { m with s := mmPost aa am off n (wS m.s d (ldValue sz bs)) }
  | .st sz d aa am off =>
    let n := stSize sz
    let a := mmAddr m.s aa am off n
    if b.ro then .error 2
    else if !inBlock b a n then .error 3
    else
      let bs := toBytes n (rS m.s d).toNat
      .ok { m with s := mmPost aa am off n m.s,
                   held := ((span a.toNat n).zip bs).foldl (fun h p => put h p.1 p.2) m.held }
  | .roret a => .ok { m with result := some (rS m.s a) }
  | .dslice _ _ _ => .error 3
  | i => match methodForm i m.s with
    | some (.next s) => if s.me.mode = .halted then .error 6 else .ok { m with s := s }
    | _ => .error 2

/-- One bundle of a method. -/
def methBundle (b : Block) (f : Nat) (m : Meth) : Except Nat Meth :=
  let pc := m.s.me.pc
  match m.s.fetchAt m.s.cur f pc with
  | .error _ => .error 6
  | .ok w =>
    let bd := decodeBundle w
    if !bd.legal then .error 1
    else do
      let s := m.s.mod fun c => { c with iss := { pc := pc, view := c.regs } }
      let ex := bd.slots.filter fun x => executes s x.2.2
      let m ← ex.foldlM (fun m x =>
        methSlot b x.2.1 { m with s := m.s.mod fun c => { c with iss := { c.iss with slot := x.1 } } }) { m with s := s }
      .ok { m with s := m.s.mod endFlow }

/-- Bundles of a method up to its budget. -/
def methRun (b : Block) (f : Nat) : Nat → Meth → Except Nat (Word × PMap Byte)
  | 0, _ => .error 4
  | n + 1, m =>
    match methBundle b f m with
    | .error c => .error c
    | .ok m => match m.result with
      | some r => .ok (r, m.held)
      | none => methRun b f n m

/-- A task record for a replay engine. -/
def engineTask (f v : Nat) (e : Word) : Task :=
  { fn := f, priv := false, vdie := v, vcore := 0, x := 0, y := 0, z := 0, n := 0, lnch := 0, lflags := 0, zacc := 0,
    lslots := 0, mwin := 0, entry := e, param := 0, fmtimg := 0 }

/-- RUNS A METHOD on the copy of virtual die `v`: its result and stores, or the cause of its trap. -/
def runMethod (s : State) (f v : Nat) (o : Obj) (e : Word) (args : List Word) (p : Nat) : Except Nat (Word × PMap Byte) :=
  let regs : Regs := { s := ((args.zip [1, 2, 3, 4]).foldl (fun r a => wr 0 r a.2 a.1) (wr 0 [] 5 (BitVec.ofNat 64 p))) }
  let c : Ctx := { mode := .run, pc := mEntry e, regs := regs, task := some (engineTask f v (mEntry e)) }
  let t := { (s.setCtx (8192 + v) c) with cur := 8192 + v }
  methRun ⟨o, v, mRo e⟩ f (mBudget e) { s := t }

/-- A clean copy that has applied the same positions. -/
def cleanCopy (o : Obj) (v : Nat) : Option Nat :=
  (List.range 8).find? fun d => decide (d ≠ v) && decide (rd 0 o.applied d = rd 0 o.applied v) &&
    !o.bad.any fun k => k / 2 ^ 16 = d

/-- Copies the block of die `d` onto the copy of die `v`. -/
def copyBlk (o : Obj) (d v : Nat) : Obj :=
  { o with
    copies := (span 0 o.ssize).foldl (fun m k => wr 0 m (2 ^ 16 * v + k) (rd 0 o.copies (2 ^ 16 * d + k))) o.copies
    bad := o.bad.filter fun k => k / 2 ^ 16 ≠ v }

/-- The stores of a method are applied to the copy of die `v`; a granule they write whole is no longer poisoned (16 R291,
23 R365). -/
def commitTo (v : Nat) (held : PMap Byte) (o : Obj) : Obj :=
  { o with
    copies := held.foldl (fun m k => wr 0 m (2 ^ 16 * v + k.1) k.2) o.copies
    bad := o.bad.filter fun k => decide (k / 2 ^ 16 ≠ v) || (span (k % 2 ^ 16) 32).any fun j => (look held j).isNone }

/-- A soft error has poisoned position `p` on die `v` after other dies have passed it: their copies go back to the one of die
`v`, poisoned granules included, and so do their positions (16 R300). -/
def rollBack (v p : Nat) (o : Obj) : Obj :=
  (List.range 8).foldl (fun o d =>
    if rd 0 o.applied d ≤ p then o
    else
      let b := copyBlk o v d
      { b with bad := b.bad ++ (o.bad.filter (fun k => k / 2 ^ 16 = v)).map (fun k => 2 ^ 16 * d + k % 2 ^ 16)
               applied := wr 0 b.applied d p })
    { o with results := o.results.filter fun r => r.1 < p }

/-- Runs a method, once more on a repaired copy when it met a poisoned word (16 R292). -/
def runRepaired (s : State) (f v : Nat) (o : Obj) (e : Word) (args : List Word) (p : Nat) :
    Obj × Except Nat (Word × PMap Byte) :=
  match runMethod s f v o e args p with
  | .error 5 => match cleanCopy o v with
    | some d => let o := copyBlk o d v; (o, runMethod s f v o e args p)
    | none => (o, .error 5)
  | r => (o, r)

/-! ### Calls (16 R294, R296) -/

/-- Whether a call may be made: the object is ACTIVE and the method defined. -/
def callOk (o : Obj) (m : Nat) : Bool := o.poison.isNone && (o.method m).isSome

/-- The four arguments. -/
def callArgs (s : State) (d : BitVec 6) : List Word := [rS s d, rS s (d + 1), rS s (d + 2), rS s (d + 3)]

/-- Sends a call to the home. -/
def sendCall (w : Bool) (d m : BitVec 6) (h : Word) (i : Nat) (o : Obj) (s : State) : State :=
  request (.object o.home s.myFn i) (.rocall (h.setWidth 32) m.toNat (callArgs s d) w)
    (if w then .callW d.toNat else .call d.toNat) 0 false s

/-- Whether an append of a context waits at its home for a free entry of the log: the context waits meanwhile (16 R294). -/
def callWaits (s : State) (cx : Nat) : Bool :=
  s.pdies.any fun p => p.2.pend.any fun r => match r.op, r.loc with
    | .rocall _ _ _ _, .object _ f i =>
      decide (r.cx = some cx) && decide (r.serial = (s.ctx cx).serial) &&
        decide ((s.obj f i).log.length ≥ 2 ^ (s.obj f i).logLog2)
    | _, _ => false

/-- ROCALL, a write that comes after the earlier reads of its context (11 R207). -/
def execRocall (d a m : BitVec 6) (s : State) : Out :=
  notElided s fun s =>
    let h := rS s a
    match objOf s s.myFn h with
    | none => .next (trap 0x0C 0 0 s)
    | some (i, o) =>
      if !callOk o m.toNat then .next (trap 0x0C 0 0 s)
      else if s.readsOpen then waitFor (.rocall d a m) s
      else .next (sendCall false d m h i o s)

/-- ROCALL.w: it waits for the append, then for its die's engine. `waitKey` holds the access, and 2^64 plus the
position once the append is acknowledged. -/
def execRocallW (d a m : BitVec 6) (s : State) : Out :=
  notElided s fun s =>
    let h := rS s a
    let bad : Out := .next (trap 0x0C 0 0 (s.mod fun c => { c with waitKey := none }))
    match objOf s s.myFn h with
    | none => bad
    | some (i, o) => match s.me.waitKey with
      | none =>
        if callOk o m.toNat then
          if s.readsOpen then waitFor (.rocallW d a m) s else
          waitFor (.rocallW d a m) ((sendCall true d m h i o s).mod fun c => { c with waitKey := some s.me.po })
        else bad
      | some k =>
        if k < 2 ^ 64 then waitFor (.rocallW d a m) s
        else
          let p := k - 2 ^ 64
          match look o.results p with
          | some (r, st) =>
            if s.covers s.myVdie st then
              let s := mergeClock s.myVdie st (s.modObj s.myFn i fun o => { o with results := del o.results p })
              .next ((wS s d r).mod fun c => { c with waitKey := none })
            else waitFor (.rocallW d a m) s
          | none => match o.poison with
            | some (q, x, _) => if q ≤ p then
                .next (trap 0x0C (if q = p then BitVec.ofNat 8 x else 0) 0 (s.mod fun c => { c with waitKey := none }))
              else waitFor (.rocallW d a m) s
            | none => waitFor (.rocallW d a m) s

/-- ROCALL_APPEND: pending call `k` of a home is appended at the next position (LOG_TRIM first), or answered with
trap 0x0C. An append without a free entry waits, behind the earlier ones of its object. -/
def execRocallAppend (die k : Nat) (s : State) : Out :=
  match (s.pdie die).pend[k]? with
  | none => .next s
  | some r => match r.op, r.loc with
    | .rocall h m args w, .object _ f i =>
      if !s.mayApply r then .next s
      else
        let fail : Out := .next (answer die k r (replyTo r [] [] 0 0x0C 0) s)
        match objOf s f (h.setWidth 64) with
        | none => fail
        | some (j, _) =>
          let t := trimHome r.loc.home s
          let o := t.obj f j
          let before := ((s.pdie die).pend.take k).any fun q => match q.op, q.loc with
            | .rocall _ _ _ _, .object _ g j => decide (g = f) && decide (j = i) && s.mayApply q
            | _, _ => false
          if !callOk o m then fail
          else if before || decide (o.log.length ≥ 2 ^ o.logLog2) then .next s
          else
            let c : Call := { m := m, args := args, fromDie := r.vdie, seqNo := clkGet r.clk r.vdie, stamp := r.clk,
                              cx := r.cx, serial := r.serial, pc := r.pc, slot := r.slot, wait := w }
            .next (answer die k r (replyTo r (toBytes 8 o.next) [] 0 0 0)
              (t.modObj f j fun o => { o with log := o.log ++ [c] }))
    | _, _ => .next s

/-! ### The replay engine (16 R293, R297, R300) -/

/-- Stamps of the positions below `q`. -/
def stampsTo (o : Obj) (q : Nat) : Clock := (o.log.take (q - o.base)).foldl (fun c x => clkMerge c x.stamp) o.baseStamp

/-- The caller of a poisoned position takes trap 0x0C, with the cause as DETAIL. -/
def poisonCaller (f i p : Nat) (c : Call) (s : State) : State :=
  let cause := match (s.obj f i).poison with | some (_, x, _) => BitVec.ofNat 8 x | none => 0
  let s := s.modObj f i fun o => { o with log := o.log.set (p - o.base) { c with cx := none } }
  match c.cx with
  | some x => if s.alive x c.serial then trapAt x c.pc (slotBit c.slot) 0x0C cause 0 (s.nextPc x) s else s
  | none => s

/-- Whether the engine of a die has work in an object: a position that the home has shipped, which is one whose stamp the
frontier of the die covers, or a caller to tell (16 R293, R297, R300). -/
def objWork (s : State) (v : Nat) (o : Obj) : Bool :=
  let p := rd 0 o.applied v
  o.live && match o.log[p - o.base]? with
  | none => false
  | some c => s.covers v c.stamp && match o.poison with
    | none => true
    | some (q, _, _) => decide (p < q) || (decide (p = q) && decide (v = c.fromDie) && !c.wait && c.cx.isSome)

/-- The object that the engine of a die takes next, by 1,024 × function + index: the first with work from the one behind the
last on, in turn (16 R293). -/
def nextObj (s : State) (v : Nat) : Option Nat :=
  let ks := s.fns.flatMap fun f => (f.2.objs.filter fun o => objWork s v o.2).map fun o => f.1 * 1024 + o.1
  (ks.find? fun k => k ≥ (s.vdie v).engObj).orElse fun _ => ks.head?

/-- REPLAY_APPLY: the engine of a die applies the next position of an object. A method that traps poisons the object,
and the engine of the caller's die reports it to a plain ROCALL. -/
def execReplayApply (vdie fn idx : Nat) (s : State) : Out :=
  let o := s.obj fn idx
  let p := rd 0 o.applied vdie
  if vdie ≥ 8 ∨ nextObj s vdie ≠ some (fn * 1024 + idx) then .next s
  else match o.log[p - o.base]? with
    | none => .next s
    | some c =>
      let tell (s : State) : State := if vdie = c.fromDie ∧ !c.wait ∧ c.cx.isSome then poisonCaller fn idx p c s else s
      let s := s.modVdie vdie fun d => { d with engObj := fn * 1024 + idx + 1 }
      match o.poison with
      | some (q, _, _) => if q = p then .next (tell s) else run o p c tell s
      | none => run o p c tell s
where
  /-- Runs position p. -/
  run (o : Obj) (p : Nat) (c : Call) (tell : State → State) (s : State) : Out :=
    let e := (o.method c.m).getD 0
    match runRepaired s fn vdie o e c.args p with
    | (o, .error x) => .next (tell (s.modObj fn idx fun _ => rollBack vdie p { o with poison := some (p, x, c.m) }))
    | (o, .ok (r, held)) =>
      let o := if mRo e then o else commitTo vdie held o
      let o := { o with
        applied := wr 0 o.applied vdie (p + 1)
        results := if c.wait ∧ vdie = c.fromDie then put o.results p (r, stampsTo o (p + 1)) else o.results }
      .next (s.modObj fn idx fun _ => o)

/-- Positions that an RORD with clock C must see: up to the last one that C covers. -/
def needed (o : Obj) (C : Clock) : Nat :=
  (o.log.zip (List.range o.log.length)).foldl (fun q x =>
    if below (clkGet C x.1.fromDie) x.1.seqNo then q else o.base + x.2 + 1) 0

/-- Whether virtual die `v` has a call of an object out, with a stamp up to `c`, that its home has neither appended nor turned
away. -/
def callOut (s : State) (v f i : Nat) (c : Clock) : Bool :=
  (s.pdie (s.phys v)).sent.any fun q => match q.req.op, q.req.loc with
    | .rocall _ _ _ _, .object _ g j =>
      decide (g = f) && decide (j = i) && !q.done && !below (clkGet c v) (clkGet q.req.clk v)
    | _, _ => false

/-- Whether a waiting RORD can be served: the calls that its clock covers are appended, those of its own die and those of
the others that the home knows of, and applied on the die (16 R297). -/
def readReady (s : State) (v : Nat) (r : RoRead) : Bool :=
  match objOf s r.fn (r.handle.setWidth 64) with
  | none => false
  | some (i, o) =>
    !callOut s v r.fn i r.clk && (List.range 8).all (fun f => decide (f = v) || !below (s.front o.home f) (clkGet r.clk f)) &&
      decide (needed o r.clk ≤ rd 0 o.applied v)

/-- Whether a waiting RORD is stuck until a repair: it needs a position at or above the poisoned one (16 R300). Later ones do not
wait for it (16 R293). -/
def readStuck (s : State) (v : Nat) (r : RoRead) : Bool :=
  match objOf s r.fn (r.handle.setWidth 64) with
  | none => true
  | some (_, o) => match o.poison with
    | some (p, _, _) => decide (p < needed o r.clk) && decide (rd 0 o.applied v ≤ p)
    | none => false

/-- RORD_SERVE: waiting RORD `k` of a die, the first that arrived of those that a repair need not free first, runs on the die's
copy. One whose context has halted or gone is dropped; one whose method a repair has meanwhile taken away, or made mutating, traps
(16 R297). -/
def execRordServe (die k : Nat) (s : State) : Out :=
  let rs := (s.vdie die).roReads
  match rs[k]? with
  | none => .next s
  | some r =>
    let gone := s.modVdie die fun d => { d with roReads := d.roReads.eraseIdx k }
    let trapped (x : Nat) : Out := .next (trapAt r.cx r.pc (slotBit r.slot) 0x0C (BitVec.ofNat 8 x) 0 (s.nextPc r.cx) gone)
    if !s.runs r.cx r.serial then .next gone
    else if (rs.take k).any (fun q => s.runs q.cx q.serial && !readStuck s die q) || !readReady s die r then .next s
    else
      match objOf s r.fn (r.handle.setWidth 64) with
        | none => .next gone
        | some (i, o) =>
          let q := rd 0 o.applied die
          let e := (o.method r.m).getD 0
          if (o.method r.m).isNone || !mRo e then trapped 0
          else match runRepaired s r.fn die o e r.args q with
          | (_, .error x) => trapped x
          | (o, .ok (x, _)) =>
            let s := mergeClock die (stampsTo o q) (gone.modObj r.fn i fun _ => o)
            .next (onCtx r.cx (fun s => (wS s (BitVec.ofNat 6 r.dest) x).mod fun c => { c with waitKey := some 1 }) s)

/-- RORD: the read waits at its die's engine; `waitKey` 1 says that it is served. -/
def execRord (d a m : BitVec 6) (s : State) : Out :=
  notElided s fun s =>
    let h := rS s a
    let v := s.myVdie
    let bad : Out := .next (trap 0x0C 0 0 (s.mod fun c => { c with waitKey := none }))
    if s.me.waitKey = some 1 then .next (s.mod fun c => { c with waitKey := none })
    else match objOf s s.myFn h with
      | none => bad
      | some (_, o) => match s.me.waitKey with
        | some _ => waitFor (.rord d a m) s
        | none =>
          match o.method m.toNat with
          | none => bad
          | some e =>
            if !mRo e then bad
            else if s.readsOpen then waitFor (.rord d a m) s
            else
              let c := s.me
              let r : RoRead := { cx := s.cur, serial := c.serial, fn := s.myFn, handle := h.setWidth 32, m := m.toNat,
                                  args := callArgs s d, clk := (s.vdie v).clock, dest := d.toNat, pc := c.iss.pc, slot := c.iss.slot }
              waitFor (.rord d a m) ((s.modVdie v fun x => { x with roReads := x.roReads ++ [r] }).mod
                fun c => { c with waitKey := some 0 })

/-! ### The remaining forms (16 R298, R299) -/

/-- Frees an object: its log, copies and waiting reads go (16 R298). -/
def freeObj (f i : Nat) (s : State) : State :=
  let o := s.obj f i
  let s := s.modObj f i fun o => { gen := o.gen }
  { s with vdies := mapVals (fun _ d => { d with roReads := d.roReads.filter fun r =>
      !(r.fn = f ∧ r.handle = objHandle i o) }) s.vdies }

/-- ROFREE. No method runs between two steps. -/
def execRofree (a : BitVec 6) (s : State) : Out :=
  notElided s fun s => match objOf s s.myFn (rS s a) with
    | none => .next (trap 0x0C 0 0 s)
    | some (i, _) => .next (freeObj s.myFn i s)

/-- ROTRIM: the home collects every A_d at once. -/
def execRotrim (a : BitVec 6) (s : State) : Out :=
  notElided s fun s => match objOf s s.myFn (rS s a) with
    | none => .next (trap 0x0C 0 0 s)
    | some (i, o) =>
      let k := objKey s.myFn i o.gen
      .next (trimHome o.home (s.modVdie o.home fun d => { d with
        appliedOf := (List.range 8).foldl (fun m x => put m (2 ^ 40 * x + k) (rd 0 o.applied x)) d.appliedOf }))

/-- ROQ: POS, FILL, CAUSE, METHOD, STATE. -/
def execRoq (d a : BitVec 6) (s : State) : Out :=
  notElided s fun s => match objOf s s.myFn (rS s a) with
    | none => .next (wS s d 3)
    | some (_, o) =>
      let word (pos cause m st : Nat) : Word :=
        BitVec.ofNat 64 (pos % 2 ^ 32 * 2 ^ 32 + o.log.length * 2 ^ 15 + cause * 2 ^ 10 + m * 2 ^ 4 + st)
      .next (wS s d (match o.poison with
        | none => word (rd 0 o.applied s.myVdie) 0 0 0
        | some (p, c, m) => word p c m 1))

/-- RORET outside a replay engine. -/
def execRoret (a : BitVec 6) (s : State) : Out :=
  let _ := rS s a
  notElided s fun s => .next (trap 0x0C 0 0 s)

/-! ### ROMK (16 R288 to R290) -/

/-- Fields of a descriptor. -/
def oHome (ws : List Word) : Nat := ((ws.getD 1 0).extractLsb' 56 3).toNat
def oLog (ws : List Word) : Nat := ((ws.getD 1 0).extractLsb' 48 5).toNat
def oMeths (ws : List Word) : Nat := ((ws.getD 1 0).extractLsb' 17 6).toNat + 1
def oSize (ws : List Word) : Nat := ((ws.getD 1 0).extractLsb' 0 17).toNat
def oRepair (ws : List Word) : Bool := (ws.getD 3 0).getLsbD 63
def oSkip (ws : List Word) : Bool := (ws.getD 3 0).getLsbD 62

/-- Checks of R290 on the descriptor's fields. -/
def objOk (ws : List Word) : Bool :=
  let w := ws.getD 1 0
  decide (w.extractLsb' 59 5 = 0) && decide (w.extractLsb' 53 3 = 0) && decide (w.extractLsb' 23 25 = 0)
  && decide ((ws.getD 3 0).extractLsb' 32 30 = 0) && decide (8 ≤ oLog ws) && decide (oLog ws ≤ 16)
  && decide (64 ≤ oSize ws) && decide (oSize ws ≤ 65536) && decide (oSize ws % 64 = 0)
  && (oRepair ws || decide ((ws.getD 3 0).extractLsb' 0 32 = 0))

/-- A method entry without reserved bits. -/
def methOk (e : Word) : Bool := decide (e.extractLsb' 60 3 = 0) && decide (e.extractLsb' 1 3 = 0)

/-- Copies of an image on all dies. -/
def fillCopies (img : List Byte) : PMap Byte :=
  (List.range 8).foldl (fun m d => (img.zip (List.range img.length)).foldl (fun m b => wr 0 m (2 ^ 16 * d + b.2) b.1) m) []

/-- Lowest free index of an object table. -/
def freeIdx (f : Fn) : Nat → Nat → Option Nat
  | 0, _ => none
  | n + 1, i => if (rd {} f.objs i).live then freeIdx f n (i + 1) else some i

/-- The object that a repair descriptor names. -/
def repairOf (s : State) (ws : List Word) : Option (Nat × Obj) :=
  match objOf s s.myFn ((ws.getD 3 0).extractLsb' 0 32 |>.setWidth 64) with
  | some (i, o) =>
    if o.poison.isSome ∧ o.home = oHome ws ∧ o.logLog2 = oLog ws ∧ o.ssize = oSize ws then some (i, o) else none
  | none => none

/-- Whether a caller has still to take the trap of a poisoned position: the task of a plain ROCALL of it, or one that waits in a
ROCALL.w of it or of a later position (16 R300). A repair comes after them. -/
def poisonOwed (s : State) (o : Obj) (p : Nat) : Bool :=
  ((o.log.zip (List.range o.log.length)).drop (p - o.base)).any fun x => match x.1.cx with
    | some i => (x.1.wait || decide (o.base + x.2 = p)) && s.alive i x.1.serial && (s.ctx i).task.isSome
    | none => false

/-- ROMK. -/
def execRomk (d aa : BitVec 6) (s : State) : Out :=
  notElided s fun s => privileged s fun s =>
    recordForm (.romk d aa) (rA s aa.toNat) 8 32 (fun ws s =>
      if !objOk ws then .next (wS s d 0)
      else recordForm (.romk d aa) (ws.getD 0 0) 64 (oSize ws) (fun img s =>
        let bytes := bytesOfWords img
        recordForm (.romk d aa) (ws.getD 2 0) 8 (8 * oMeths ws) (fun ms s =>
          let f := s.myFn
          if oRepair ws then
            match repairOf s ws with
            | none => .next (wS s d 0)
            | some (i, o) =>
              let p := match o.poison with | some x => x.1 | none => 0
              if !ms.all methOk then .next (wS s d 0)
              else if ((List.range 8).any fun v => decide (rd 0 o.applied v ≠ p)) || poisonOwed s o p then waitFor (.romk d aa) s
              else
                let at_ := if oSkip ws then p + 1 else p
                let o := { o with poison := none, meths := ms, copies := fillCopies bytes, bad := [],
                                  applied := (List.range 8).foldl (fun m x => wr 0 m x at_) o.applied }
                .next (wS (s.modObj f i fun _ => o) d ((objHandle i o).setWidth 64))
          else if !ms.all methOk then .next (wS s d 0)
          else match freeIdx (s.fn f) 1024 0 with
            | none => .next (wS s d 0)
            | some i =>
              let o : Obj := { live := true, gen := ((s.obj f i).gen + 1) % 2 ^ 16, home := oHome ws, logLog2 := oLog ws,
                               ssize := oSize ws, meths := ms, copies := fillCopies bytes }
              .next (wS (s.modObj f i fun _ => o) d ((objHandle i o).setWidth 64))) s) s) s

end Sys2Proof.Machine
end

