-- ==== Sys2Proof/Machine/Recovery.lean ====
section
/-!
DEFINITION. Recovery: the halt at a die, save areas, pre-emption, ERET and the other system forms, soft errors and
the remap of virtual dies (23 R359 to R379, 01 R13, R17).
-/
namespace Sys2Proof.Machine
open Store

/-! ### The end of a halted task (23 R361) -/

/-- The task of a halted context ends: its request lapses, its resources go, its repeat with them, and ERET will find it. -/
def endHalted (i : Nat) (s : State) : State :=
  let c := s.ctx i
  match c.task with
  | none => s
  | some t =>
    let s := putAway i t (leaveAsks i t.fn (lapse i s))
    let s := s.modCore (coreOf i) fun k =>
      { k with cls := k.cls.map fun x => if x.cx = i ∧ x.serial = c.serial ∧ x.accepted then { x with halted := true } else x,
               readyQ := k.readyQ.filter (· ≠ i) }
    dropTask i (s.modFn t.fn fun g => { g with haltedTasks := g.haltedTasks ++ [t] })

/-- A context stops by the halt line: its record, unless it has one, and the end of its task. -/
def haltCtx (i : Nat) (s : State) : State :=
  let c := s.ctx i
  match c.task with
  | none => s
  | some t =>
    if c.mode = .halted then endHalted i s
    else endHalted i (s.modFn t.fn (addRec (ctxRec s i 0 0 0 (s.nextPc i))))

/-- A started job of an engine stops where it is: the bytes already written remain. -/
def stopJob (v : Nat) (n : Node) (s : State) : State := s.modNode v n.id fun n => { n with done := true, stopped := true }

/-- An engine of a die stops every job of a function, with one stop record. -/
def stopEngine (v f eng : Nat) (s : State) : State :=
  let js := (s.vdie v).nodes.filter fun n =>
    decide (n.fn = f) && n.started && !n.done && decide (engineOf n.kind = eng) && decide (n.kind ≠ .launch) && decide (n.kind ≠ .treeOp)
  match js with
  | [] => s
  | n :: _ => js.foldl (fun s n => stopJob v n s) (s.modFn f (addRec (engRec s v n 0 0 0)))

/-- Contexts of a function on a virtual die. -/
def ctxsOf (s : State) (v f : Nat) : List Nat :=
  (span (64 * s.phys v) 64).filter fun i => match (s.ctx i).task with | some t => decide (t.fn = f) | none => false

/-- HALT_LINE_ARRIVE: the units of a function on a die stop. Where the line has already been, only contexts that have
trapped since then end. -/
def execHaltLineArrive (vdie fn : Nat) (s : State) : Out :=
  let f := s.fn fn
  if !f.halted then .next s
  else if f.haltDies.contains vdie then
    let s := (ctxsOf s vdie fn).foldl (fun s i => haltCtx i s) s
    let s := stopEngine vdie fn 1 (stopEngine vdie fn 0 s)
    .next (s.modFn fn fun g => { g with haltDies := g.haltDies.filter (· ≠ vdie) })
  else .next ((ctxsOf s vdie fn).foldl (fun s i => if (s.ctx i).mode = .halted then endHalted i s else s) s)

/-! ### TRAP, SYSC, STRD (23 R371 to R373) -/

/-- TRAP. -/
def execTrap (c : BitVec 6) (s : State) : Out := .next (trap 0x0F (c.setWidth 8) 0 s)

/-- The image that runs. -/
def runningImage (s : State) : List Byte := if s.hub.bootB then s.hub.slotB.1 else s.hub.slotA.1

/-- SYSC of service 0, or of one that does not exist. -/
def execSyscVersion (d a : BitVec 6) (svc : BitVec 14) (s : State) : Out :=
  let _ := rS s a
  .next (wS s d (if svc = 0 then Config.imageVersion (runningImage s) else BitVec.allOnes 64))
/-- SYSC #1. -/
def execSyscModuleId (d a : BitVec 6) (s : State) : Out :=
  let _ := rS s a
  .next (wS s d (s.hub.modid.setWidth 64))
/-- SYSC #2: a vector of the function's table of 64 for the PF and 32 for a VF (21 R407). -/
def execSyscMsix (d a : BitVec 6) (s : State) : Out :=
  let v := ((rS s a).extractLsb' 0 8).toNat
  if v < (if s.myFn = 0 then 64 else 32) then .next (wS (s.send [.msix s.myFn v]) d 0)
  else .next (wS s d (BitVec.allOnes 64))
/-- SYSC #3. -/
def execSyscLog (d a : BitVec 6) (s : State) : Out :=
  .next (wS (s.modFn s.myFn fun g => { g with getlog := g.getlog ++ [rS s a] }) d 0)
/-- STRD. -/
def execStrd (d a : BitVec 6) (s : State) : Out :=
  privileged s fun s =>
    let x := rS s a
    let r := (s.fn s.myFn).recs.getD (x.extractLsb' 3 13).toNat []
    .next (wS s d (r.getD (x.extractLsb' 0 3).toNat 0))

/-! ### TLBI (23 R374) -/

/-- Drops entries of the executing context's function from the covered caches. -/
def dropTlb (all : Bool) (p : TlbEntry → Bool) (s : State) : State :=
  let cov (k : Nat) : Bool := all || decide (k / 16 = dieOf s.cur)
  { s with cores := mapVals (fun k c =>
      if cov k then { c with tlb := c.tlb.filter fun e => !(e.fn = s.myFn ∧ p e) } else c) s.cores }

/-- Whether a walk of the function that began by CYCLE_G `since` is under way on a covered die. -/
def walksSince (all : Bool) (since : Nat) (s : State) : Bool :=
  (if all then List.range 8 else [dieOf s.cur]).any fun d =>
    (s.pdie d).walks.any fun w => decide (w.fn = s.myFn) && decide (w.at_ ≤ since)

/-- Drops entries, and waits for the walks of the function that began before: what they bring goes as well. `waitKey` holds
the CYCLE_G of the form. -/
def tlbiForm (i : Instr) (all : Bool) (p : TlbEntry → Bool) (s : State) : Out :=
  privileged s fun s =>
    let since := s.me.waitKey.getD s.cycleG
    let s := dropTlb all p s
    if walksSince all since s then waitFor i (s.mod fun c => { c with waitKey := some since })
    else .next (if s.me.waitKey.isNone then s else s.mod fun c => { c with waitKey := none })

/-- TLBI of one page or block. -/
def execTlbiPage (src : BitVec 6) (all : Bool) (s : State) : Out :=
  let a := (rA s src.toNat).toNat
  tlbiForm (.tlbiPage src all) all (fun e =>
    inWindow .device a && (if e.block then decide (e.va / 2 ^ 27 = a / 2 ^ 27) else decide (e.va / 2 ^ 16 = a / 2 ^ 16))) s
/-- TLBI of every entry; aS is not read. -/
def execTlbiAll (src : BitVec 6) (all : Bool) (s : State) : Out :=
  tlbiForm (.tlbiAll src all) all (fun _ => true) s

/-! ### The save area (23 R369) -/

/-- A bit at a place. -/
def bitNat (b : Bool) (i : Nat) : Nat := if b then 2 ^ i else 0

/-- Bytes of a word given as a number. -/
def w8 (x : Nat) : List Byte := toBytes 8 x

/-- Predicates p(lo) to p(lo + n − 1) as bits; p0 reads true. -/
def predBits (r : Regs) (lo n : Nat) : Nat :=
  (span lo n).foldl (fun m i => m + bitNat (decide (i = 0) || rd false r.p i) (i - lo)) 0

/-- The loop fields of counter `l`. -/
def loopBytes (c : Ctx) (l : Nat) : List Byte :=
  let lc := (rd 0 c.regs.lc l).toNat
  match c.loops.find? fun x => x.lc = l with
  | some x => w8 (2 ^ 63 + (x.len - 1) * 2 ^ 32 + lc) ++ w8 x.trip ++ w8 x.body.toNat ++ w8 0
  | none => w8 lc ++ w8 0 ++ w8 0 ++ w8 0

/-- The fixed part of a save area. -/
def areaFixed (c : Ctx) (t : Task) (i : Nat) (reason : Nat) (pc : Word) (wk : List Nat) : List Byte :=
  let m := c.mat
  let armed := match m.armed with
    | none => 0
    | some r => 2 ^ 63 + r.n * 2 ^ 48 + r.g.toNat * 2 ^ 34 +
        (match r.x with | some x => 2 ^ 47 + x * 2 ^ 42 | none => 0) + (match r.y with | some y => 2 ^ 41 + y * 2 ^ 36 | none => 0)
  let bind := match m.bind with | some (l, b) => b * 2 ^ 12 + l * 2 ^ 10 + 2 ^ 9 | none => 0
  let breg := match m.bBind with | some r => r * 2 ^ 17 + 2 ^ 16 | none => 0
  let bar := match c.barRec with | some (a, p) => (a.toNat, 2 ^ 63 + p.toNat * 2 ^ 32) | none => (0, 0)
  w8 (2 ^ 56 + t.fn * 2 ^ 52 + bitNat t.priv 51 + t.vdie * 2 ^ 48 + t.vcore * 2 ^ 44 + i % 4 * 2 ^ 42 + t.zacc * 2 ^ 39
    + t.lslots * 2 ^ 32 + t.mwin * 2 ^ 18 + reason * 2 ^ 16) ++
  w8 pc.toNat ++ w8 (t.n * 2 ^ 32 + t.lnch.toNat) ++ w8 (t.y * 2 ^ 32 + t.x) ++ w8 t.z ++ w8 t.lflags.toNat ++
  w8 (c.slackLeft * 2 ^ 28 + c.aborts * 2 ^ 25 + m.depth * 2 ^ 22 + breg + bind + bitNat c.pbank 8 + c.astat.toNat % 256) ++
  w8 armed ++ w8 bar.1 ++ w8 (bar.2 + c.rredSeg % 2 ^ 32) ++ w8 (~~~ c.regs.dead).toNat ++ w8 c.trapPC.toNat ++
  w8 (c.trapMask.toNat * 256 + c.trapCode.toNat) ++ w8 (predBits c.regs 0 64) ++ w8 (predBits c.regs 64 32) ++ w8 0 ++
  (List.range 4).flatMap (loopBytes c) ++
  (List.range 64).flatMap (fun n => w8 (rd 0 c.regs.s n).toNat) ++ (List.range 32).flatMap (fun n => w8 (rd 0 c.regs.a n).toNat) ++
  (List.range 16).flatMap (fun n => toBytes 16 (rd 0 c.regs.k n).toNat) ++
  (List.range 16).flatMap (fun n => w8 (rd 0x2011 m.ft n).toNat) ++
  wk.flatMap w8 ++ List.replicate 0x60 (0 : Byte) ++
  (List.range 4).flatMap (fun j => toBytes 128 (stageAt m j).toNat) ++
  (List.range 64).flatMap (fun k => w8 (rd 0 c.shadow k).toNat) ++ toBytes 256 c.failMap.toNat ++ List.replicate 0x500 (0 : Byte)

/-- The variable part: patterns, operand file, tiles, main-file rows. A pattern that a PATLD of another context has still on its
way counts as written: 07 R144 has a save wait for the results of earlier bundles alone. DESIGN CHOICE, log 41. -/
def areaRest (k : Core) (c : Ctx) (t : Task) : List Byte :=
  let pats := k.patNext.foldl (fun m p => wr 0 m p.2.2.1 p.2.2.2) k.pats
  (List.range 64).flatMap (fun e => toBytes 128 (rd 0 pats e).toNat) ++
  (List.range 32).flatMap (fun n => toBytes 128 (if c.regs.dead.getLsbD n then 0 else (rd 0 c.regs.v n).toNat)) ++
  (List.range (128 * t.zacc)).flatMap (fun r => toBytes 1536 (tileRow c.mat (r / 128) (r % 128)).toNat) ++
  (List.range t.mwin).flatMap fun r => toBytes 128 (mainRow c.mat c.mat.main r).toNat

/-- Poisoned registers, rows and tiles that a save of a context reads; a killed register reads zero (23 R365). -/
def areaPoison (c : Ctx) (t : Task) : List Nat :=
  c.regPoison.filter fun k =>
    (decide (k < keyV 0) || (decide (k < keyLc 0) && !c.regs.dead.getLsbD (k - keyV 0)) || (decide (keyLc 0 ≤ k) && decide (k < keyZ 0)) ||
      (decide (keyZ 0 ≤ k) && decide (k < keyZ t.zacc)) || (decide (keyM 0 ≤ k) && decide (k < keyM t.mwin)))

/-- Writes a save area of context `i` with state `c`, or answers the fault with its DETAIL and its address. -/
def writeArea (i : Nat) (c : Ctx) (t : Task) (reason : Nat) (pc : Word) (wk : List Nat) (a : Word) (s : State) :
    Except (BitVec 8 × BitVec 8 × Word) State :=
  match areaPoison c t with
  | k :: _ => .error (0x10, poisonKind k, 0)
  | [] =>
    let bs := areaFixed c t i reason pc wk ++ areaRest (s.core (coreOf i)) c t
    (writeBlock t.fn t.vdie (coreOf i) a bs s).mapError fun e =>
      (e, walkDetail e, s.faultAt t.fn t.vdie (coreOf i) a .write bs.length)

/-- What a save waits for (23 R367 step 2, 07 R144, 08 R163, 10 R189), and the reduce-stores to other modules, whose homes
the report of the task's end must reach after them (10 R192). -/
def drained (s : State) (i : Nat) : Bool :=
  let c := s.ctx i
  let mine (r : Req) : Bool := decide (r.cx = some i) && decide (r.serial = c.serial)
  let p := s.pdie (dieOf i)
  c.landings.isEmpty && !holdsPort c && c.hold.isNone && c.fences.isEmpty &&
  !p.sent.any (fun q => mine q.req && !q.given && (decide (q.req.dest ≠ .none) || (q.req.op.reads && q.req.loc.other.isSome))) &&
  !p.walks.any (fun w => mine w.req && decide (w.req.dest ≠ .none))

/-- Whether the links are up to every page of a save area (01 R11). -/
def areaLinked (s : State) (i : Nat) (t : Task) (a : Word) : Bool :=
  s.linkedTo (dieOf i) t.fn t.vdie (coreOf i) a .write (0x4000 + t.zacc * 0x30000 + t.mwin * 128)

/-- CTXSV. The area holds what slots 0 to 2 of its own bundle have written, last-use kills and PATSW among them: 23 R375 and 07
R144 speak of earlier bundles alone. DESIGN CHOICE, log 41. -/
def execCtxsv (src : BitVec 6) (s : State) : Out :=
  notElided s fun s => privileged s fun s =>
    let a := rA s src.toNat
    blockAddr a (fun s =>
      if !drained s s.cur || !s.quiet || !s.mayStore s.myVdie || !(s.me.task.map fun t => areaLinked s s.cur t a).getD true then
        waitFor (.ctxsv src) s
      else match s.me.task with
        | none => .next s
        | some t =>
          let c := endFlow s.me
          match writeArea s.cur c t 0 c.pc [0, 0, 0, 0] a s with
          | .error (e, d, x) => .next (trap e d x s)
          | .ok s => .next s) s

/-! ### CTXLD (23 R376) -/

/-- A word of an area. -/
def areaW (bs : List Byte) (o : Nat) : Word := BitVec.ofNat 64 (ofBytes ((bs.drop o).take 8))
/-- A field of a word of an area. -/
def areaF (bs : List Byte) (o lo n : Nat) : Nat := ((areaW bs o).extractLsb' lo n).toNat

/-- Bits of the word at an offset of the fixed part that R369 gives a meaning. -/
def areaMask (o : Nat) : Word :=
  if o = 0 then 0xFFFFFFFFFFFF0000#64
  else if o = 0x20 ∨ o = 0x50 ∨ o = 0x70 ∨ o = 0x598 then 0xFFFFFFFF#64
  else if o = 0x30 then 0x3FFFFFFFFFF#64
  else if o = 0x38 then 0x9FFFFFFC00000000#64
  else if o = 0x48 then 0x8000FFFFFFFFFFFF#64
  else if o = 0x60 then 0xFFFF#64
  else if o = 0x78 then 0
  else if o < 0x80 then BitVec.allOnes 64
  else if o < 0x100 then
    match o % 32 with | 0 => 0x8000003FFFFFFFFF#64 | 8 => 0xFFFFFFFF#64 | 16 => BitVec.allOnes 64 | _ => 0
  else if o = 0x580 then 0x8003FFFFFFFFFFFF#64
  else if o < 0x5A0 then BitVec.allOnes 64
  else if o < 0x600 then 0
  else if o < 0xB00 then BitVec.allOnes 64
  else 0

/-- The first check of R376 that an area fails. -/
def areaReject (s : State) (t : Task) (bs : List Byte) : Option (BitVec 8) :=
  let f := areaF bs 0
  if f 56 8 ≠ 1 ∨ f 16 2 = 3 ∨ (List.range 512).any (fun k => areaW bs (8 * k) &&& ~~~ areaMask (8 * k) ≠ 0) then some 0x40
  else if f 55 1 = 1 then some 0x41
  else if f 52 3 ≠ s.myFn ∨ (f 51 1 = 1 ∧ areaF bs 0x28 30 1 = 0) then some 0x42
  else if f 48 3 ≠ t.vdie ∨ f 44 4 ≠ t.vcore then some 0x43
  else if f 39 3 > t.zacc ∨ f 32 7 > t.lslots ∨ f 18 14 > t.mwin then some 0x44
  else none

/-- Size of an area by its first word. -/
def areaSize (bs : List Byte) : Nat := 0x4000 + areaF bs 0 39 3 * 0x30000 + areaF bs 0 18 14 * 128

/-- CTXLD: the area is read and staged for ERET. -/
def execCtxld (src : BitVec 6) (s : State) : Out :=
  notElided s fun s => privileged s fun s =>
    let a := rA s src.toNat
    blockAddr a (fun s =>
      if !s.quiet || !(s.me.task.map fun t => s.linkedTo (dieOf s.cur) t.fn t.vdie (coreOf s.cur) a .read 0x1000).getD true then
        waitFor (.ctxld src) s
      else match s.me.task with
        | none => .next s
        | some t =>
          let get (n : Nat) := s.agentRead t.fn t.vdie (coreOf s.cur) a n
          let bad (e : BitVec 8) (n : Nat) : Out :=
            .next (trap e (if e = 0x10 then 3 else 0) (s.faultAt t.fn t.vdie (coreOf s.cur) a .read n) s)
          match get 0x1000 with
          | .error e => bad e 0x1000
          | .ok hd => match areaReject s t hd with
            | some d => .next (trap 0x0F d 0 s)
            | none => match get (areaSize hd) with
              | .error e => bad e (areaSize hd)
              | .ok bs => .next (s.mod fun c => { c with staged := some (a, bs) })) s

/-! ### ERET (23 R377) -/

/-- Values of a partial map read from an area. -/
def areaMap {α : Type} [DecidableEq α] (d : α) (n : Nat) (f : Nat → α) : PMap α :=
  (List.range n).foldl (fun m k => wr d m k (f k)) []

/-- Number of `n` bytes of an area. -/
def areaN (bs : List Byte) (o n : Nat) : Nat := ofBytes ((bs.drop o).take n)

/-- Active loops of an area, innermost first: a body inside another starts later. -/
def areaLoops (bs : List Byte) : List Loop :=
  let rec ins (x : Loop) : List Loop → List Loop
    | [] => [x]
    | y :: ys => if y.body.toNat < x.body.toNat then x :: y :: ys else y :: ins x ys
  (List.range 4).foldl (fun l c =>
    let o := 0x80 + 32 * c
    if areaF bs o 63 1 = 1 then ins ⟨c, areaW bs (o + 16), areaF bs o 32 6 + 1, areaF bs (o + 8) 0 32⟩ l else l) []

/-- The record words of a launch on a die. -/
def launchWords (s : State) (v : Nat) (id : BitVec 32) : List Word := match s.node v id with | some n => n.words | none => []

/-- The task of an area. -/
def areaTask (s : State) (bs : List Byte) : Task :=
  let f := areaF bs 0
  let id := BitVec.ofNat 32 (areaF bs 0x10 0 32)
  let ws := launchWords s (f 48 3) id
  { fn := f 52 3, priv := decide (f 51 1 = 1), vdie := f 48 3, vcore := f 44 4, x := areaF bs 0x18 0 32, y := areaF bs 0x18 32 32,
    z := areaF bs 0x20 0 32, n := areaF bs 0x10 32 32, lnch := id, lflags := areaW bs 0x28, zacc := f 39 3, lslots := f 32 7,
    mwin := f 18 14, entry := ws.getD 0 0, param := ws.getD 1 0, fmtimg := lFmtimg ws }

/-- The state of a context whose area is restored. -/
def areaCtx (s : State) (bs : List Byte) (serial : Nat) : Ctx :=
  let t := areaTask s bs
  let f := areaF bs 0x30
  let r := areaF bs 0x38
  let mt := 0x4000 + t.zacc * 0x30000
  let live := BitVec.ofNat 32 (areaF bs 0x50 0 32)
  { mode := .run, serial := serial, pc := areaW bs 8, task := some t, loops := areaLoops bs,
    regs := {
      s := wr 0 (areaMap 0 64 fun n => areaW bs (0x100 + 8 * n)) 0 0
      a := areaMap 0 32 fun n => areaW bs (0x300 + 8 * n)
      p := areaMap false 96 fun n =>
        n ≠ 0 && (if n < 64 then (areaW bs 0x68).getLsbD n else (areaW bs 0x70).getLsbD (n - 64))
      k := areaMap 0 16 fun n => BitVec.ofNat 128 (areaN bs (0x400 + 16 * n) 16)
      v := areaMap 0 32 fun n => BitVec.ofNat 1024 (areaN bs (0x3000 + 128 * n) 128)
      dead := ~~~ live
      lc := areaMap 0 4 fun c => BitVec.ofNat 32 (areaF bs (0x80 + 32 * c) 0 32) }
    mat := {
      ft := areaMap 0x2011 16 fun n => areaW bs (0x500 + 8 * n)
      bind := if f 9 1 = 1 then some (f 10 2, f 12 4) else none
      stage := (List.range (Nat.min 4 (f 22 3))).map fun j => (j, BitVec.ofNat 1024 (areaN bs (0x600 + 128 * j) 128))
      depth := f 22 3
      bBind := if f 16 1 = 1 then some (f 17 5) else none
      armed := if r 63 1 = 1 then
        some ⟨r 48 13, if r 47 1 = 1 then some (r 42 5) else none, if r 41 1 = 1 then some (r 36 5) else none, BitVec.ofNat 2 (r 34 2)⟩
        else none
      tiles := (List.range (128 * t.zacc)).map fun k => (k, BitVec.ofNat 12288 (areaN bs (0x4000 + 1536 * k) 1536))
      main := (List.range t.mwin).map fun k => (k, BitVec.ofNat 1024 (areaN bs (mt + 128 * k) 128))
      seed := s.freeCtr }
    astat := BitVec.ofNat 64 (f 0 8), pbank := decide (f 8 1 = 1), slackLeft := f 28 14, aborts := f 25 3,
    trapPC := areaW bs 0x58, trapCode := BitVec.ofNat 8 (areaF bs 0x60 0 8), trapMask := BitVec.ofNat 8 (areaF bs 0x60 8 8),
    shadow := areaMap 0 64 fun k => areaW bs (0x800 + 8 * k),
    failMap := BitVec.ofNat 2048 (areaN bs 0xA00 256),
    barRec := if areaF bs 0x48 63 1 = 1 then some (areaW bs 0x40, BitVec.ofNat 16 (areaF bs 0x48 32 16)) else none,
    rredSeg := areaF bs 0x48 0 32 }

/-- Reinstalls a saved walker whose launch is unretired (14 R255). -/
def areaWalker (bs : List Byte) (s : State) : State :=
  let t := areaTask s bs
  if areaF bs 0x580 63 1 = 0 then s
  else
    let again (w : Walker) : Walker :=
      if w.lnch = BitVec.ofNat 32 (areaF bs 0x580 0 32) ∧ w.vcore = t.vcore ∧ w.away then
        { w with next := areaF bs 0x588 0 32, end_ := areaF bs 0x588 32 32, qnext := areaF bs 0x590 0 32,
                 qend := areaF bs 0x590 32 32, splits := areaF bs 0x598 0 32, away := false }
      else w
    s.modVdie t.vdie fun d => { d with walkers := d.walkers.map again }

/-- A halted task at ERET: its coordinate is issued again, or it counts as exited. -/
def settleHalted (t : Task) (s : State) : State :=
  if t.lflags.getLsbD 28 then
    (s.modNode t.vdie t.lnch fun n => { n with live := n.live - 1 }).modVdie t.vdie fun d =>
      { d with walkers := d.walkers.map fun w =>
          if w.lnch = t.lnch ∧ w.vcore = t.vcore then { w with again := w.again ++ [t.n] } else w }
  else
    let w := awayOf s t.fn t.lnch t.n
    leaveLaunch t 1 ((s.vcorePhys t.fn t.vdie t.vcore).getD (16 * s.phys t.vdie)) w.homes w.cx w.po
      (takeAway t.fn t.lnch t.n s)

/-- CLNESTs of tasks that the halt ended are cancelled (24 R388). -/
def cancelHalted (f : Nat) (s : State) : State :=
  (s.cores.flatMap fun k => (k.2.cls.filter fun c => c.halted ∧ c.fn = f ∧ !c.alldone).map fun c => (k.1, c.n)).foldl
    (fun s x => cancelNest x.1 f x.2 s) s

/-- THE HALT OF A FUNCTION ENDS (23 R377): of its trees those thaw that a halt froze (24 R382). -/
def clearHalt (f : Nat) (s : State) : State :=
  let g := s.fn f
  if !g.halted then s
  else
    let s := g.haltedTasks.foldl (fun s t => settleHalted t s) s
    let s := { s with vdies := mapVals (fun _ d => { d with nodes := d.nodes.map fun n =>
      if n.fn = f then { n with stopped := false } else n }) s.vdies }
    let s := cancelHalted f s
    let s := s.modFn f fun g => { g with halted := false, recs := [], haltDies := [], haltedTasks := [] }
    ((s.fn f).trees.filter fun t => t.2.valid ∧ t.2.state = 1 ∧ t.2.byHalt).foldl (fun s t =>
      thawTree f t.1 (tellMods none f (handleOf t.1 t.2) .thaw (otherMods s t.2) s)) s

/-- Whether a walker that an area brings back finds a slot. -/
def walkerRoom (s : State) (bs : List Byte) : Bool :=
  decide (areaF bs 0x580 63 1 = 0) || decide (walkersUsed (s.vdie (areaF bs 0 48 3)) < 32)

/-- The issuing context takes the state of its staged area; its own task counts as exited, and the collectives of the restored
task go on (24 R388). A pattern that a PATLD of the context has still on its way does not arrive any more: the spec does not order
it and the restore (07 R144; DESIGN CHOICE, log 41). -/
def restoreArea (bs : List Byte) (s : State) : State :=
  let i := s.cur
  let c := s.me
  let s := match c.task with
    | some t => dropTask i (lapse i (leaveLaunch t c.rredSeg (coreOf i) c.rredAt i c.po s))
    | none => s
  let n := areaCtx s bs ((s.ctx i).serial + 1)
  let t := areaTask s bs
  let s := takeAway t.fn t.lnch t.n (s.setCtx i { n with
    iss := { c.iss with target := some n.pc, boundary := false }, minReady := (s.pdie (dieOf i)).cycle, po := c.po, seen := c.seen,
    rredAt := (awayOf s t.fn t.lnch t.n).homes })
  let s := { s with freeCtr := s.freeCtr + 1 }
  let s := s.modCore (coreOf i) fun k =>
    { k with pats := areaMap 0 64 fun e => BitVec.ofNat 1024 (areaN bs (0x1000 + 128 * e) 128),
             patNext := k.patNext.filter fun p => p.2.1 ≠ i }
  let s := areaWalker bs s
  let back := (s.core (coreOf i)).cls.filter fun x => x.fn = t.fn ∧ x.saved = some (t.lnch, t.n)
  back.foldl (fun s x => sendNest true (coreOf i) x
    (modNest (coreOf i) x.fn x.n (fun d => { d with saved := none, cx := i, serial := (s.ctx i).serial }) s)) s

/-- Whether a context of a function has halted and its task has not ended yet (23 R361). -/
def haltOpen (s : State) (f : Nat) : Bool :=
  s.ctxs.any fun c => decide (c.2.mode = .halted) && match c.2.task with | some t => decide (t.fn = f) | none => false

/-- ERET. It waits for the halt line to have reached every die, for the tasks that it ends, and for a slot of a walker it brings
back. -/
def execEret (s : State) : Out :=
  privileged s fun s =>
    let f := s.fn s.myFn
    let held := f.halted && (!f.haltDies.isEmpty || haltOpen s s.myFn)
    match s.me.staged with
    | none => if held then waitFor .eret s else .next (clearHalt s.myFn s)
    | some (_, bs) =>
      if held || !walkerRoom s bs then waitFor .eret s
      else .next (restoreArea bs (clearHalt s.myFn s))

/-! ### Pre-emption (23 R367, R368, R378, R379) -/

/-- PEMPT. -/
def execPempt (a : BitVec 6) (s : State) : Out :=
  privileged s fun s =>
    let x := rS s a
    if x.extractLsb' 48 16 ≠ 0 ∨ x.extractLsb' 6 6 ≠ 0 then .next s
    else
      let p : Preempt := { area := x &&& 0xFFFFFFFFF000#64, by_ := 16 * s.myVdie + s.myCore, fn := s.myFn,
                           deadline := none, begun := false }
      match s.vcorePhys s.myFn s.myVdie (x.extractLsb' 2 4).toNat with
      | none => .next (lapseReq p s)
      | some core =>
        let i := 4 * core + (x.extractLsb' 0 2).toNat
        let c := s.ctx i
        match c.task with
        | none => .next (lapseReq p s)
        | some t =>
          if t.fn ≠ s.myFn ∨ c.mode = .halted then .next (lapseReq p s)
          else match c.preempt with
            | some q => if q.begun then .next (lapseReq p s)
                        else .next ((lapse i s).setCtx i { (lapse i s).ctx i with preempt := some p })
            | none => .next (s.setCtx i { c with preempt := some p })

/-- IDLE: it ends at an EVSIG of its virtual core or at a pre-emption request; the point after it is a loop boundary. -/
def execIdle (s : State) : Out :=
  privileged s fun s =>
    let c := s.me
    if c.preempt.isSome ∨ c.waitKey = some 1 then
      .next (s.mod fun c => { c with waitKey := none, iss := { c.iss with boundary := true } })
    else waitFor .idle s

/-- Words of the walker record that goes with a context: its launch's walker, when no other context of the core runs
the launch (14 R255). -/
def walkerFor (s : State) (i : Nat) (t : Task) : Option Walker :=
  let others := (span (coreOf i * 4) 4).any fun j => decide (j ≠ i) && match (s.ctx j).task with
    | some u => decide (u.fn = t.fn) && decide (u.lnch = t.lnch) && decide (u.vcore = t.vcore)
    | none => false
  if others then none
  else (s.vdie t.vdie).walkers.find? fun w => decide (w.lnch = t.lnch) && decide (w.vcore = t.vcore) && !w.away

/-- The four words of a walker record. -/
def walkerWords (s : State) (v : Nat) : Option Walker → List Nat
  | none => [0, 0, 0, 0]
  | some w =>
    let ws := launchWords s v w.lnch
    [2 ^ 63 + lOrder ws * 2 ^ 48 + lGran ws * 2 ^ 32 + w.lnch.toNat, w.end_ * 2 ^ 32 + w.next, w.qend * 2 ^ 32 + w.qnext, w.splits]

/-- A written save frees the context, its walker goes with it, and EVSIG #63 reaches the requester. -/
def leaveSaved (i : Nat) (t : Task) (p : Preempt) (w : Option Walker) (s : State) : State :=
  let s := match w with
    | some w => modWalker t.vdie w.lnch w.ordinal (fun w => { w with away := true }) s
    | none => s
  let s := s.setCtx i { s.ctx i with preempt := none }
  let s := putAway i t ((leaveAsks i t.fn s).modCore (coreOf i) fun k => { k with readyQ := k.readyQ.filter (· ≠ i) })
  signal p.fn (p.by_ / 16) (p.by_ % 16) 63 (dropTask i s)

/-- PREEMPT_REQUEST_ARRIVE: the request reaches the core. An elided region aborts with cause 0x05. -/
def execPreemptRequestArrive (cx : Nat) (s : State) : Out :=
  let c := s.ctx cx
  match c.preempt, c.task with
  | some p, some t =>
    if p.deadline.isSome then .next s
    else
      let maxiter := (t.lflags.extractLsb' 40 24).toNat
      let c := abortCtx 0x05 c
      .next (s.setCtx cx { c with preempt := some { p with deadline := some ((s.pdie (dieOf cx)).cycle + maxiter) } })
  | _, _ => .next s

/-- Whether a context stands at a loop boundary at which a request may be taken (06 R114, 16 R298): one of a frozen core does not (23
R368). -/
def atBoundary (s : State) (cx : Nat) : Bool :=
  let c := s.ctx cx
  c.iss.boundary && c.wait.isEmpty && decide (c.mode = .run) && decide (c.region = .none) && !callWaits s cx &&
    !coreFrozen (coreOf cx) s

/-- CLNESTs of the task of context `i` that are not at ALLDONE. -/
def runningNests (s : State) (i : Nat) : List ClState :=
  let c := s.ctx i
  (s.core (coreOf i)).cls.filter fun x => x.accepted && !x.alldone && decide (x.cx = i) && decide (x.serial = c.serial)

/-- Whether the save area of a context can be written: everything is drained, every abort for rerun acknowledged, and the
homes may apply what its die writes next (11 R197). -/
def saveReady (s : State) (i : Nat) : Bool :=
  match (s.ctx i).preempt, (s.ctx i).task with
  | some p, some t => p.begun && drained s i && s.mayStore t.vdie && areaLinked s i t p.area && (runningNests s i).all (rerunAcked s)
  | _, _ => false

/-- Whether a context whose task may start again stands at its deadline and at no loop boundary (23 R368). -/
def dueRestart (s : State) (i : Nat) : Bool :=
  match (s.ctx i).preempt, (s.ctx i).task with
  | some p, some t => !p.begun && t.lflags.getLsbD 28 && !atBoundary s i && match p.deadline with
    | some d => decide (d ≤ (s.pdie (dieOf i)).cycle)
    | none => false
  | _, _ => false

/-- Whether a higher-numbered context of the core, with a task of the same launch, leaves together with context `i`, at a boundary
or at its deadline: it leaves first, so that the walker goes with the lowest-numbered one (14 R255). -/
def leavesBefore (s : State) (i : Nat) (t : Task) : Bool :=
  (span (coreOf i * 4) 4).any fun j => decide (i < j) && (saveReady s j || dueRestart s j) && match (s.ctx j).task with
    | some u => decide (u.fn = t.fn) && decide (u.lnch = t.lnch) && decide (u.vcore = t.vcore)
    | none => false

/-- PREEMPT_SAVE: the request of a context is taken at a loop boundary; once everything is drained and every abort for
rerun acknowledged, the save area is written and the context freed. -/
def execPreemptSave (cx : Nat) (s : State) : Out :=
  let c := s.ctx cx
  match c.preempt, c.task with
  | some p, some t =>
    if p.begun then
      let ns := runningNests s cx
      if !saveReady s cx || leavesBefore s cx t then .next s
      else
        let w := walkerFor s cx t
        match writeArea cx c t 1 c.pc (walkerWords s t.vdie w) p.area s with
        | .error (e, d, x) => .next (trapAt cx c.pc 0 e d x c.pc s)
        | .ok s =>
          let s := ns.foldl (fun s x => modNest (coreOf cx) x.fn x.n (fun d => { d with saved := some (t.lnch, t.n) }) s) s
          .next (leaveSaved cx t p w s)
    else if p.deadline.isSome ∧ atBoundary s cx ∧ !(s.fn t.fn).halted then
      let s := s.setCtx cx { c with mode := .saving, preempt := some { p with begun := true } }
      .next ((runningNests s cx).foldl (fun s x => sendNest false (coreOf cx) x s) s)
    else .next s
  | _, _ => .next s

/-- The entry state of a restartable task, with its format table read again, or the fault of that read and its address.
What belongs to the context stays. -/
def entryCtx (s : State) (i : Nat) (t : Task) : Except (BitVec 8 × Word) Ctx := do
  let old := s.ctx i
  let c : Ctx :=
    { mode := .run, pc := t.entry, task := some t, regs := { a := wr 0 [] 0 t.param }, mat := { seed := s.freeCtr },
      trapPC := old.trapPC, trapCode := old.trapCode, trapMask := old.trapMask, failMap := old.failMap }
  if t.fmtimg = 0 then .ok c
  else
    let ws ← s.agentWords t.fn t.vdie (coreOf i) t.fmtimg 16
    let f := fmtImage ws
    .ok { c with mat := { c.mat with ft := f.1 }, astat := if f.2 then stRcd.setWidth 64 else 0 }

/-- PREEMPT_DEADLINE: no loop boundary by the deadline. A restartable task is saved at its entry; any other context
takes trap 0x0E, and the request lapses. Of several that leave together the highest-numbered one leaves first (14 R255). -/
def execPreemptDeadline (cx : Nat) (s : State) : Out :=
  let c := s.ctx cx
  match c.preempt, c.task with
  | some p, some t => match p.deadline with
    | none => .next s
    | some d =>
      if p.begun ∨ atBoundary s cx ∨ (s.fn t.fn).halted then .next s
      else
        let s := elapseTo (dieOf cx) d s
        if t.lflags.getLsbD 28 then
          match entryCtx s cx t with
          | .error (e, x) => .next (trapAt cx t.entry 0 e (walkDetail e) x (s.nextPc cx) s)
          | .ok e =>
            let w := walkerFor s cx t
            if !s.mayStore t.vdie || !areaLinked s cx t p.area || leavesBefore s cx t then .next s else
            match writeArea cx e t 2 t.entry (walkerWords s t.vdie w) p.area s with
            | .error (e, d, x) => .next (trapAt cx c.iss.pc 0 e d x (s.nextPc cx) s)
            | .ok s => .next (leaveSaved cx t p w { s with freeCtr := s.freeCtr + 1 })
        else .next (lapse cx (trapAt cx c.iss.pc 0 0x0E 1 0 (s.nextPc cx) s))
  | _, _ => .next s

/-! ### Soft errors (23 R365, R366) -/

/-- Adds an entry to a die's soft-error log of 64 entries. -/
def logError (die : Nat) (e : ErrEntry) (s : State) : State :=
  s.modPdie die fun p => { p with errLog := (if p.errLog.length ≥ 64 then p.errLog.drop 1 else p.errLog) ++ [e] }

/-- Word 0 of an entry. -/
def errWord (kind : Nat) (unc : Bool) (core die loc : Nat) : Word :=
  BitVec.ofNat 64 (kind * 2 ^ 60 + bitNat unc 59 + core * 2 ^ 55 + die * 2 ^ 52 + loc % 2 ^ 52)

/-- Place of a key in its storage. -/
def keyOffset (k : Nat) : Nat :=
  match keyKind k with | 3 => k % 2 ^ 36 | 2 => k % 2 ^ 26 | 1 => k % 2 ^ 23 | _ => k % 2 ^ 25

/-- Core of a key, for per-core storage. -/
def keyCore (k : Nat) : Nat :=
  match keyKind k with | 1 => (k - 2 ^ 41) / 2 ^ 23 % 16 | 4 => (k - 2 ^ 42) / 2 ^ 25 % 16 | _ => 0

/-- A register's soft error: an entry of the log, and poison when uncorrected. -/
def regError (unc : Bool) (cx kind loc key : Nat) (s : State) : State :=
  let s := logError (dieOf cx) ⟨errWord kind unc (coreOf cx % 16) (dieOf cx) loc, BitVec.ofNat 64 s.cycleG⟩ s
  let c := s.ctx cx
  if unc ∧ !c.regPoison.contains key then s.setCtx cx { c with regPoison := c.regPoison ++ [key] } else s

/-- ECC_ERROR. -/
def execEccError (loc : EccLoc) (unc : Bool) (s : State) : Out :=
  match loc with
  | .store k =>
    if keyKind k = 0 then .next s
    else
      let g := k / granule k * granule k
      let s := logError (keyDie k) ⟨errWord (keyKind k) unc (keyCore k) (keyDie k) (keyOffset k), BitVec.ofNat 64 s.cycleG⟩ s
      .next (if unc ∧ !s.poison.contains g then { s with poison := s.poison ++ [g] } else s)
  | .copy f i v o =>
    let s := logError (s.phys v) ⟨errWord 3 unc 0 (s.phys v) o, BitVec.ofNat 64 s.cycleG⟩ s
    let k := 2 ^ 16 * v + o / 32 * 32
    .next (if unc ∧ (s.obj f i).live ∧ o < (s.obj f i).ssize then s.modObj f i fun x =>
      { x with bad := if x.bad.contains k then x.bad else x.bad ++ [k] } else s)
  | .operand cx n => .next (regError unc cx 5 n (keyV n) s)
  | .mainRow cx r => .next (regError unc cx 6 r (keyM r) s)
  | .tile cx z => .next (regError unc cx 7 z (keyZ z) s)
  | .landing cx n => .next (regError unc cx 8 n (keyLs n) s)
  | .scalar cx k => .next (regError unc cx 9 k k s)

/-! ### Remap (01 R13, R17) -/

/-- Puts every entry of a store at its moved key. -/
def moveMap {α : Type} (f : Nat → Nat) (m : PMap α) : PMap α := m.foldl (fun q e => put q (f e.1) e.2) []

/-- Physical core whose scratchpad or B-slices a key lies in. -/
def coreOfKey (k : Nat) : Option Nat :=
  match keyKind k with
  | 1 => some ((k - 2 ^ 41) / 2 ^ 23)
  | 4 => some ((k - 2 ^ 42) / 2 ^ 25)
  | _ => none

/-- Moves a key of a core's own storage with its core. -/
def moveCoreKey (mv : Nat → Nat) (k : Nat) : Nat :=
  match coreOfKey k with
  | none => k
  | some j => if keyKind k = 1 then k - j * 2 ^ 23 + mv j * 2 ^ 23 else k - j * 2 ^ 25 + mv j * 2 ^ 25

/-- Moves a storage key between two physical dies, whose cores move by `mv`. -/
def moveKey (mv : Nat → Nat) (x y k : Nat) : Nat :=
  let d := keyDie k
  let to_ := if d = x then y else if d = y then x else d
  match keyKind k with
  | 3 => k - d * 2 ^ 36 + to_ * 2 ^ 36
  | 2 => k - d * 2 ^ 26 + to_ * 2 ^ 26
  | _ => moveCoreKey mv k

/-- Exchanges the parts of two physical dies that belong to their virtual die: what its home holds. -/
def swapHomes (x y : Nat) (s : State) : State :=
  let p := s.pdie x
  let q := s.pdie y
  let take (a b : PDie) : PDie := { a with pend := b.pend, barWaits := b.barWaits, cache := b.cache, rtags := b.rtags }
  (s.modPdie x fun _ => take p q).modPdie y fun _ => take q p

/-- Cores of a partition on a physical die, in increasing order. -/
def dieCores (p : BitVec 128) (d : Nat) : List Nat := (List.range 16).filter fun j => p.getLsbD (16 * d + j)

/-- Virtual cores of a function on virtual die `v`, in increasing order: their keys and their core numbers. -/
def dieVcores (g : Fn) (v : Nat) : List (Nat × Nat) := (g.vmap.filter fun e => e.1 / 16 = v).map fun e => (e.1, e.2 % 16)

/-- What a function's virtual cores of virtual die `v` find on physical die `y`: their own core numbers where the partition
holds them there, else its cores there in increasing order. -/
def newCores (g : Fn) (v y : Nat) : List (Nat × Nat × Nat) :=
  let vs := dieVcores g v
  let ks := dieCores g.pcore y
  vs.zip (if vs.all fun e => ks.contains e.2 then vs.map Prod.snd else ks) |>.map fun e => (e.1.1, e.1.2, e.2)

/-- Whether the partition of every function holds enough cores on the dies that a remap gives it. -/
def remapFits (s : State) (v z x y : Nat) : Bool :=
  s.fns.all fun f => decide ((newCores f.2 v y).length = (dieVcores f.2 v).length) &&
    decide ((newCores f.2 z x).length = (dieVcores f.2 z).length)

/-- The physical cores that a remap of virtual die `v` from die `x` to die `y`, and of `z` from `y` to `x`, exchanges: those of
virtual cores as their functions need, the others in increasing order. -/
def coreMoves (s : State) (v z x y : Nat) : List (Nat × Nat) :=
  let ms := s.fns.flatMap fun f =>
    (newCores f.2 v y).map (fun e => (16 * x + e.2.1, 16 * y + e.2.2)) ++
      (newCores f.2 z x).map fun e => (16 * y + e.2.1, 16 * x + e.2.2)
  let rest (a b : Nat) : List (Nat × Nat) :=
    ((span (16 * a) 16).filter fun j => !(ms.map Prod.fst).contains j).zip
      ((span (16 * b) 16).filter fun j => !(ms.map Prod.snd).contains j)
  ms ++ rest x y ++ rest y x

/-- A function's virtual cores of a virtual die stand on physical die `y`. -/
def movedCores (v y : Nat) (g : Fn) : Fn :=
  { g with vmap := (newCores g v y).foldl (fun m e => put m e.1 (16 * y + e.2.2)) g.vmap }

/-- Firmware maps virtual core `vcore` of a function to core number `core` of its die; what the function has there goes to
the core it leaves. It moves the contents of both with them, and only while no context is resident on either (01 R13). -/
def mapCore (f vcore core : Nat) (s : State) : State :=
  match s.vcorePhys f (vcore / 16) (vcore % 16) with
  | none => s
  | some a =>
    let b := 16 * (a / 16) + core % 16
    let busy := (span (4 * a) 4 ++ span (4 * b) 4).any fun i => (s.ctx i).task.isSome
    if a = b ∨ busy ∨ !(s.fn f).pcore.getLsbD b then s
    else
      let mv (j : Nat) : Nat := if j = a then b else if j = b then a else j
      { s.modFn f fun g => { g with vmap := g.vmap.map fun e =>
          if e.1 / 16 = vcore / 16 then (e.1, 16 * (a / 16) + mv (16 * (a / 16) + e.2 % 16) % 16) else e } with
        mem := moveMap (moveCoreKey mv) s.mem, stamps := moveMap (moveCoreKey mv) s.stamps,
        poison := s.poison.map (moveCoreKey mv), cores := moveMap mv s.cores }

/-- VIRTUAL_DIE_REMAP: virtual die `x` moves to physical die `y`, and the virtual die there takes its place. Firmware
moves the contents of both (log 10). No context of either die is resident. -/
def execVirtualDieRemap (x y : Nat) (s : State) : Out :=
  let old := s.phys x
  let z := s.virt y
  let busy := (span (64 * old) 64 ++ span (64 * y) 64).any fun i => (s.ctx i).task.isSome
  if x ≥ 8 ∨ y ≥ 8 ∨ old = y then .next s
  else if busy ∨ !remapFits s x z old y then .next s
  else
    let ms := coreMoves s x z old y
    let core (k : Nat) : Nat := ((ms.find? fun e => e.1 = k).map Prod.snd).getD k
    let mv := moveKey core old y
    let s := swapHomes old y s
    .next { s with
      mem := moveMap mv s.mem, stamps := moveMap mv s.stamps, poison := s.poison.map mv,
      fns := mapVals (fun _ g => movedCores z old (movedCores x y g)) s.fns
      cores := moveMap core s.cores, remap := wr 8 (put s.remap x y) z old }

end Sys2Proof.Machine
end

