-- ==== Sys2Proof/Machine/Setts.lean ====
section
/-!
DEFINITION. Queues, setts, their loader, and Derrick (20 R324 to R337).
-/
namespace Sys2Proof.Machine
open Store

/-! ### Queues (20 R325 to R328, R335) -/

/-- Queue `q` of function `f`. -/
def State.queue (s : State) (f q : Nat) : Queue := rd {} (s.fn f).queues q
/-- Updates a queue. -/
def State.modQueue (s : State) (f q : Nat) (g : Queue → Queue) : State :=
  s.modFn f fun x => { x with queues := put x.queues q (g (rd {} x.queues q)) }

/-- Fields of QCTL. -/
def qEn (c : Word) : Bool := c.getLsbD 31
def qPriv (c : Word) : Bool := c.getLsbD 30
def qIe (c : Word) : Bool := c.getLsbD 29
def qMaxPrio (c : Word) : Nat := (c.extractLsb' 24 2).toNat
def qVec (c : Word) : Nat := (c.extractLsb' 16 8).toNat
def qPrio (c : Word) : Nat := (c.extractLsb' 14 2).toNat

/-- Vectors of a function's MSI-X table (21 R407). -/
def vectors (f : Nat) : Nat := if f = 0 then 64 else 32

/-- The interpreter works on a packet of this queue. -/
def interpOn (s : State) (f q : Nat) : Bool :=
  match s.hub.interp with | some t => decide (t.fn = f) && decide (t.queue = q) | none => false

/-- QSTAT.STATE (20 R328, R337). -/
def qState (s : State) (f q : Nat) : Nat :=
  if (s.fn f).frozen then 2 else if (s.queue f q).sett.isEmpty then 3 else if interpOn s f q then 1 else 0

/-- The QSTAT word. -/
def qstatWord (s : State) (f q : Nat) : Word :=
  let x := s.queue f q
  (x.accepted.setWidth 64 <<< 48) ||| (x.rejected.setWidth 64 <<< 32) ||| (x.lerr.setWidth 64 <<< 24)
    ||| (BitVec.ofNat 64 x.buf.length <<< 8) ||| BitVec.ofNat 64 (qState s f q)

/-- PACKET_REJECT: a packet is rejected or dropped (20 R335, R336). -/
def reject (f q : Nat) (code : BitVec 8) (s : State) : State :=
  let s := s.modQueue f q fun x => { x with rejected := satInc x.rejected, lerr := code }
  let c := (s.queue f q).qctl
  if qIe c ∧ qVec c < vectors f then s.send [.msix f (qVec c)] else s

/-- A function number and a queue number of BAR2. -/
def queueOk (f q : Nat) : Bool := decide (f < 5) && decide (q < 64)

/-- PORTAL_WRITE: a Deferrable Memory Write at an offset of the portal's page. -/
def execPortalWrite (fn q off : Nat) (words : List Word) (s : State) : Out :=
  if !queueOk fn q then .next s
  else if off ≠ 0 ∨ words.length ≠ 8 then .next (s.send [.unsupported])
  else
    let x := s.queue fn q
    let f := s.fn fn
    if qEn x.qctl ∧ !f.frozen ∧ !f.resetting ∧ !x.sett.isEmpty ∧ x.buf.length < 8 then
      .next ((s.modQueue fn q fun x => { x with buf := x.buf ++ [words], accepted := satInc x.accepted }).send [.portal true])
    else .next (s.send [.portal false])

/-- PORTAL_POSTED_WRITE: an ordinary write to a portal. -/
def execPortalPostedWrite (fn q : Nat) (s : State) : Out :=
  if queueOk fn q then .next (reject fn q 0x05 s) else .next s

/-! ### The interpreter (20 R329 to R331) -/

/-- Index after an operation that leads to `t`, at the end of a pass of a REP body too. -/
def settNext (rep : Option (Nat × Nat × Nat)) (t : Nat) : Nat × Option (Nat × Nat × Nat) :=
  match rep with
  | some (a, b, n) => if t = b then (if n > 1 then (a, some (a, b, n - 1)) else (b, none)) else (t, rep)
  | none => (t, none)

/-- The interpreter takes its next operation, when the last one has had its hub cycle. -/
def settTurn (k : Interp → Out) (s : State) : Out :=
  match s.hub.interp with
  | none => .next s
  | some c => if s.cycleG < s.hub.interpAt then .next s else k c

/-- The interpreter goes on from `c`, in the next hub cycle. -/
def settGo (c : Interp) (s : State) : State :=
  { s with hub := { s.hub with interp := some { c with ops := c.ops + 1 }, interpAt := s.cycleG + 1 } }

/-- One operation executes, in one hub cycle: `f` is its effect, `t` says where it leads from its index. -/
def settOp (t : Interp → Nat) (f : Interp → Interp) (s : State) : Out :=
  settTurn (fun c =>
    let r := settNext c.rep (t c)
    .next (settGo { f c with op := r.1, rep := r.2 } s)) s

/-- Register x n of the interpreter. -/
def xr (c : Interp) (n : BitVec 3) : Word := rd 0 c.x n.toNat
/-- Operations that lead to the next one. -/
def onward (c : Interp) : Nat := c.op + 1
/-- An operation that writes register x d. -/
def settSet (d : BitVec 3) (v : Interp → Word) (s : State) : Out :=
  settOp onward (fun c => { c with x := wr 0 c.x d.toNat (v c) }) s
/-- A branch. -/
def settBranch (p : Interp → Bool) (f : BitVec 17) (s : State) : Out :=
  settOp (fun c => if p c then c.op + 1 + f.toNat else c.op + 1) id s

/-- LDP. -/
def execSettLdp (d w : BitVec 3) (s : State) : Out := settSet d (fun c => c.packet.getD w.toNat 0) s
/-- LDI. -/
def execSettLdi (d : BitVec 3) (imm : BitVec 17) (s : State) : Out := settSet d (fun _ => imm.signExtend 64) s
/-- LDM: `off` counts window words. -/
def execSettLdm (d : BitVec 3) (off : BitVec 9) (s : State) : Out :=
  settSet d (fun c => rd 0 (s.queue c.fn c.queue).window off.toNat) s
/-- STM. -/
def execSettStm (a : BitVec 3) (off : BitVec 9) (s : State) : Out :=
  settTurn (fun c => settOp onward id
    (s.modQueue c.fn c.queue fun x => { x with window := wr 0 x.window off.toNat (xr c a) })) s
/-- ADD. -/
def execSettAdd (d a b : BitVec 3) (s : State) : Out := settSet d (fun c => xr c a + xr c b) s
/-- SUB. -/
def execSettSub (d a b : BitVec 3) (s : State) : Out := settSet d (fun c => xr c a - xr c b) s
/-- AND. -/
def execSettAnd (d a b : BitVec 3) (s : State) : Out := settSet d (fun c => xr c a &&& xr c b) s
/-- OR. -/
def execSettOr (d a b : BitVec 3) (s : State) : Out := settSet d (fun c => xr c a ||| xr c b) s
/-- XOR. -/
def execSettXor (d a b : BitVec 3) (s : State) : Out := settSet d (fun c => xr c a ^^^ xr c b) s
/-- SHL. -/
def execSettShl (d a : BitVec 3) (n : BitVec 6) (s : State) : Out := settSet d (fun c => xr c a <<< n.toNat) s
/-- SHR. -/
def execSettShr (d a : BitVec 3) (n : BitVec 6) (s : State) : Out := settSet d (fun c => xr c a >>> n.toNat) s
/-- ANDI. -/
def execSettAndi (d a : BitVec 3) (imm : BitVec 17) (s : State) : Out := settSet d (fun c => xr c a &&& imm.setWidth 64) s
/-- BEQ. -/
def execSettBeq (a b : BitVec 3) (f : BitVec 17) (s : State) : Out := settBranch (fun c => decide (xr c a = xr c b)) f s
/-- BNE. -/
def execSettBne (a b : BitVec 3) (f : BitVec 17) (s : State) : Out := settBranch (fun c => decide (xr c a ≠ xr c b)) f s
/-- BLTU. -/
def execSettBltu (a b : BitVec 3) (f : BitVec 17) (s : State) : Out := settBranch (fun c => (xr c a).ult (xr c b)) f s
/-- EMIT. -/
def execSettEmit (patch : Bool) (k a b : BitVec 3) (s : State) : Out :=
  settOp onward (fun c => { c with chain := c.chain ++ [(k.toNat, xr c a, if patch then some (xr c b) else none)] }) s
/-- REP: the body of `len` + 1 operations runs `n` + 1 times. -/
def execSettRep (n : BitVec 6) (len : BitVec 5) (s : State) : Out :=
  settTurn (fun c =>
    .next (settGo { c with op := c.op + 1, rep := some (c.op + 1, c.op + 2 + len.toNat, n.toNat + 1) } s)) s

/-! ### Taking a packet (20 R331) -/

/-- Queues of a function that hold a packet. -/
def readyQueues (f : Fn) : List Nat := (f.queues.filter fun q => q.1 < 64 ∧ !q.2.buf.isEmpty).map Prod.fst

/-- QPRIO of a queue of a function. -/
def prioOf (f : Fn) (q : Nat) : Nat := qPrio (rd {} f.queues q).qctl

/-- The queue of highest QPRIO that holds a packet, round-robin among equals from the place `r` of their QPRIO. -/
def pickQueue (f : Fn) (r : Nat → Nat) : Option Nat :=
  let qs := readyQueues f
  let top := qs.foldl (fun m q => max m (prioOf f q)) 0
  let qs := qs.filter fun q => prioOf f q = top
  match qs.find? (fun q => decide (q ≥ r top)) with
  | some q => some q
  | none => qs.head?

/-- The function whose turn it is, with its queue. -/
def pickPacket (s : State) : Option (Nat × Nat) :=
  (List.range 5).findSome? fun k =>
    let f := (s.hub.rrFn + k) % 5
    let g := s.fn f
    if g.frozen || g.resetting then none else (pickQueue g fun p => rd 0 s.hub.rrQueue (4 * f + p)).map fun q => (f, q)

/-- SETT_PACKET_START, once the hand-over of the last packet is done. -/
def execSettPacketStart (s : State) : Out :=
  if s.hub.interp.isSome ∨ s.cycleG < s.hub.interpAt then .next s
  else match pickPacket s with
  | none => .next s
  | some (f, q) =>
    let x := s.queue f q
    let s := s.modQueue f q fun x => { x with buf := x.buf.drop 1 }
    .next { s with hub := { s.hub with
      interp := some { fn := f, queue := q, op := 0, packet := x.buf.headD [] },
      rrFn := (f + 1) % 5, rrQueue := wr 0 s.hub.rrQueue (4 * f + prioOf (s.fn f) q) ((q + 1) % 64) } }

/-! ### Derrick (20 R333, R334) -/

/-- The reader behind the hub: a core number that no core has, so its reads always walk. -/
def hubCore : Nat := 128

/-- Reads `n` bytes of DEVICE for a function on behalf of the hub. -/
def hubRead (s : State) (f : Nat) (a : Word) (n : Nat) : Except (BitVec 8) (List Byte) :=
  if inWindow .device a.toNat && inWindow .device (a.toNat + n - 1) then s.agentRead f 0 hubCore a n else .error 0x06

/-- Node kind of an EMIT kind. -/
def emitKind : Nat → NodeKind
  | 0 => .launch
  | 1 => .job .cpy
  | 2 => .job .gath
  | 3 => .job .scat
  | _ => .job .col

/-- Whether a record passes the checks of its chapter. -/
def recordOk (s : State) (f : Nat) (priv : Bool) (k : NodeKind) (ws : List Word) : Bool :=
  match k with
  | .launch => launchOk s f priv ws
  | .job .col => cardOk .col ws && (treeOf s f ((ws.getD 0 0))).isSome
  | .job e => cardOk e ws
  | _ => false

/-- One record of a chain as Derrick reads and checks it: the record, or LERR's cause. -/
def derrickRead (s : State) (f : Nat) (c : Word) (e : Nat × Word × Option Word) : Except (BitVec 8) (NodeKind × List Word) :=
  let k := emitKind e.1
  let a := e.2.1
  if !inWindow .device a.toNat || decide (a.toNat % 64 ≠ 0) then .error 0x03
  else match hubRead s f a 128 with
  | .error _ => .error 0x02
  | .ok bs =>
    let ws := wordsOf 16 bs
    let ws := match e.2.2 with | some p => ws.set 1 p | none => ws
    let ws := if k = .launch ∧ qPriv c then ws.set 4 (ws.getD 4 0 ||| 0x4000_0000#64) else ws
    if !recordOk s f (qPriv c) k ws then .error 0x01
    else
      let w3 := ws.getD 3 0
      let ws := if k = .launch ∧ lPrio ws > qMaxPrio c then
        ws.set 3 ((w3 &&& ~~~ (3#64 <<< 50)) ||| (BitVec.ofNat 64 (qMaxPrio c) <<< 50)) else ws
      .ok (k, ws)

/-- The whole chain, in order, up to the first record that fails. -/
def derrickAll (s : State) (f : Nat) (c : Word) : List (Nat × Word × Option Word) → Except (BitVec 8) (List (NodeKind × List Word))
  | [] => .ok []
  | e :: es => do
    let r ← derrickRead s f c e
    let rs ← derrickAll s f c es
    .ok (r :: rs)

/-- Die of a host job card, by its DST. -/
def cardDie (s : State) (f : Nat) (k : NodeKind) (ws : List Word) : Nat :=
  let dst := ws.getD 2 0
  if k = .job .cpy ∧ cBsl ws then 0
  else match window dst with
    | some (.shared, o) => o / 2 ^ 26
    | some (.device, va) => match s.xlat hubCore f va .write with
      | .ok (.dram d _) => d
      | _ => 0
    | _ => 0

/-- Dies that a record names. -/
def recordDies (s : State) (f : Nat) (k : NodeKind) (ws : List Word) : List Nat :=
  match k with
  | .launch => (List.range 8).filter fun d => lDies ws / 2 ^ d % 2 = 1
  | k => [cardDie s f k ws]

/-- DERRICK_CHAIN: every record takes its place, or none does. -/
def derrick (f q : Nat) (chain : List (Nat × Word × Option Word)) (s : State) : State :=
  match derrickAll s f (s.queue f q).qctl chain with
  | .error c => reject f q c s
  | .ok rs => rs.foldl (fun t r => (recordDies s f r.1 r.2).foldl (fun t d => toBank f q d r.1 r.2 none t) t) s

/-- The packet is over: after this operation's hub cycle, four go to the hand-over (20 R331). -/
def packetOver (k : Interp → State → State) (s : State) : Out :=
  settTurn (fun c => .next (k c { s with hub := { s.hub with interp := none, interpAt := s.cycleG + 5 } })) s

/-- Whether the hub's links are up to the tables and the homes of the records of a chain (01 R11). -/
def chainLinked (s : State) (f : Nat) (chain : List (Nat × Word × Option Word)) : Bool :=
  chain.all fun e => s.linkedTo 8 f 0 hubCore e.2.1 .read 128

/-- END: the chain passes to Derrick, which reads its records. -/
def execSettEnd (s : State) : Out :=
  if (s.hub.interp.map fun c => chainLinked s c.fn c.chain).getD true then
    packetOver (fun c s => derrick c.fn c.queue c.chain s) s
  else .next s
/-- REJ. -/
def execSettRej (code : BitVec 7) (s : State) : Out :=
  packetOver (fun c s => reject c.fn c.queue (0x80#8 ||| code.setWidth 8) s) s

/-! ### The loader (20 R332) -/

/-- End of a REP body at index `i`, when the operation is a REP. -/
def repEnd (i : Nat) : Instr → Option Nat
  | .settRep _ len => some (i + 2 + len.toNat)
  | _ => none

/-- Target of a taken branch at index `i`. -/
def settTarget (i : Nat) : Instr → Option Nat
  | .settBeq _ _ f | .settBne _ _ f | .settBltu _ _ f => some (i + 1 + f.toNat)
  | _ => none

/-- Whether an operation ends the packet, or is an EMIT. -/
def settEnds : Instr → Bool | .settEnd | .settRej _ => true | _ => false
def isEmit : Instr → Bool | .settEmit _ _ _ _ => true | _ => false

/-- REP bodies of an image: first index and the index after the last. -/
def repBodies (ops : List Instr) : List (Nat × Nat) :=
  ((List.range ops.length).zip ops).filterMap fun p => (repEnd p.1 p.2).map fun e => (p.1 + 1, e)

/-- An operation that breaks the rules of branches and REP bodies. -/
def badFlow (ops : List Instr) (bodies : List (Nat × Nat)) (i : Nat) (op : Instr) : Bool :=
  let inside (b : Nat × Nat) (k : Nat) : Bool := decide (b.1 ≤ k) && decide (k < b.2)
  (match repEnd i op with
   | some e => decide (e > ops.length) || bodies.any fun b => inside (i + 1, e) (b.1 - 1)
   | none => false) ||
  (match settTarget i op with
   | some t => decide (t ≥ ops.length) || bodies.any fun b => inside b i != inside b t
   | none => false)

/-- A place on a path: index, REP body and passes left, EMITs executed. -/
abbrev Place := Nat × Option (Nat × Nat × Nat) × Nat

/-- Places after one operation. -/
def placesAfter (ops : List Instr) (p : Place) : List Place :=
  let (i, rep, m) := p
  match ops[i]? with
  | none => []
  | some op =>
    if settEnds op then []
    else match op with
    | .settRep n len => [(i + 1, some (i + 1, i + 2 + len.toNat, n.toNat + 1), m)]
    | op =>
      let m := if isEmit op then m + 1 else m
      ((i + 1) :: (settTarget i op).toList).map fun t => let r := settNext rep t; (r.1, r.2, m)

/-- Places at the start of each operation of every path, for `k` operations: the last ones, and the indices of ninth EMITs. -/
def explore (ops : List Instr) : Nat → List Place → List Nat → List Place × List Nat
  | 0, ps, ninth => (ps, ninth)
  | k + 1, ps, ninth =>
    let hit := (ps.filter fun p => p.2.2 = 8 ∧ (ops[p.1]?.map isEmit).getD false).map fun p => p.1
    explore ops k ((ps.flatMap (placesAfter ops)).eraseDups) (ninth ++ hit)

/-- Least of a list. -/
def least (l : List Nat) : Option Nat := l.foldl (fun m x => match m with | none => some x | some y => some (min x y)) none

/-- Indices that some path reaches, the index behind the image among them. -/
def reached (ops : List Instr) : List Nat :=
  let step (seen : List Nat) (p : Nat × Instr) : List Nat :=
    if seen.contains p.1 ∧ !settEnds p.2 then seen ++ [p.1 + 1] ++ (settTarget p.1 p.2).toList else seen
  ((List.range ops.length).zip ops).foldl step [0]

/-- STATUS and index of an image. -/
def checkSett (ws : List (BitVec 32)) : BitVec 8 × Nat :=
  let ds := ws.map decodeSett
  match (List.range ds.length).find? fun i => (ds.getD i none).isNone with
  | some i => (2, i)
  | none =>
    let ops := ds.filterMap id
    let n := ops.length
    let bodies := repBodies ops
    match ((List.range n).zip ops).find? fun p => badFlow ops bodies p.1 p.2 with
    | some p => (3, p.1)
    | none =>
      if (reached ops).contains n then (4, n - 1)
      else
        let r := explore ops 256 [(0, none, 0)] []
        match least (r.1.map fun p => p.1) with
        | some i => (5, i)
        | none => match least r.2 with
          | some i => (6, i)
          | none => (1, 0)

/-- SLOADST. -/
def sloadWord (st : BitVec 8) (idx : Nat) : Word := (st.setWidth 64 <<< 56) ||| (BitVec.ofNat 64 idx &&& 0x1FF#64)

/-- SETT_LOAD: a write of SLOAD1 starts a load, or is refused at once. -/
def execSettLoad (val : Word) (s : State) : Out :=
  let mask : Word := 0x1FF3F07#64
  let f := (val.extractLsb' 0 3).toNat
  let q := (val.extractLsb' 8 6).toNat
  let h : Hub := { s.hub with sload1 := val &&& mask }
  if (val &&& ~~~ mask) ≠ 0 ∨ f > 4 ∨ h.sload0.toNat % 4 ≠ 0 then .next { s with hub := { h with sloadSt := sloadWord 9 0, loading := none } }
  else if qEn (s.queue f q).qctl then .next { s with hub := { h with sloadSt := sloadWord 7 0, loading := none } }
  else .next { s with hub := { h with sloadSt := sloadWord 0 0, loading := some ⟨h.sload0, val⟩ } }

/-- The words of an image at an address, or the index of the first that faults. -/
def readImage (s : State) (a : Word) : Nat → Nat → Except Nat (List (BitVec 32))
  | _, 0 => .ok []
  | i, n + 1 => match hubRead s 0 (a + BitVec.ofNat 64 (4 * i)) 4 with
    | .error _ => .error i
    | .ok bs => match readImage s a (i + 1) n with
      | .ok ws => .ok (BitVec.ofNat 32 (ofBytes bs) :: ws)
      | .error e => .error e

/-- Installs a sett: the old one goes and the window is zero. -/
def installSett (f q : Nat) (ws : List (BitVec 32)) (s : State) : State :=
  s.modQueue f q fun x => { x with sett := ws, window := [] }

/-- SETT_LOAD_DONE: the loader has read and checked the image. A packet of the queue under way comes first. -/
def execSettLoadDone (s : State) : Out :=
  match s.hub.loading with
  | none => .next s
  | some l =>
    let f := (l.load1.extractLsb' 0 3).toNat
    let q := (l.load1.extractLsb' 8 6).toNat
    let ended (st : BitVec 8) (i : Nat) (s : State) : State :=
      { s with hub := { s.hub with sloadSt := sloadWord st i, loading := none } }
    if interpOn s f q || !s.linkedTo 8 0 0 hubCore l.load0 .read (4 * (l.load1.extractLsb' 16 9).toNat + 4) then .next s
    else if qEn (s.queue f q).qctl then .next (ended 7 0 s)
    else match readImage s l.load0 0 ((l.load1.extractLsb' 16 9).toNat + 1) with
      | .error i => .next (ended 8 i s)
      | .ok ws =>
        let r := checkSett ws
        .next (ended r.1 r.2 (if r.1 = 1 then installSett f q ws s else s))

end Sys2Proof.Machine
end

