-- ==== Sys2Proof/Machine/Platform.lean ====
section
/-!
DEFINITION. Partitions, freezes and resets of functions, host registers, the side-band port, firmware, power,
telemetry and checkpoints (21 R338 to R351, 26 R396 to R405, 18 R313, R406).
-/
namespace Sys2Proof.Machine
open Store

/-- Whether a function has a resident context or an unretired node. -/
def State.busyFn (s : State) (f : Nat) : Bool :=
  s.ctxs.any (fun c => match c.2.task with | some t => decide (t.fn = f) | none => false) ||
    s.vdies.any fun v => v.2.nodes.any fun n => decide (n.fn = f)

/-! ### Scrubbing (21 R341, R350) -/

/-- Whether a storage key lies in the scratchpad or the B-slices of a physical core. -/
def inCore (j k : Nat) : Bool :=
  (decide (keyKind k = 1) && decide ((k - 2 ^ 41) / 2 ^ 23 = j)) || (decide (keyKind k = 4) && decide ((k - 2 ^ 42) / 2 ^ 25 = j))

/-- The matrix state of a scrubbed context: tiles, rows and format entries are zero (21 R341). -/
def scrubbed : Matrix := { ft := (List.range 16).map fun n => (n, 0), clean := true }

/-- Zeroes the storage of a physical core and empties its contexts; the translation cache too, if `tlb`. CLNEST counters stay
(15 R285). Transfers of collectives that have come to the core are dropped. -/
def scrubCore (tlb : Bool) (s : State) (j : Nat) : State :=
  let s := (s.core j).chunks.foldl (fun s x => moveOver x s) s
  let s := { s with
    mem := restrict (fun k => !inCore j k) s.mem, stamps := restrict (fun k => !inCore j k) s.stamps,
    poison := s.poison.filter fun k => !inCore j k }
  let s := (span (4 * j) 4).foldl (fun s i => s.setCtx i { serial := (s.ctx i).serial + 1, mat := scrubbed }) s
  s.modCore j fun k => { tlb := if tlb then [] else k.tlb, cols := k.cols, lastBeat := k.lastBeat, clCtr := k.clCtr }

/-! ### PCORE, PRNG, TROOT (21 R339 to R344) -/

/-- Physical cores of a PCORE value, in increasing order. -/
def coresOf (p : BitVec 128) : List Nat := (List.range 128).filter fun j => p.getLsbD j

/-- Numbering of cores: increasing physical order on each die, for the virtual die that the remap table gives (R340). -/
def numberCores (s : State) (p : BitVec 128) : PMap Nat :=
  (List.range 8).foldl (fun m d =>
    let js := (coresOf p).filter fun j => j / 16 = d
    (js.zip (List.range js.length)).foldl (fun m x => put m (16 * s.virt d + x.2) x.1) m) []

/-- Event counters stay with their virtual core through a new numbering (12 R240); those of a virtual core that it does not
have go, and those of one that a gained core takes are zero (21 R341). -/
def moveEvents (gained : BitVec 128) (new : PMap Nat) (e : PMap (BitVec 16)) : PMap (BitVec 16) :=
  e.filter fun x => match look new (x.1 / 64) with
    | some j => !gained.getLsbD j
    | none => false

/-- PCORE_WRITE. -/
def execPcoreWrite (fn : Nat) (hi : Bool) (val : Word) (s : State) : Out :=
  let f := s.fn fn
  let new : BitVec 128 := if hi then val ++ f.pcore.extractLsb' 0 64 else f.pcore.extractLsb' 64 64 ++ val
  let held := (List.range 5).any fun g => decide (g ≠ fn) && decide ((s.fn g).pcore &&& new ≠ 0)
  if fn ≥ 5 then .next s
  else if held || (decide (new ≠ f.pcore) && s.busyFn fn) then .next (s.send [.refusedWrite])
  else
    let vm := numberCores s new
    let s := s.modFn fn fun g => { g with pcore := new, vmap := vm, events := moveEvents (new &&& ~~~ f.pcore) vm g.events }
    .next ((coresOf (new &&& ~~~ f.pcore)).foldl (scrubCore true) s)

/-- Whether a PRNG value's enabled ranges have a base above their limit. -/
def prngBad (p : Word) : Bool :=
  (p.getLsbD 63 && decide ((p.extractLsb' 32 9).toNat > (p.extractLsb' 48 9).toNat)) ||
    (p.getLsbD 31 && decide ((p.extractLsb' 0 6).toNat > (p.extractLsb' 8 6).toNat))

/-- Whether enabled ranges of two PRNG values overlap. -/
def prngMeet (p q : Word) : Bool :=
  (p.getLsbD 63 && q.getLsbD 63 && decide ((p.extractLsb' 32 9).toNat ≤ (q.extractLsb' 48 9).toNat)
    && decide ((q.extractLsb' 32 9).toNat ≤ (p.extractLsb' 48 9).toNat)) ||
  (p.getLsbD 31 && q.getLsbD 31 && decide ((p.extractLsb' 0 6).toNat ≤ (q.extractLsb' 8 6).toNat)
    && decide ((q.extractLsb' 0 6).toNat ≤ (p.extractLsb' 8 6).toNat))

/-- Bits of PRNG that are not reserved. -/
def prngMask : Word := 0x81FF01FF80003F3F

/-- PRNG_WRITE. -/
def execPrngWrite (fn vdie : Nat) (val : Word) (s : State) : Out :=
  let p := val &&& prngMask
  if fn ≥ 5 ∨ vdie ≥ 8 then .next s
  else if prngBad p || (List.range 5).any (fun g => decide (g ≠ fn) && prngMeet p (s.prngOf g vdie)) || s.busyFn fn then
    .next (s.send [.refusedWrite])
  else .next (s.modFn fn fun f => { f with prng := wr 0 f.prng vdie p })

/-- TROOT_WRITE. -/
def execTrootWrite (fn : Nat) (val : Word) (s : State) : Out :=
  if fn ≥ 5 then .next s else .next (s.modFn fn fun f => { f with troot := val &&& 0xFFFFFFFFC001 })

/-! ### Freezes by order (21 R347 to R349) -/

/-- Cause of an order, which names no master. -/
def orderCause (c : BitVec 8) : BitVec 62 := fcauseOf c 0 0 0 false

/-- FCTL_HOLD_WRITE. -/
def execFctlHoldWrite (fn : Nat) (val : Word) (s : State) : Out :=
  if fn ≥ 5 then .next s
  else
    let s := s.modFn fn fun f => { f with hold := val.getLsbD 0 }
    .next (if val.getLsbD 0 then freezeFn fn (orderCause 0x20) true s else s)

/-- FREEZE. -/
def execFreeze (fn : Nat) (s : State) : Out := if fn ≥ 5 then .next s else .next (freezeFn fn (orderCause 0x21) true s)

/-! ### Function-level reset (21 R350) -/

/-- A reset of one function starts: it is frozen, without its own vector 0. -/
def beginReset (f : Nat) (s : State) : State :=
  if (s.fn f).resetting then s
  else freezeFn f (orderCause 0x22) false (s.modFn f fun g => { g with resetting := true, resetWait := false })

/-- A reset of a function is ordered; that of the PF resets every VF. During a checkpoint it waits (26 R405). -/
def orderReset (fn : Nat) (s : State) : State :=
  let fs := if fn = 0 then List.range 5 else [fn]
  if s.hub.copying.isSome then fs.foldl (fun s f => s.modFn f fun g => { g with resetWait := true }) s
  else
    let s := if fn = 0 then { s with hub := { s.hub with vfEnable := false } } else s
    fs.foldl (fun s f => beginReset f s) s

/-- FUNCTION_LEVEL_RESET. -/
def execFunctionLevelReset (fn : Nat) (s : State) : Out := if fn ≥ 5 then .next s else .next (orderReset fn s)
/-- RESET. -/
def execReset (fn : Nat) (s : State) : Out := if fn ≥ 5 then .next s else .next (orderReset fn s)

/-- Whether a message carries work of a function of this module. -/
def msgOf (s : State) (f : Nat) (m : Msg) : Bool :=
  let own (x : Nat) : Bool := decide (x = s.hub.modid.toNat)
  match m.body with
  | .req r => own r.srcMod && decide (r.fn = f)
  | .reply r => own r.srcMod && (s.pdie r.srcDie).sent.any fun q => decide (q.req.tag = r.tag) && decide (q.req.fn = f)
  | .ack a b t => own a && s.pdies.any fun p => p.2.cache.any fun e => entryOf a b t e && decide (e.fn = f)
  | .beacon _ | .exit _ _ _ => false
  | .tree g _ _ | .nest g _ _ _ _ | .treeCmd g _ _ _ | .record g _ _ => decide (g = f)
  | .chunk c => decide (c.fn = f)

/-- Messages that have not crossed a link yet. -/
def notCrossed (l : Link) : List Msg :=
  (l.buf.filter fun p => (p.1 - l.rxExp).toNat < 512).map Prod.snd ++ l.respQ ++ l.sendQ

/-- Requests of a function in the inboxes join those of their homes. -/
def takeAll (f : Nat) (s : State) : State :=
  let own (r : Req) : Bool := decide (r.fn = f) && decide (r.srcMod = s.hub.modid.toNat)
  (List.range 9).foldl (fun s d =>
    let mine := (s.pdie d).inbox.filterMap fun m => match m.body with
      | .req r => if own r then some (m.born, r) else none
      | _ => none
    let rest := (s.pdie d).inbox.filter fun m => match m.body with | .req r => !own r | _ => true
    mine.foldl (fun s r => pending d r.1 r.2 s) (s.modPdie d fun p => { p with inbox := rest })) s

/-- Writes of a function that a reset drops, each with what takes it away: those at homes, those whose first copy has not left, and
transfers of collectives (21 R350). -/
def toDrop (f : Nat) (s : State) : List ((Nat × Nat × Clock) × (State → State)) :=
  let own (r : Req) : Bool := decide (r.fn = f) && decide (r.srcMod = s.hub.modid.toNat) && r.op.writes && r.loc.other.isNone
  let stamp (r : Req) : Nat × Nat × Clock := (r.loc.home, r.vdie, r.clk)
  let past (r : Req) (s : State) : State := frontPast r.loc.home r.vdie (clkGet r.clk r.vdie) s
  (List.range 9).flatMap (fun d =>
    (((List.range (s.pdie d).pend.length).zip (s.pdie d).pend).filter fun x => own x.2).map (fun x =>
      (stamp x.2, fun s => past x.2 (markSent x.2.srcDie (fun q => decide (q.req.tag = x.2.tag)) (fun q => { q with done := true })
        (s.modPdie d fun p => { p with pend := p.pend.eraseIdx x.1 })))) ++
    (((s.pdie d).sent.filter fun q => own q.req && decide (q.sends = 0)).map fun q =>
      (stamp q.req, fun s => past q.req (s.modPdie d fun p => { p with sent := p.sent.filter fun x => x.req.tag ≠ q.req.tag })))) ++
  s.cores.flatMap fun k => (k.2.chunks.filter fun x => decide (x.fn = f) && !x.clk.isEmpty).map fun x =>
    ((s.virt (k.1 / 16), x.vdie, x.clk), fun s =>
      moveOver x (s.modCore k.1 fun c => { c with chunks := c.chunks.erase x }))

/-- Drops up to `n` writes of a function, in the order in which they would be applied (11 R197, R208). -/
def dropWrites (f : Nat) : Nat → State → State
  | 0, s => s
  | n + 1, s => match (toDrop f s).find? fun x => s.mayStamp x.1.1 x.1.2.1 x.1.2.2 with
    | some x => dropWrites f n (x.2 s)
    | none => s

/-- Whether something of a function is still on its way: a halt, a walk, or a message that has not grown too old. -/
def inFlight (f : Nat) (s : State) : Bool :=
  let open_ (m : Msg) : Bool := msgOf s f m && !m.aged s
  !(s.fn f).haltDies.isEmpty || s.links.any (fun l => (notCrossed l.2).any open_) ||
    s.pdies.any fun p => p.2.rides.any (fun r => open_ r.msg) || p.2.walks.any fun w => decide (w.fn = f)

/-- CYCLE_G from which on every copy of a function's FABRIC requests is too old (18 R320). -/
def agedAt (f : Nat) (s : State) : Nat :=
  (List.range 8).foldl (fun m d => (s.pdie d).sent.foldl (fun m q =>
    if q.req.fn = f ∧ q.req.loc.other.isSome ∧ q.sends > 0 then max m (q.lastAt + 8193) else m) m) 0

/-- Step 2 of R350: once the halt has reached every die, every request of a function has reached its home or been discarded, and
the last copies of its FABRIC requests are too old, the homes drop its writes that they have not applied. None until then. -/
def drainFn (f : Nat) (s : State) : Option State :=
  if inFlight f s || decide (s.cycleG < agedAt f s) then none
  else
    let t := takeAll f s
    let t := dropWrites f (toDrop f t).length t
    if (toDrop f t).isEmpty then some t else none

/-- What remains of a function's requests at the sources and the homes goes; what it held back goes on. Requests of other
modules are not its own. -/
def clearRequests (f : Nat) (s : State) : State :=
  let mod := s.hub.modid.toNat
  let own (r : Req) : Bool := decide (r.fn = f) && decide (r.srcMod = mod)
  let one (p : PDie) : PDie :=
    let tags := (p.sent.filter fun q => q.req.fn = f).map (·.req.tag)
    let gone (m : Msg) : Bool := msgOf s f m
    { p with
      sent := p.sent.filter fun q => q.req.fn ≠ f
      waitRep := p.waitRep.filter fun r => !tags.contains r.tag
      rinbox := p.rinbox.filter fun m => !gone m
      inbox := p.inbox.filter fun m => !gone m
      pend := p.pend.filter fun r => !own r
      barWaits := p.barWaits.filter fun r => !own r.1
      cache := p.cache.filter fun e => !(e.fn = f ∧ e.srcMod = mod)
      rtags := p.rtags.filter fun t => t.1 ≠ f
      walks := p.walks.filter fun w => w.fn ≠ f }
  let s := { s with pdies := mapVals (fun _ p => one p) s.pdies
                    hub := { s.hub with fabQ := s.hub.fabQ.filter fun m => !msgOf s f m } }
  (List.range 9).foldl (fun s d => releaseHeld d s) s

/-- Steps 3 to 5 of R350. -/
def endReset (f : Nat) (s : State) : State :=
  let s := (coresOf (s.fn f).pcore).foldl (scrubCore false) s
  let vd (d : VDie) : VDie :=
    { d with nodes := d.nodes.filter fun n => n.fn ≠ f
             walkers := d.walkers.filter fun w => w.fn ≠ f
             locks := del d.locks f
             roReads := d.roReads.filter fun r => r.fn ≠ f }
  let qu (q : Queue) : Queue := { sett := q.sett }
  let g := s.fn f
  { s with
    vdies := mapVals (fun _ d => vd d) s.vdies
    cores := mapVals (fun _ k => { k with clCtr := del k.clCtr f }) s.cores
    fns := put s.fns f
      { pcore := g.pcore, vmap := g.vmap, prng := g.prng, hold := g.hold, frozen := g.hold,
        queues := mapVals (fun _ q => qu q) g.queues,
        objs := mapVals (fun _ o => { gen := o.gen }) g.objs, getlog := g.getlog, resetWait := g.resetWait } }

/-- FLR_DRAIN_DONE: nothing of the function is on its way any more, its unapplied writes are dropped, and the reset
goes through its other steps. -/
def execFlrDrainDone (fn : Nat) (s : State) : Out :=
  if fn ≥ 5 ∨ !(s.fn fn).resetting then .next s
  else match drainFn fn s with
    | none => .next s
    | some t => .next (endReset fn (clearRequests fn t))

/-! ### Host registers (18 R310, R313, R406, 20 R327, R328, R332, 26 R402, R403) -/

/-- ROUTE_TABLE_WRITE: reserved bits read zero. -/
def execRouteTableWrite (n : Nat) (val : Word) (s : State) : Out :=
  if n ≥ 2048 then .next s
  else .next { s with hub := { s.hub with route := wr 0 s.hub.route n (val &&& 0xF000000000FFFFFF) } }

/-- MODID_WRITE. -/
def execModidWrite (val : Word) (s : State) : Out :=
  if (List.range 5).any s.busyFn || s.pdies.any (fun p => p.2.sent.any fun q => q.req.loc.other.isSome) then
    .next (s.send [.refusedWrite])
  else .next { s with hub := { s.hub with modid := val.setWidth 11 } }

/-- PWRLIM_WRITE. -/
def execPwrlimWrite (die : Nat) (val : Word) (s : State) : Out :=
  let l := (val.extractLsb' 0 8).toNat
  if die ≥ 8 ∨ l = 0 ∨ l > 80 then .next s
  else .next (s.modPdie die fun p => { tokensBy s.cycleG p with pwrLim := val &&& 0xFF })

/-- TELBASE_WRITE. -/
def execTelbaseWrite (die : Nat) (val : Word) (s : State) : Out :=
  if die ≥ 8 then .next s else .next (s.modPdie die fun p => { p with telBase := val &&& 0xFFFFFFFF8001 })

/-- REGISTER_WRITE: fields of QCTL, QSTAT, SLOAD0 and LSTAT. -/
def execRegisterWrite (reg : HostReg) (val : Word) (s : State) : Out :=
  match reg with
  | .qctl f q => if queueOk f q then
      .next (s.modQueue f q fun x => { x with qctl := val &&& (if f = 0 then 0xE3FFC000 else 0xA3FFC000) }) else .next s
  | .qstat f q => if queueOk f q then
      .next (s.modQueue f q fun x => { x with accepted := val.extractLsb' 48 16, rejected := val.extractLsb' 32 16 }) else .next s
  | .sload0 => .next { s with hub := { s.hub with sload0 := val } }
  | .lstat l => if l < 48 then .next (s.modLink l fun x =>
      { x with crce := val.extractLsb' 32 16, rply := val.extractLsb' 16 16, rtrn := val.extractLsb' 8 8 }) else .next s

/-- The LSTAT word of a link. -/
def lstatWord (l : Link) : Word :=
  (l.crce.setWidth 64 <<< 32) ||| (l.rply.setWidth 64 <<< 16) ||| (l.rtrn.setWidth 64 <<< 8)
    ||| (l.half.setWidth 64 <<< 6) ||| (l.state.setWidth 64 <<< 4)

/-! ### The side-band port (21 R351, 26 R401) -/

/-- GETTEL: the latest sample of each die. -/
def execGettel (s : State) : Out := .next (s.send [.answer ((List.range 8).flatMap fun d => (s.pdie d).telSample)])

/-- GETLOG: the function's FSTAT word and its own entries, LSTAT words, soft-error records, module entries. -/
def execGetlog (fn : Nat) (s : State) : Out :=
  .next (s.send [.answer ([fstatWord (s.fn fn)] ++ (s.fn fn).getlog ++ (List.range 48).map (fun l => lstatWord (s.link l))
    ++ (List.range 9).flatMap (fun d => (s.pdie d).errLog.flatMap fun e => [e.word0, e.word1]) ++ s.hub.modLog)])

/-- The image that runs, and the staged one. -/
def runImage (h : Hub) : List Byte := if h.bootB then h.slotB.1 else h.slotA.1
def stagedSlot (h : Hub) : List Byte × Bool := if h.bootB then h.slotA else h.slotB

/-- Words of a 512-bit digest. -/
def digestWords (d : BitVec 512) : List Word := (List.range 8).map fun i => d.extractLsb' (64 * i) 64

/-- Setts of loaded queues in (FUNC, QUEUE) order. -/
def settBytes (s : State) : List Byte :=
  (List.range 5).flatMap fun f => (s.fn f).queues.flatMap fun q => q.2.sett.flatMap fun w => toBytes 4 w.toNat

/-- SPDM_MEASUREMENTS: three digests and a signature over them. -/
def execSpdmMeasurements (s : State) : Out :=
  let st := stagedSlot s.hub
  let ws := digestWords (Config.sha3 (runImage s.hub)) ++
    digestWords (if st.2 then Config.sha3 st.1 else 0) ++ digestWords (Config.sha3 (settBytes s))
  let sig := Config.sign (bytesOfWords ws)
  .next (s.send [.answer (ws ++ wordsOf ((sig.length + 7) / 8) sig)])

/-! ### Staging and module reset (26 R396, R397) -/

/-- Writes an image into the slot that did not boot; it is valid once verified. -/
def stageImage (image : List Byte) (s : State) : State :=
  let slot := (image, Config.imageVerifies image)
  { s with hub := if s.hub.bootB then { s.hub with slotA := slot } else { s.hub with slotB := slot } }

/-- STAGE. -/
def execStage (image : List Byte) (s : State) : Out := .next (stageImage image s)
/-- PLDM_FIRMWARE_UPDATE. -/
def execPldmFirmwareUpdate (image : List Byte) (s : State) : Out := .next (stageImage image s)

/-- A slot whose image verifies. -/
def slotOk (x : List Byte × Bool) : Bool := x.2 && Config.imageVerifies x.1

/-- The slot that boots: the verified image with the higher version, A on a tie. -/
def bootSlot (h : Hub) : Option Bool :=
  match slotOk h.slotA, slotOk h.slotB with
  | false, false => none
  | true, false => some false
  | false, true => some true
  | true, true => some (decide ((Config.imageVersion h.slotA.1).toNat < (Config.imageVersion h.slotB.1).toNat))

/-- Whether a key's storage outlives a reset: host memory always, DRAM when `dram`. -/
def outlives (dram : Bool) (k : Nat) : Bool := decide (keyKind k = 0) || (dram && decide (keyKind k = 3))

/-- THE MODULE RESET. The outside world, the boot slots and what outlives the reset stay. With no slot that verifies the
module stops after step 2, and the log names both slots: no link is trained, nothing is loaded, and no memory zeroed. -/
def moduleReset (dram : Bool) (s : State) : State :=
  let h := s.hub
  let r := State.reset
  let hub := { r.hub with slotA := h.slotA, slotB := h.slotB, bootB := h.bootB, modLog := h.modLog, atsDeny := h.atsDeny }
  match bootSlot h with
  | none =>
    { mem := s.mem, poison := s.poison, hub := { hub with modid := 0, stopped := true, modLog := hub.modLog ++ [3] },
      agenda := s.agenda, out := s.out, freeCtr := s.freeCtr }
  | some b =>
    { r with
      mem := restrict (outlives dram) s.mem, poison := s.poison.filter fun k => outlives dram k,
      remap := if dram then s.remap else [], hub := { hub with bootB := b }, agenda := s.agenda, out := s.out,
      freeCtr := s.freeCtr }

/-- MODULE_RESET. -/
def execModuleReset (s : State) : Out := .next (moduleReset false s)

/-! ### Activation (26 R398 to R400) -/

/-- Every function is drained as step 2 of R350 gives. None while one is not. -/
def drainAll (s : State) : Option State := (List.range 5).foldlM (fun s f => drainFn f s) s

/-- Freezes every function with cause 0x21. -/
def freezeAll (s : State) : State := (List.range 5).foldl (fun s f => freezeFn f (orderCause 0x21) true s) s

/-- Queues that the layout holds: a sett, or EN = 1. -/
def layoutQueues (s : State) : List (Nat × Nat × Queue) :=
  (List.range 5).flatMap fun f => (s.fn f).queues.filterMap fun q =>
    if q.1 < 64 ∧ (!q.2.sett.isEmpty ∨ qEn q.2.qctl) then some (f, q.1, q.2) else none

/-- One record of the layout. -/
def layoutRecord (s : State) (x : Nat × Nat × Queue) : List Byte :=
  let (f, n, q) := x
  let w0 : Nat := qState s f n * 2 ^ 56 + n * 2 ^ 48 + (q.sett.length - 1) * 2 ^ 32 + f
  toBytes 8 w0 ++ toBytes 8 q.qctl.toNat ++ toBytes 8 ((qstatWord s f n) &&& ~~~ 0xF00#64).toNat ++ List.replicate 40 0
    ++ (List.range 512).flatMap (fun i => toBytes 4 (q.sett.getD i 0).toNat)
    ++ (List.range 512).flatMap (fun i => toBytes 8 (rd 0 q.window i).toNat)

/-- The layout: a header and the records. -/
def layoutBytes (s : State) : List Byte :=
  let rs := (layoutQueues s).flatMap (layoutRecord s)
  toBytes 8 (2 ^ 56 + (layoutQueues s).length) ++ toBytes 56 (Config.sha3 rs).toNat ++ rs

/-- Function, number and queue of a record of a layout. -/
def layoutQueue (bs : List Byte) : Nat × Nat × Queue :=
  (areaF bs 0 0 3, areaF bs 0 48 6,
    { qctl := areaW bs 8, accepted := (areaW bs 16).extractLsb' 48 16, rejected := (areaW bs 16).extractLsb' 32 16,
      lerr := (areaW bs 16).extractLsb' 24 8,
      sett := (List.range (areaF bs 0 32 9 + 1)).map fun i => BitVec.ofNat 32 (areaN bs (64 + 4 * i) 4),
      window := areaMap 0 512 fun i => areaW bs (2112 + 8 * i) })

/-- The queues of a layout as its bytes read, when VERSION and DIGEST hold. -/
def readLayout (bs : List Byte) : Option (List (Nat × Nat × Queue)) :=
  let n := areaF bs 0 0 16
  let rs := (bs.drop 64).take (6208 * n)
  if areaF bs 0 56 8 = 1 ∧ (bs.drop 8).take 56 = toBytes 56 (Config.sha3 rs).toNat then
    some ((List.range n).map fun k => layoutQueue (rs.drop (6208 * k)))
  else none

/-- The new firmware puts the queues of a layout back, each sett through the loader's checks; a layout that fails a check is
discarded whole, and the log says so (26 R400). The record does not say that a queue has no sett: such a queue gets the one
operation END that its LEN − 1 and SETT read as (log 38). -/
def restoreQueues (bs : List Byte) (s : State) : State :=
  let fail : State := { s with hub := { s.hub with modLog := s.hub.modLog ++ [4] } }
  match readLayout bs with
  | none => fail
  | some qs =>
    if qs.all fun x => decide ((checkSett x.2.2.sett).1 = 1) then qs.foldl (fun s x => s.modQueue x.1 x.2.1 fun _ => x.2.2) s
    else fail

/-- FWACT with a status; GO reads as written (00 R7). -/
def fwactWord (val : Word) (st : Nat) : Word := (val &&& 0xFFFFFFFFF001) ||| BitVec.ofNat 64 (2 * st)

/-- A write of FWACT, or the same order over the side band. An activation that starts freezes every function; one that is
refused during a checkpoint returns GO to 0 (26 R405). While one is under way a write sets AREA and GO alone (00 R7): the activation
has taken the AREA that it was ordered with (log 38). -/
def activate (val : Word) (s : State) : State :=
  let set (val : Word) (st : Nat) (s : State) : State := { s with hub := { s.hub with fwact := fwactWord val st } }
  if s.hub.activating.isSome || !val.getLsbD 0 then set val (s.hub.fwact.extractLsb' 1 3).toNat s
  else if s.hub.copying.isSome then set (val &&& ~~~ 1#64) 3 s
  else if !(stagedSlot s.hub).2 then set val 2 s
  else
    let s := freezeAll (set val 1 s)
    { s with hub := { s.hub with activating := some val } }

/-- THE ACTIVATION GOES ON once everything is drained (26 R399): the layout is written, and the module is reset; the new
firmware reads the layout back from where it lies (R400). A fault of the write sets STATUS 4. -/
def activation (s : State) : State :=
  match s.hub.activating with
  | none => s
  | some val => match drainAll s with
    | none => s
    | some s =>
      let bs := layoutBytes s
      match s.agentKeys 0 0 hubCore (val &&& 0xFFFFFFFFF000) .write bs.length with
      | .error _ => { s with hub := { s.hub with activating := none, fwact := fwactWord s.hub.fwact 4 } }
      | .ok ks =>
        let s := moduleReset true ((ks.zip bs).foldl (fun s p => s.store none p.1 [p.2] []) s)
        if s.hub.stopped then s else restoreQueues (ks.map s.byte) s

/-- FIRMWARE_ACTIVATION. -/
def execFirmwareActivation (val : Word) (s : State) : Out := .next (activate val s)
/-- STAGE_ACTIVATE: a refusal is answered over MCTP too (26 R405). -/
def execStageActivate (val : Word) (s : State) : Out :=
  let t := activate (val ||| 1) s
  .next (if s.hub.activating.isNone ∧ t.hub.activating.isNone then t.send [.answer [t.hub.fwact]] else t)

/-! ### Checkpoint (26 R404, R405) -/

/-- CKCTL with a status; GO reads as written (00 R7). -/
def ckctlWord (val : Word) (st : Nat) : Word := (val &&& 0xFFFFC0000001) ||| BitVec.ofNat 64 (2 * st)

/-- A checkpoint starts: every function freezes; the copy begins once everything is drained. -/
def beginCheckpoint (val : Word) (s : State) : State :=
  let s := freezeAll s
  { s with hub := { s.hub with ckctl := ckctlWord val 1, copying := some ((val.extractLsb' 30 18).toNat * 2 ^ 46) } }

/-- CKCTL_GO: a write of CKCTL. A second GO has no effect, and one while an activation runs is refused. -/
def execCkctlGo (val : Word) (s : State) : Out :=
  if val.getLsbD 0 then
    if s.hub.copying.isSome then .next s
    else if s.hub.activating.isSome then .next { s with hub := { s.hub with ckctl := ckctlWord val 4 } }
    else .next (beginCheckpoint val s)
  else .next { s with hub := { s.hub with ckctl := ckctlWord val (s.hub.ckctl.extractLsb' 1 3).toNat } }

/-- CKPT: the same order over the side band, with the address in CKCTL. -/
def execCkpt (s : State) : Out :=
  if s.hub.copying.isSome then .next s
  else if s.hub.activating.isSome then .next { s with hub := { s.hub with ckctl := ckctlWord s.hub.ckctl 4 } }
  else .next (beginCheckpoint s.hub.ckctl s)

/-- The first `n` bytes of DRAM, in die order, appear at a host address. -/
def copyDram (dest n : Nat) (s : State) : State :=
  let there (k : Nat) : Bool := decide (keyHost dest ≤ k) && decide (k < keyHost dest + n)
  let m := restrict (fun k => !there k) s.mem
  { s with
    mem := (s.mem.filter fun c => c.1 < n).foldl (fun m c => wr (0 : Byte) m (keyHost dest + c.1) c.2) m
    stamps := restrict (fun k => !there k) s.stamps }

/-- The checkpoint ends: resets that waited start (R405). -/
def endCheckpoint (st : Nat) (s : State) : State :=
  let s := { s with hub := { s.hub with ckctl := ckctlWord s.hub.ckctl st, copying := none } }
  (List.range 5).foldl (fun s f => if (s.fn f).resetWait then orderReset f s else s) s

/-- CHECKPOINT_DONE: everything is drained, and the 64 GiB of each physical die have been written. -/
def execCheckpointDone (s : State) : Out :=
  match s.hub.copying with
  | none => .next s
  | some dest => match drainAll s with
    | none => .next s
    | some s =>
      let s := copyDram dest (2 ^ 39) s
      .next (endCheckpoint 2 (s.send [.msix 0 2, .mctp 0 (ckctlWord s.hub.ckctl 2)]))

/-- HOST_LINK_LOST: the pages already written remain valid; how many is not fixed. Before everything is drained there are
none. -/
def execHostLinkLost (s : State) : Out :=
  match s.hub.copying with
  | none => .next s
  | some dest =>
    match drainAll s with
    | none => .next (endCheckpoint 3 s)
    | some s =>
      let n := Nat.min (2 ^ 39) (2 ^ 12 * Config.freeProgress s.freeCtr)
      .next (endCheckpoint 3 { copyDram dest n s with freeCtr := s.freeCtr + 1 })

/-! ### Telemetry (26 R403) -/

/-- Writes the words of a sample, each as a write event of the die at the word's home (11 R196, R197). A word whose translation
faults is not written. -/
def writeSample (v : Nat) : List (Word × Word) → State → State
  | [], s => s
  | (a, w) :: r, s =>
    writeSample v r (match s.agentLoc 0 v hubCore a .write with
      | .ok l => agentWrite v 0 hubCore 0 l a (toBytes 8 w.toNat) s
      | .error _ => s)

/-- TELEMETRY_SAMPLE. The reserved word at offset 24 of the entry, which the layout of R403 gives as zero and 00 R9 has read as
zero, is written as zero before the three words that R403 names: DESIGN CHOICE, log 43. -/
def execTelemetrySample (die : Nat) (s : State) : Out :=
  if die ≥ 8 then .next s
  else
    let p := s.pdie die
    let s := due ((p.telSeq + 1) * 1000000) s
    let x := Config.freeTelemetry s.freeCtr
    let w2 := (x.2 &&& 0xFFFFFFFF00000000) ||| BitVec.ofNat 64 (p.telSeq % 2 ^ 32)
    let ws := [BitVec.ofNat 64 s.cycleG, x.1, w2, 0]
    let s := { s.modPdie die (fun p => { p with telSample := ws, telSeq := p.telSeq + 1 }) with freeCtr := s.freeCtr + 1 }
    let base := (p.telBase &&& 0xFFFFFFFF8000) + BitVec.ofNat 64 (32 * (p.telSeq % 1024))
    if p.telBase.getLsbD 0 then
      .next (writeSample (s.virt die) [(base + 24, 0), (base, ws.getD 0 0), (base + 8, ws.getD 1 0), (base + 16, ws.getD 2 0)] s)
    else .next s

/-! ### Reads by the host (00 R1, R7, 20 R325) -/

/-- The HSTAT word of a function (23 R362). -/
def hstatWord (f : Fn) : Word :=
  let cause := ((f.recs.headD []).headD 0).extractLsb' 56 8
  (cause.setWidth 64 <<< 56) ||| (BitVec.ofNat 64 f.recs.length <<< 32) ||| (if f.halted then 1 else 0)

/-- A register of the PF's BAR0 that the module has once, or once for each function or die. -/
def pfWord (off : Nat) (s : State) : Word :=
  let f := s.fn ((off - 0x1000) / 0x20)
  if 0x1000 ≤ off ∧ off < 0x10A0 then
    (if off % 0x20 = 0 then f.pcore.extractLsb' 0 64 else if off % 0x20 = 8 then f.pcore.extractLsb' 64 64 else 0)
  else if 0x1200 ≤ off ∧ off < 0x1340 then s.prngOf ((off - 0x1200) / 0x40) (off % 0x40 / 8)
  else if 0x1400 ≤ off ∧ off < 0x1450 then
    let g := s.fn ((off - 0x1400) / 0x10)
    if off % 0x10 = 0 then (if g.hold then 1 else 0) else fstatWord g
  else if 0x1600 ≤ off ∧ off < 0x1628 then hstatWord (s.fn ((off - 0x1600) / 8))
  else if 0x1800 ≤ off ∧ off < 0x1840 then (s.pdie ((off - 0x1800) / 8)).pwrLim
  else if 0x1840 ≤ off ∧ off < 0x1880 then (s.pdie ((off - 0x1840) / 8)).telBase
  else if off = 0x1900 then s.hub.fwact
  else if off = 0x1A00 then s.hub.ckctl
  else if off = 0x1B00 then s.hub.sload0
  else if off = 0x1B08 then s.hub.sload1
  else if off = 0x1B10 then s.hub.sloadSt
  else if off = 0x1F00 then s.hub.modid.setWidth 64
  else if 0x10000 ≤ off ∧ off < 0x14000 then rd 0 s.hub.route ((off - 0x10000) / 8)
  else 0

/-- The word that a read returns. Offsets are multiples of 8; a reserved one reads zero. -/
def readWord (r : HostRead) (s : State) : Word :=
  match r with
  | .part => Config.partNumber
  | .portal _ _ => BitVec.allOnes 64
  | .queue f q off => if off = 0x800 then (s.queue f q).qctl else if off = 0x808 then qstatWord s f q else 0
  | .bar0 f off =>
    if off = 0 then (s.fn f).troot else if off = 8 then fstatWord (s.fn f) else if off = 16 then hstatWord (s.fn f)
    else if f = 0 then pfWord off s else 0
  | .lstat l => lstatWord (s.link l)

/-- A read by the host or over the side band is answered; it changes nothing. -/
def hostRead (r : HostRead) (s : State) : State := s.send [.answer [readWord r s]]

/-! ### Faults of a whole bundle (02 R40, 06 R110) -/

/-- ILLEGAL_BUNDLE: no slot commits, and trap 0x01 is taken at the bundle. -/
def execIllegalBundle (cond slots : BitVec 4) (s : State) : Out :=
  if s.me.mode = .run then .next (trapAt s.cur s.me.pc (cond ++ slots) 0x01 0 0 s.me.pc s) else .next s

/-- BUNDLE_FETCH_FAULT. An elided region does not abort: no bundle of it has issued. -/
def execBundleFetchFault (code : BitVec 8) (s : State) : Out :=
  if s.me.mode = .run then .next (trapAt s.cur s.me.pc 0 code (if code = 0x10 then 3 else 0) s.me.pc s.me.pc s) else .next s

end Sys2Proof.Machine
end

