-- ==== Sys2Proof/Machine/Dispatch.lean ====
section
/-!
DEFINITION. The meaning of each instruction, by constructor.
-/
namespace Sys2Proof.Machine

/-- The effect of one step of the machine. -/
def exec (i : Instr) (s : State) : Host.Outcome State Fault Refusal :=
  match i with
  | .add d a b => Sys2Proof.Machine.execAdd d a b s
  | .sub d a b => Sys2Proof.Machine.execSub d a b s
  | .mul d a b => Sys2Proof.Machine.execMul d a b s
  | .mulh d a b => Sys2Proof.Machine.execMulh d a b s
  | .mulhn d a b => Sys2Proof.Machine.execMulhn d a b s
  | .div d a b => Sys2Proof.Machine.execDiv d a b s
  | .divn d a b => Sys2Proof.Machine.execDivn d a b s
  | .rem d a b => Sys2Proof.Machine.execRem d a b s
  | .remn d a b => Sys2Proof.Machine.execRemn d a b s
  | .neg d a => Sys2Proof.Machine.execNeg d a s
  | .abs d a => Sys2Proof.Machine.execAbs d a s
  | .min d a b => Sys2Proof.Machine.execMin d a b s
  | .max d a b => Sys2Proof.Machine.execMax d a b s
  | .minn d a b => Sys2Proof.Machine.execMinn d a b s
  | .maxn d a b => Sys2Proof.Machine.execMaxn d a b s
  | .and d a b => Sys2Proof.Machine.execAnd d a b s
  | .or d a b => Sys2Proof.Machine.execOr d a b s
  | .xor d a b => Sys2Proof.Machine.execXor d a b s
  | .andn d a b => Sys2Proof.Machine.execAndn d a b s
  | .orn d a b => Sys2Proof.Machine.execOrn d a b s
  | .shl d a b => Sys2Proof.Machine.execShl d a b s
  | .shr d a b => Sys2Proof.Machine.execShr d a b s
  | .sra d a b => Sys2Proof.Machine.execSra d a b s
  | .rotl d a b => Sys2Proof.Machine.execRotl d a b s
  | .rotr d a b => Sys2Proof.Machine.execRotr d a b s
  | .clz d a => Sys2Proof.Machine.execClz d a s
  | .ctz d a => Sys2Proof.Machine.execCtz d a s
  | .popc d a => Sys2Proof.Machine.execPopc d a s
  | .brev d a => Sys2Proof.Machine.execBrev d a s
  | .bswp d a => Sys2Proof.Machine.execBswp d a s
  | .sext d a b => Sys2Proof.Machine.execSext d a b s
  | .zext d a b => Sys2Proof.Machine.execZext d a b s
  | .bext d a b => Sys2Proof.Machine.execBext d a b s
  | .bins d a b => Sys2Proof.Machine.execBins d a b s
  | .mov d a => Sys2Proof.Machine.execMov d a s
  | .cmp bank c d a b => Sys2Proof.Machine.execCmp bank c d a b s
  | .pand bank d a b => Sys2Proof.Machine.execPand bank d a b s
  | .por bank d a b => Sys2Proof.Machine.execPor bank d a b s
  | .pxor bank d a b => Sys2Proof.Machine.execPxor bank d a b s
  | .pnot bank d a => Sys2Proof.Machine.execPnot bank d a s
  | .pmov bank d a => Sys2Proof.Machine.execPmov bank d a s
  | .pset bank d a => Sys2Proof.Machine.execPset bank d a s
  | .pcnt bank d a b => Sys2Proof.Machine.execPcnt bank d a b s
  | .sel p d a b => Sys2Proof.Machine.execSel p d a b s
  | .adda d a b => Sys2Proof.Machine.execAdda d a b s
  | .lea k d a b => Sys2Proof.Machine.execLea k d a b s
  | .dslice d a b => Sys2Proof.Machine.execDslice d a b s
  | .acvtRel w d a => Sys2Proof.Machine.execAcvtRel w d a s
  | .acvtGen w d a => Sys2Proof.Machine.execAcvtGen w d a s
  | .atst bank w d a => Sys2Proof.Machine.execAtst bank w d a s
  | .srd d n => Sys2Proof.Machine.execSrd d n s
  | .swr n a => Sys2Proof.Machine.execSwr n a s
  | .addi d a imm => Sys2Proof.Machine.execAddi d a imm s
  | .subi d a imm => Sys2Proof.Machine.execSubi d a imm s
  | .andi d a imm => Sys2Proof.Machine.execAndi d a imm s
  | .ori d a imm => Sys2Proof.Machine.execOri d a imm s
  | .xori d a imm => Sys2Proof.Machine.execXori d a imm s
  | .shli d a n => Sys2Proof.Machine.execShli d a n s
  | .shri d a n => Sys2Proof.Machine.execShri d a n s
  | .srai d a n => Sys2Proof.Machine.execSrai d a n s
  | .lui d imm => Sys2Proof.Machine.execLui d imm s
  | .movi d imm => Sys2Proof.Machine.execMovi d imm s
  | .cmpi c d a imm => Sys2Proof.Machine.execCmpi c d a imm s
  | .br off => Sys2Proof.Machine.execBr off s
  | .bri a => Sys2Proof.Machine.execBri a s
  | .call off => Sys2Proof.Machine.execCall off s
  | .ret a => Sys2Proof.Machine.execRet a s
  | .loop n a len => Sys2Proof.Machine.execLoop n a len s
  | .lbrk n => Sys2Proof.Machine.execLbrk n s
  | .ld sz d aa am off => Sys2Proof.Machine.execLd sz d aa am off s
  | .st sz d aa am off => Sys2Proof.Machine.execSt sz d aa am off s
  | .ldl sz n aa am cyc => Sys2Proof.Machine.execLdl sz n aa am cyc s
  | .rld sz d aa am off => Sys2Proof.Machine.execRld sz d aa am off s
  | .rldn d aa am off => Sys2Proof.Machine.execRldn d aa am off s
  | .rst sz d aa am off => Sys2Proof.Machine.execRst sz d aa am off s
  | .rred fl d aa am off => Sys2Proof.Machine.execRred fl d aa am off s
  | .vld w d aa am off => Sys2Proof.Machine.execVld w d aa am off s
  | .vst w d aa am off => Sys2Proof.Machine.execVst w d aa am off s
  | .vldl w n aa am cyc => Sys2Proof.Machine.execVldl w n aa am cyc s
  | .vlds e d aa str => Sys2Proof.Machine.execVlds e d aa str s
  | .vldx e d aa vi => Sys2Proof.Machine.execVldx e d aa vi s
  | .vsts e d aa str => Sys2Proof.Machine.execVsts e d aa str s
  | .vstx e d aa vi => Sys2Proof.Machine.execVstx e d aa vi s
  | .vaadd e64 w1024 d aa am off => Sys2Proof.Machine.execVaadd e64 w1024 d aa am off s
  | .vaor e64 w1024 d aa am off => Sys2Proof.Machine.execVaor e64 w1024 d aa am off s
  | .vamax e64 w1024 d aa am off => Sys2Proof.Machine.execVamax e64 w1024 d aa am off s
  | .vafadd w1024 d aa am off => Sys2Proof.Machine.execVafadd w1024 d aa am off s
  | .vbupd op w d aa am off => Sys2Proof.Machine.execVbupd op w d aa am off s
  | .aadd e64 d aa am off => Sys2Proof.Machine.execAadd e64 d aa am off s
  | .amin e64 d aa am off => Sys2Proof.Machine.execAmin e64 d aa am off s
  | .amax e64 d aa am off => Sys2Proof.Machine.execAmax e64 d aa am off s
  | .aminn e64 d aa am off => Sys2Proof.Machine.execAminn e64 d aa am off s
  | .amaxn e64 d aa am off => Sys2Proof.Machine.execAmaxn e64 d aa am off s
  | .aand e64 d aa am off => Sys2Proof.Machine.execAand e64 d aa am off s
  | .aor e64 d aa am off => Sys2Proof.Machine.execAor e64 d aa am off s
  | .axor e64 d aa am off => Sys2Proof.Machine.execAxor e64 d aa am off s
  | .axchg e64 d aa am off => Sys2Proof.Machine.execAxchg e64 d aa am off s
  | .acas e64 d aa am off => Sys2Proof.Machine.execAcas e64 d aa am off s
  | .afadd d aa am off => Sys2Proof.Machine.execAfadd d aa am off s
  | .afmin d aa am off => Sys2Proof.Machine.execAfmin d aa am off s
  | .afmax d aa am off => Sys2Proof.Machine.execAfmax d aa am off s
  | .vadd w d a b la lb t => Sys2Proof.Machine.execVadd w d a b la lb t s
  | .vsub w d a b la lb t => Sys2Proof.Machine.execVsub w d a b la lb t s
  | .vmul w d a b la lb t => Sys2Proof.Machine.execVmul w d a b la lb t s
  | .vmulh w d a b la lb t => Sys2Proof.Machine.execVmulh w d a b la lb t s
  | .vmin w d a b la lb t => Sys2Proof.Machine.execVmin w d a b la lb t s
  | .vmax w d a b la lb t => Sys2Proof.Machine.execVmax w d a b la lb t s
  | .vabs w d a la t => Sys2Proof.Machine.execVabs w d a la t s
  | .vneg w d a la t => Sys2Proof.Machine.execVneg w d a la t s
  | .vfma w d a b la lb t => Sys2Proof.Machine.execVfma w d a b la lb t s
  | .vfms w d a b la lb t => Sys2Proof.Machine.execVfms w d a b la lb t s
  | .vand w d a b la lb => Sys2Proof.Machine.execVand w d a b la lb s
  | .vor w d a b la lb => Sys2Proof.Machine.execVor w d a b la lb s
  | .vxor w d a b la lb => Sys2Proof.Machine.execVxor w d a b la lb s
  | .vnot w d a la => Sys2Proof.Machine.execVnot w d a la s
  | .vpopc w d a la t => Sys2Proof.Machine.execVpopc w d a la t s
  | .vclz w d a la t => Sys2Proof.Machine.execVclz w d a la t s
  | .vshl w d a b la lb t => Sys2Proof.Machine.execVshl w d a b la lb t s
  | .vshr w d a b la lb t => Sys2Proof.Machine.execVshr w d a b la lb t s
  | .vsra w d a b la lb t => Sys2Proof.Machine.execVsra w d a b la lb t s
  | .vsel w d a b la lb k => Sys2Proof.Machine.execVsel w d a b la lb k s
  | .vbcast w d a la t => Sys2Proof.Machine.execVbcast w d a la t s
  | .viota w d t => Sys2Proof.Machine.execViota w d t s
  | .vmovs w d a b la t => Sys2Proof.Machine.execVmovs w d a b la t s
  | .vins w d a b t => Sys2Proof.Machine.execVins w d a b t s
  | .vcmp c w d a b la lb t => Sys2Proof.Machine.execVcmp c w d a b la lb t s
  | .vcvt sat r src w d a la t => Sys2Proof.Machine.execVcvt sat r src w d a la t s
  | .vrnd r w d a la t => Sys2Proof.Machine.execVrnd r w d a la t s
  | .vrcp w d a la t => Sys2Proof.Machine.execVrcp w d a la t s
  | .vrsq w d a la t => Sys2Proof.Machine.execVrsq w d a la t s
  | .vsqrt w d a la t => Sys2Proof.Machine.execVsqrt w d a la t s
  | .vexp2 w d a la t => Sys2Proof.Machine.execVexp2 w d a la t s
  | .vlog2 w d a la t => Sys2Proof.Machine.execVlog2 w d a la t s
  | .vtanh w d a la t => Sys2Proof.Machine.execVtanh w d a la t s
  | .vrsum w d a la t => Sys2Proof.Machine.execVrsum w d a la t s
  | .vrmax w d a la t => Sys2Proof.Machine.execVrmax w d a la t s
  | .vrmin w d a la t => Sys2Proof.Machine.execVrmin w d a la t s
  | .vscan w d a la t => Sys2Proof.Machine.execVscan w d a la t s
  | .vshuf bank pat w d a b la lb => Sys2Proof.Machine.execVshuf bank pat w d a b la lb s
  | .vpack sat w d a b la lb t => Sys2Proof.Machine.execVpack sat w d a b la lb t s
  | .vunpk hi src w d a la t => Sys2Proof.Machine.execVunpk hi src w d a la t s
  | .vldm bank d row => Sys2Proof.Machine.execVldm bank d row s
  | .vstm bank d row => Sys2Proof.Machine.execVstm bank d row s
  | .vclr w d => Sys2Proof.Machine.execVclr w d s
  | .kand d a b => Sys2Proof.Machine.execKand d a b s
  | .kor d a b => Sys2Proof.Machine.execKor d a b s
  | .knot d a => Sys2Proof.Machine.execKnot d a s
  | .kmov d a => Sys2Proof.Machine.execKmov d a s
  | .patld bank pat a la => Sys2Proof.Machine.execPatld bank pat a la s
  | .macc z va typ aux => Sys2Proof.Machine.execMacc z va typ aux s
  | .mtern z va typ aux => Sys2Proof.Machine.execMtern z va typ aux s
  | .mpush va => Sys2Proof.Machine.execMpush va s
  | .mshift n => Sys2Proof.Machine.execMshift n s
  | .mdrain z aa typ row => Sys2Proof.Machine.execMdrain z aa typ row s
  | .mdrainQ z typ row => Sys2Proof.Machine.execMdrainQ z typ row s
  | .mclr z => Sys2Proof.Machine.execMclr z s
  | .mbsel aa => Sys2Proof.Machine.execMbsel aa s
  | .vrdz z d blk row => Sys2Proof.Machine.execVrdz z d blk row s
  | .fmtld aa n => Sys2Proof.Machine.execFmtld aa n s
  | .fmtsel base l => Sys2Proof.Machine.execFmtsel base l s
  | .fmtrd d n => Sys2Proof.Machine.execFmtrd d n s
  | .rept x y g n => Sys2Proof.Machine.execRept x y g n s
  | .fence d a sc set => Sys2Proof.Machine.execFence d a sc set s
  | .blk a n => Sys2Proof.Machine.execBlk a n s
  | .xbegin d => Sys2Proof.Machine.execXbegin d s
  | .xabort c => Sys2Proof.Machine.execXabort c s
  | .barp src aa => Sys2Proof.Machine.execBarp src aa s
  | .bara src aa => Sys2Proof.Machine.execBara src aa s
  | .barw d aa => Sys2Proof.Machine.execBarw d aa s
  | .evsig e => Sys2Proof.Machine.execEvsig e s
  | .evwait e => Sys2Proof.Machine.execEvwait e s
  | .jobw eng f a => Sys2Proof.Machine.execJobw eng f a s
  | .jobgo eng d => Sys2Proof.Machine.execJobgo eng d s
  | .jobwait a => Sys2Proof.Machine.execJobwait a s
  | .cpy d aa => Sys2Proof.Machine.execCpy d aa s
  | .gath d aa => Sys2Proof.Machine.execGath d aa s
  | .scat d aa => Sys2Proof.Machine.execScat d aa s
  | .trmk d aa => Sys2Proof.Machine.execTrmk d aa s
  | .trfree a => Sys2Proof.Machine.execTrfree a s
  | .trpost seg a => Sys2Proof.Machine.execTrpost seg a s
  | .trwait a ev => Sys2Proof.Machine.execTrwait a ev s
  | .trfrz a => Sys2Proof.Machine.execTrfrz a s
  | .trsave seg a => Sys2Proof.Machine.execTrsave seg a s
  | .trload seg a => Sys2Proof.Machine.execTrload seg a s
  | .tredit seg a => Sys2Proof.Machine.execTredit seg a s
  | .trq d a => Sys2Proof.Machine.execTrq d a s
  | .clnest d aa => Sys2Proof.Machine.execClnest d aa s
  | .clabort a => Sys2Proof.Machine.execClabort a s
  | .clev a ev => Sys2Proof.Machine.execClev a ev s
  | .lnch d aa => Sys2Proof.Machine.execLnch d aa s
  | .lnchi d aa => Sys2Proof.Machine.execLnchi d aa s
  | .tgdep l e => Sys2Proof.Machine.execTgdep l e s
  | .tgwait a => Sys2Proof.Machine.execTgwait a s
  | .slack n => Sys2Proof.Machine.execSlack n s
  | .brel a => Sys2Proof.Machine.execBrel a s
  | .bown a => Sys2Proof.Machine.execBown a s
  | .wsplit d => Sys2Proof.Machine.execWsplit d s
  | .romk d aa => Sys2Proof.Machine.execRomk d aa s
  | .rofree a => Sys2Proof.Machine.execRofree a s
  | .rocall d a m => Sys2Proof.Machine.execRocall d a m s
  | .rocallW d a m => Sys2Proof.Machine.execRocallW d a m s
  | .rord d a m => Sys2Proof.Machine.execRord d a m s
  | .rotrim a => Sys2Proof.Machine.execRotrim a s
  | .roq d a => Sys2Proof.Machine.execRoq d a s
  | .roret a => Sys2Proof.Machine.execRoret a s
  | .trap c => Sys2Proof.Machine.execTrap c s
  | .syscVersion d a svc => Sys2Proof.Machine.execSyscVersion d a svc s
  | .syscModuleId d a => Sys2Proof.Machine.execSyscModuleId d a s
  | .syscMsix d a => Sys2Proof.Machine.execSyscMsix d a s
  | .syscLog d a => Sys2Proof.Machine.execSyscLog d a s
  | .strd d a => Sys2Proof.Machine.execStrd d a s
  | .tlbiPage src all => Sys2Proof.Machine.execTlbiPage src all s
  | .tlbiAll src all => Sys2Proof.Machine.execTlbiAll src all s
  | .ctxsv src => Sys2Proof.Machine.execCtxsv src s
  | .ctxld src => Sys2Proof.Machine.execCtxld src s
  | .pempt a => Sys2Proof.Machine.execPempt a s
  | .settLdp d w => Sys2Proof.Machine.execSettLdp d w s
  | .settLdi d imm => Sys2Proof.Machine.execSettLdi d imm s
  | .settLdm d off => Sys2Proof.Machine.execSettLdm d off s
  | .settStm a off => Sys2Proof.Machine.execSettStm a off s
  | .settAdd d a b => Sys2Proof.Machine.execSettAdd d a b s
  | .settSub d a b => Sys2Proof.Machine.execSettSub d a b s
  | .settAnd d a b => Sys2Proof.Machine.execSettAnd d a b s
  | .settOr d a b => Sys2Proof.Machine.execSettOr d a b s
  | .settXor d a b => Sys2Proof.Machine.execSettXor d a b s
  | .settShl d a n => Sys2Proof.Machine.execSettShl d a n s
  | .settShr d a n => Sys2Proof.Machine.execSettShr d a n s
  | .settAndi d a imm => Sys2Proof.Machine.execSettAndi d a imm s
  | .settBeq a b f => Sys2Proof.Machine.execSettBeq a b f s
  | .settBne a b f => Sys2Proof.Machine.execSettBne a b f s
  | .settBltu a b f => Sys2Proof.Machine.execSettBltu a b f s
  | .settRep n len => Sys2Proof.Machine.execSettRep n len s
  | .settEmit patch k a b => Sys2Proof.Machine.execSettEmit patch k a b s
  | .settRej c => Sys2Proof.Machine.execSettRej c s
  | .nop => Sys2Proof.Machine.execNop s
  | .exit => Sys2Proof.Machine.execExit s
  | .yield => Sys2Proof.Machine.execYield s
  | .patsw => Sys2Proof.Machine.execPatsw s
  | .xend => Sys2Proof.Machine.execXend s
  | .drainCpl => Sys2Proof.Machine.execDrainCpl s
  | .drainCpsh => Sys2Proof.Machine.execDrainCpsh s
  | .drainGath => Sys2Proof.Machine.execDrainGath s
  | .drainCol => Sys2Proof.Machine.execDrainCol s
  | .eret => Sys2Proof.Machine.execEret s
  | .idle => Sys2Proof.Machine.execIdle s
  | .settEnd => Sys2Proof.Machine.execSettEnd s
  | .portalWrite fn q off words => Sys2Proof.Machine.execPortalWrite fn q off words s
  | .portalPostedWrite fn q => Sys2Proof.Machine.execPortalPostedWrite fn q s
  | .settPacketStart => Sys2Proof.Machine.execSettPacketStart s
  | .shadowBankSwap vdie fn q => Sys2Proof.Machine.execShadowBankSwap vdie fn q s
  | .settLoad val => Sys2Proof.Machine.execSettLoad val s
  | .settLoadDone => Sys2Proof.Machine.execSettLoadDone s
  | .pcoreWrite fn hi val => Sys2Proof.Machine.execPcoreWrite fn hi val s
  | .prngWrite fn vdie val => Sys2Proof.Machine.execPrngWrite fn vdie val s
  | .trootWrite fn val => Sys2Proof.Machine.execTrootWrite fn val s
  | .fctlHoldWrite fn val => Sys2Proof.Machine.execFctlHoldWrite fn val s
  | .functionLevelReset fn => Sys2Proof.Machine.execFunctionLevelReset fn s
  | .flrDrainDone fn => Sys2Proof.Machine.execFlrDrainDone fn s
  | .moduleReset => Sys2Proof.Machine.execModuleReset s
  | .firmwareActivation val => Sys2Proof.Machine.execFirmwareActivation val s
  | .ckctlGo val => Sys2Proof.Machine.execCkctlGo val s
  | .checkpointDone => Sys2Proof.Machine.execCheckpointDone s
  | .hostLinkLost => Sys2Proof.Machine.execHostLinkLost s
  | .pwrlimWrite die val => Sys2Proof.Machine.execPwrlimWrite die val s
  | .telbaseWrite die val => Sys2Proof.Machine.execTelbaseWrite die val s
  | .modidWrite val => Sys2Proof.Machine.execModidWrite val s
  | .routeTableWrite n val => Sys2Proof.Machine.execRouteTableWrite n val s
  | .registerWrite reg val => Sys2Proof.Machine.execRegisterWrite reg val s
  | .gettel => Sys2Proof.Machine.execGettel s
  | .getlog fn => Sys2Proof.Machine.execGetlog fn s
  | .freeze fn => Sys2Proof.Machine.execFreeze fn s
  | .reset fn => Sys2Proof.Machine.execReset fn s
  | .stage image => Sys2Proof.Machine.execStage image s
  | .stageActivate val => Sys2Proof.Machine.execStageActivate val s
  | .ckpt => Sys2Proof.Machine.execCkpt s
  | .pldmFirmwareUpdate image => Sys2Proof.Machine.execPldmFirmwareUpdate image s
  | .spdmMeasurements => Sys2Proof.Machine.execSpdmMeasurements s
  | .flitReceive link crcOk => Sys2Proof.Machine.execFlitReceive link crcOk s
  | .nakReceive link n => Sys2Proof.Machine.execNakReceive link n s
  | .flitAckReceive link n => Sys2Proof.Machine.execFlitAckReceive link n s
  | .linkTrainDone link loBad hiBad => Sys2Proof.Machine.execLinkTrainDone link loBad hiBad s
  | .fabricForward k => Sys2Proof.Machine.execFabricForward k s
  | .requestArriveHome die k => Sys2Proof.Machine.execRequestArriveHome die k s
  | .replyReceive die k => Sys2Proof.Machine.execReplyReceive die k s
  | .acknowledgementReceive die k => Sys2Proof.Machine.execAcknowledgementReceive die k s
  | .requestTimerExpire die tag => Sys2Proof.Machine.execRequestTimerExpire die tag s
  | .replyCacheEntryExpire die k => Sys2Proof.Machine.execReplyCacheEntryExpire die k s
  | .copyAgeDiscard die k => Sys2Proof.Machine.execCopyAgeDiscard die k s
  | .fabricRequestFail die tag => Sys2Proof.Machine.execFabricRequestFail die tag s
  | .beaconSend die => Sys2Proof.Machine.execBeaconSend die s
  | .beaconReceive die k => Sys2Proof.Machine.execBeaconReceive die k s
  | .writeApply die k => Sys2Proof.Machine.execWriteApply die k s
  | .readServe die k => Sys2Proof.Machine.execReadServe die k s
  | .replyClockMerge die k => Sys2Proof.Machine.execReplyClockMerge die k s
  | .translationWalkDone die k => Sys2Proof.Machine.execTranslationWalkDone die k s
  | .landingDelivery cx slot => Sys2Proof.Machine.execLandingDelivery cx slot s
  | .repeatReissue cx => Sys2Proof.Machine.execRepeatReissue cx s
  | .startTokenRelease die => Sys2Proof.Machine.execStartTokenRelease die s
  | .arrayIdleTimeout core => Sys2Proof.Machine.execArrayIdleTimeout core s
  | .telemetrySample die => Sys2Proof.Machine.execTelemetrySample die s
  | .contextWorkRequest cx => Sys2Proof.Machine.execContextWorkRequest cx s
  | .nodeStart vdie id => Sys2Proof.Machine.execNodeStart vdie id s
  | .nodeRetire vdie id => Sys2Proof.Machine.execNodeRetire vdie id s
  | .engineJobComplete vdie id => Sys2Proof.Machine.execEngineJobComplete vdie id s
  | .engineJobFault vdie id => Sys2Proof.Machine.execEngineJobFault vdie id s
  | .drainQueuePost core => Sys2Proof.Machine.execDrainQueuePost core s
  | .treeFlitArrive fn idx k => Sys2Proof.Machine.execTreeFlitArrive fn idx k s
  | .treeSlotFault fn idx k => Sys2Proof.Machine.execTreeSlotFault fn idx k s
  | .treeStallTimeout fn idx => Sys2Proof.Machine.execTreeStallTimeout fn idx s
  | .clnestTransferArrive core k => Sys2Proof.Machine.execClnestTransferArrive core k s
  | .clnestAbortRerun core fn n => Sys2Proof.Machine.execClnestAbortRerun core fn n s
  | .clnestResume core fn n => Sys2Proof.Machine.execClnestResume core fn n s
  | .rocallAppend die k => Sys2Proof.Machine.execRocallAppend die k s
  | .replayApply vdie fn idx => Sys2Proof.Machine.execReplayApply vdie fn idx s
  | .rordServe die k => Sys2Proof.Machine.execRordServe die k s
  | .haltLineArrive vdie fn => Sys2Proof.Machine.execHaltLineArrive vdie fn s
  | .preemptSave cx => Sys2Proof.Machine.execPreemptSave cx s
  | .preemptDeadline cx => Sys2Proof.Machine.execPreemptDeadline cx s
  | .blkHoldExpire cx => Sys2Proof.Machine.execBlkHoldExpire cx s
  | .elidedRegionAbort cx cause => Sys2Proof.Machine.execElidedRegionAbort cx cause s
  | .barwComplete die k => Sys2Proof.Machine.execBarwComplete die k s
  | .fenceComplete cx => Sys2Proof.Machine.execFenceComplete cx s
  | .eccError loc unc => Sys2Proof.Machine.execEccError loc unc s
  | .virtualDieRemap x y => Sys2Proof.Machine.execVirtualDieRemap x y s
  | .illegalBundle cond slots => Sys2Proof.Machine.execIllegalBundle cond slots s
  | .bundleFetchFault code => Sys2Proof.Machine.execBundleFetchFault code s
  | .preemptRequestArrive cx => Sys2Proof.Machine.execPreemptRequestArrive cx s
  | .fabricPortDown port => Sys2Proof.Machine.execFabricPortDown port s
  | .fabricPortUp port => Sys2Proof.Machine.execFabricPortUp port s
  | .firmwareOrderedRetrain link => Sys2Proof.Machine.execFirmwareOrderedRetrain link s
  | .yieldWindowEnd cx => Sys2Proof.Machine.execYieldWindowEnd cx s
  | .exitReportArrive die k => Sys2Proof.Machine.execExitReportArrive die k s

end Sys2Proof.Machine
end

