-- ==== Sys2Proof/Machine/Issue.lean ====
section
/-!
DEFINITION. How a context issues a bundle, and what the machine does of itself (02 R28 to R42, 06 R109 to R115,
10 R186 to R188, 11 R203, 14 R263, 23 R364, log 4).
-/
namespace Sys2Proof.Machine
open Store

/-! ### What a bundle reads and waits for -/

/-- Slots of a list as a TRAPMASK. -/
def maskOf (l : List (Nat × Instr × Nat)) : BitVec 8 := l.foldl (fun m x => m ||| slotBit x.1) 0

/-- Addresses of an access form, by its operands. -/
def slotAddrs (i : Instr) (s : State) : Option (List Word) :=
  match i with
  | .ld z _ aa am off | .rld z _ aa am off => some [mmAddr s aa am off (ldSize z)]
  | .st z _ aa am off | .rst z _ aa am off => some [mmAddr s aa am off (stSize z)]
  | .vld w _ aa am off | .vst w _ aa am off => some [mmAddr s aa am off (widthBits w / 8)]
  | .rldn _ aa am off => some [mmAddr s aa am off 128]
  | .ldl _ _ aa _ _ | .vldl _ _ aa _ _ => some [rA s aa.toNat]
  | .vlds e _ aa str | .vsts e _ aa str => some (strided s aa str (stSize e))
  | .vldx e _ aa vi | .vstx e _ aa vi => some (indexed s aa vi (stSize e))
  | .aadd z _ aa am off | .amin z _ aa am off | .amax z _ aa am off | .aminn z _ aa am off | .amaxn z _ aa am off
  | .aand z _ aa am off | .aor z _ aa am off | .axor z _ aa am off | .axchg z _ aa am off | .acas z _ aa am off =>
    some [mmAddr s aa am off (aSize z)]
  | .afadd _ aa am off | .afmin _ aa am off | .afmax _ aa am off => some [mmAddr s aa am off 4]
  | .vbupd _ w _ aa am off => some ((List.range (widthBits w / 32)).map fun j => mmAddr s aa am off 4 + BitVec.ofNat 64 (256 * j))
  | .rred fl _ aa am off => some [mmAddr s aa am off (if fl then 4 else 8)]
  | .vaadd _ w _ aa am off | .vaor _ w _ aa am off | .vamax _ w _ aa am off | .vafadd w _ aa am off =>
    some [mmAddr s aa am off (if w then 128 else 64)]
  | .barp _ aa | .bara _ aa | .barw _ aa => some [rA s aa.toNat]
  | .fmtld aa _ => some [rA s aa.toNat]
  | .dslice _ a _ => some [rA s a.toNat]
  | .lnch _ aa | .lnchi _ aa | .cpy _ aa | .gath _ aa | .scat _ aa | .clnest _ aa | .trmk _ aa | .romk _ aa => some [rA s aa.toNat]
  | .trpost seg _ | .tredit seg _ | .trsave seg _ | .trload seg _ => some [rA s seg.toNat]
  | .ctxsv src | .ctxld src => some [rA s src.toNat]
  | _ => none

/-- Object calls: their log and their copies are storage of the die's tower (16 R287). -/
def callsObject : Instr → Bool
  | .rocall _ _ _ | .rocallW _ _ _ | .rord _ _ _ => true
  | _ => false

/-- Whether a FENCE in progress holds a slot back: one that makes an access in its set (11 R203, 12 R235). What a form reads through
addresses that a record gives it waits where it is read (`recordForm`). -/
def fenced (s : State) (i : Instr) : Bool :=
  match slotAddrs i s with
  | some as => as.any (fenceSets s)
  | none => callsObject i && s.me.fences.any fun f => f.set.getLsbD 3

/-- A floating atomic, whose reply carries status (12 R228). -/
def floatAtom : MemOp → Bool
  | .atom .fadd _ _ _ | .atom .fmin _ _ _ | .atom .fmax _ _ _ => true
  | _ => false

/-- Whether an access of the task may still report a trap: EXIT and FENCE wait for it (10 R178, 12 R228). -/
def mayTrap (s : State) : Bool :=
  let p := s.pdie (dieOf s.cur)
  p.walks.any (fun w => mineReq s w.req) ||
    p.sent.any fun q => mineReq s q.req && !q.given && floatAtom q.req.op && decide (q.req.dest ≠ .none)

/-- Whether an access of the task that reads this module has not been answered: a FENCE comes after the traps that poison may
bring (10 R184, 23 R360). EXIT does not wait for them (06 R115, log 11). -/
def answersOpen (s : State) : Bool :=
  (s.pdie (dieOf s.cur)).sent.any fun q => mineReq s q.req && !q.given && q.req.op.reads && q.req.loc.other.isNone

/-- PRECISE: checks of earlier accesses that are still under way (23 R364). -/
def unchecked (s : State) : Bool :=
  let p := s.pdie (dieOf s.cur)
  s.myFlag 25 && (p.walks.any (fun w => mineReq s w.req) ||
    p.sent.any fun q => mineReq s q.req && q.req.loc.other.isSome && !q.accepted && !q.replied)

/-- Forms that read the entry in force beside the matrix forms (05 R90). -/
def readsEntry (i : Instr) : Bool :=
  match i with
  | .vadd _ _ _ _ _ _ t | .vsub _ _ _ _ _ _ t | .vmin _ _ _ _ _ _ t | .vmax _ _ _ _ _ _ t | .vmul _ _ _ _ _ _ t
  | .vmulh _ _ _ _ _ _ t | .vabs _ _ _ _ t | .vneg _ _ _ _ t | .vfma _ _ _ _ _ _ t | .vfms _ _ _ _ _ _ t
  | .vcmp _ _ _ _ _ _ _ t | .vrnd _ _ _ _ _ t | .vrsum _ _ _ _ t | .vrmax _ _ _ _ t | .vrmin _ _ _ _ t | .vscan _ _ _ _ t
  | .vrcp _ _ _ _ t | .vrsq _ _ _ _ t | .vsqrt _ _ _ _ t | .vexp2 _ _ _ _ t | .vlog2 _ _ _ _ t | .vtanh _ _ _ _ t =>
    (etyFmt t).isSome
  | .vcvt _ _ _ _ _ _ _ _ | .vpack _ _ _ _ _ _ _ _ => true
  | .srd _ n => n = .fmtidx
  | _ => false

/-- Whether an FMTLD or FMTSEL waits for the matrix port: the entry in force is not known before its turn (08 R148, R162). -/
def entryOpen (c : Ctx) : Bool := c.port.any fun x => match x.2 with
  | .fmtld _ _ | .fmtsel _ _ => true
  | _ => false

/-- Address registers of the repeat that runs, or that the beat at the head of the matrix port will take (08 R158). -/
def repeatRegs (c : Ctx) : List Nat :=
  match c.mat.running, c.port, c.mat.armed with
  | some r, _, _ => r.x.toList ++ r.y.toList
  | none, (_, i) :: _, some a => if isBeat i && !c.portIss.rept then a.x.toList ++ a.y.toList else []
  | none, _, _ => []

/-- Whether a slot finds its resources taken: a register of the repeat, the status or the format entry of matrix slots
still to come, a bank hold, a fence, a result on its way (08 R148, R158, 05 R86, 12 R231, R235, 03 R48). -/
def slotHeld (s : State) (acts : List (Nat × Instr × Nat)) (keys : List Nat) (x : Nat × Instr × Nat) : Bool :=
  let i := x.2.1
  let sh := shape i
  let c := s.me
  let named := (repeatRegs c).map keyA
  (entryOpen c && readsEntry i) || sh.ws.any (fun k => named.contains k) ||
  (slotReads s acts x).any (fun k => keys.contains k) || sh.ws.any (fun k => keys.contains k) || fenced s i ||
  (match i with
   | .blk a _ => banksHeld s (rS s a)
   | .exit => mayTrap s || holdsPort c
   | .fence _ _ _ _ => mayTrap s || answersOpen s
   | .srd _ n => decide (n = .astat) && holdsPort c
   | .fmtld _ _ => s.readsOpen
   | _ => false)

/-- Landings that a slot reads, or whose busy slot it names (10 R187, R188). -/
def landingsOf (s : State) (acts : List (Nat × Instr × Nat)) (x : Nat × Instr × Nat) : List (Nat × Landing) :=
  s.me.landings.filter fun l =>
    (slotReads s acts x).contains (landKey l.2.dest) || (shape x.2.1).ws.contains (keyLs l.1)

/-- Traps that are decided before the bundle issues, with the slots that raise each (02 R41, R42, 03 R47, 10 R187). -/
def earlyTraps (s : State) (b : Bundle) (acts : List (Nat × Instr × Nat)) : List (BitVec 8 × BitVec 8) :=
  let c := s.me
  let r := readyAt c b
  let privs := acts.filter fun x => isPriv x.2.1 && !s.myPriv
  let short := if s.checking then acts.filter (fun x => availAt c (slotReads s acts x) > r) else []
  let early := if s.checking then acts.filter (fun x => c.landings.any fun l =>
    (slotReads s acts x).contains (landKey l.2.dest) && decide (r < l.2.due)) else []
  [((0x02 : BitVec 8), privs), (0x07, short), (0x09, early)].filterMap fun p =>
    if p.2.isEmpty then none else some (p.1, maskOf p.2)

/-! ### Slots -/

/-- Forms that an elided region does not allow (12 R234 cause 0x03), beside those that say so themselves. SLACK is a launch form
(14 R259), and LBRK ends a loop. -/
def elidedForbids (i : Instr) : Bool :=
  let sh := shape i
  decide (sh.cls = .x) || sh.ws.any (fun k => decide (keyK 0 ≤ k) && decide (k < 20000)) ||
  match i with
  | .rld _ _ _ _ _ | .rldn _ _ _ _ | .rst _ _ _ _ _ | .rred _ _ _ _ _ | .ldl _ _ _ _ _ | .vldl _ _ _ _ _
  | .vaadd _ _ _ _ _ _ | .vaor _ _ _ _ _ _ | .vamax _ _ _ _ _ _ | .vafadd _ _ _ _ _ | .vbupd _ _ _ _ _ _
  | .slack _ | .lbrk _ => true
  | _ => false

/-- One executing slot. A matrix-class slot that must wait for the port looks at its operands there, but for an FMTLD. -/
def runSlot (i : Instr) (s : State) : Out :=
  match if (shape i).cls = .x ∧ !portOpen s ∧ !(i matches .fmtld _ _) then none else firstPoison s (formReads s [] i) with
  | some k => .next (trap 0x10 (poisonKind k) 0 s)
  | none => if s.inElided && elidedForbids i then .next (abortMe 0x03 s) else exec i s

/-! ### The end of a bundle -/

/-- A loop iteration ends with this bundle: it is the last one of a body, whether the loop goes on, ends by its count, by
an LBRK of the bundle or by a branch that leaves the body, or an inner loop without a trip ends there (06 R111 to R114). A branch
that stays in the body continues the iteration (R112). -/
def endsIteration (c : Ctx) : Bool :=
  match c.iss.target with
  | some t => c.iss.loops.any fun l => decide (c.iss.pc = loopEnd l) && !inBody l t
  | none => c.iss.loops.any (fun l => decide (c.iss.pc = loopEnd l)) || match c.loops with
    | l :: _ => decide (c.iss.after.getD c.iss.pc = loopEnd l)
    | [] => false

/-- One bundle of an elided region more; past 64 after XBEGIN's the region aborts with cause 0x02 (12 R234). An abort
resumes at the bundle after XBEGIN's in the flow. -/
def countElided (c : Ctx) : Ctx :=
  match c.region with
  | .elided e =>
    if e.bundles = 0 then { c with region := .elided { e with bundles := 1, resume := c.pc } }
    else if e.bundles ≥ 65 then abortCtx 0x02 c
    else { c with region := .elided { e with bundles := e.bundles + 1 } }
  | _ => c

/-- One bundle of a bank hold more (12 R231): the hold ends with its last one, and when the context parks, in the bundle of
the BLK too. -/
def countHold (c : Ctx) : Ctx :=
  if c.iss.blk then { c with hold := if c.mode = .parked then none else c.hold }
  else match c.hold with
    | some h => { c with hold := if h.left ≤ 1 ∨ c.mode = .parked then none else some { h with left := h.left - 1 } }
    | none => c

/-- Whether the links are up to the tables and the home of the bundle at an address (01 R11). -/
def State.fetchLinked (s : State) (cx f : Nat) (a : Word) : Bool :=
  s.linkedTo (dieOf cx) f (s.virt (dieOf cx)) (coreOf cx) a .fetch 16

/-- The loop buffer takes the bundles of a body when its first one is to be fetched, as far as they can be fetched
(06 R111). -/
def bufferBody (cx : Nat) (s : State) : State :=
  let c := s.ctx cx
  match c.loops, c.task with
  | l :: _, some t =>
    if c.pc = l.body then
      let as := ((List.range l.len).map fun k => l.body + BitVec.ofNat 64 (16 * k)).filter fun a => (look c.lbuf a.toNat).isNone
      let take (m : PMap (BitVec 128)) (a : Word) : PMap (BitVec 128) :=
        match s.fetchAt (coreOf cx) t.fn a with
        | .ok w => if s.fetchLinked cx t.fn a then put m a.toNat w else m
        | .error _ => m
      s.setCtx cx { c with lbuf := as.foldl take c.lbuf }
    else s
  | _, _ => s

/-- The bundle is complete: flow goes on, the task ends, the strand parks, or the context has halted. A repeat of a halted
context stops between two issues, and the slots behind it (23 R361). -/
def finishBundle (s : State) : State :=
  let c := s.me
  if c.mode = .halted then
    let s := setStop s.cur (endFlow c).pc s
    if c.mat.running.isSome then s.mod fun c => { c with mat := { c.mat with running := none }, port := [] } else s
  else if c.task.isNone then s
  else if c.iss.ended then endTask s.cur s
  else
    let b := c.iss.boundary || endsIteration c
    let late := if c.iss.target.isSome then Nat.max c.minReady (c.lastIssue + 3) else c.minReady
    let c := countElided (endFlow c)
    let c := countHold (if c.iss.park then { c with mode := .parked } else c)
    let c := { c with iss := { c.iss with boundary := b }, minReady := late }
    let keep (a : Nat) : Bool := c.loops.any fun l => inBody l (BitVec.ofNat 64 a)
    unpark s.cur (bufferBody s.cur (s.setCtx s.cur { c with lbuf := restrict keep c.lbuf }))

/-- The slots of a bundle run in order (02 R27, R29). A slot that waits keeps the later ones waiting behind it. -/
def runSlots : List (Nat × Instr) → State → Out
  | [], s => .next (finishBundle s)
  | (n, i) :: r, s =>
    match runSlot i (s.mod fun c => { c with iss := { c.iss with slot := n } }) with
    | .next t =>
      if t.me.iss.aborted then .next (finishBundle t)
      else if t.me.wait.isEmpty then runSlots r (heal i s.me.iss.codes.length t)
      else .next (t.mod fun c => { c with wait := c.wait ++ r })
    | o => o

/-! ### Issue -/

/-- Results of fixed latency of a slot; loads from LOCAL have one (03 R55). -/
def resOf (s : State) (i : Instr) : List (Nat × Nat) :=
  match i with
  | .ld z d aa am off => if inWindow .local_ (mmAddr s aa am off (ldSize z)).toNat then lat 12 (ks d) else []
  | .vld w d aa am off => if inWindow .local_ (mmAddr s aa am off (widthBits w / 8)).toNat then lat 14 (kv6 d) else []
  | i => (shape i).res

/-- Cycles by which PRECISE holds the next bundle back for the checks of an access form (23 R364). -/
def preciseHold (s : State) (i : Instr) : Nat :=
  match slotAddrs i s with
  | some as => as.foldl (fun m a => Nat.max m (match window a with
    | some (.local_, _) | some (.peer, _) => 2
    | some (.shared, _) => 4
    | some (.device, _) => 6
    | _ => 0)) 0
  | none => 0

/-- The bundle at `pc` begins to issue in cycle `t`: what its slots read is kept as it stands (02 R28). A result of
variable latency takes the place of an earlier one of fixed latency. -/
def beginIssue (t : Nat) (acts : List (Nat × Instr × Nat)) (s : State) : State :=
  let p := peek s
  let res := acts.flatMap fun x => resOf p x.2.1
  let ws := acts.flatMap fun x => (shape x.2.1).ws
  let hold := if s.myFlag 25 then acts.foldl (fun m x => Nat.max m (preciseHold p x.2.1)) 0 else 0
  s.mod fun c => { c with
    iss := { pc := c.pc, view := c.regs, astat := c.astat, main := c.mat.main, tiles := c.mat.tiles,
             aw := acts.flatMap fun x => ((shape x.2.1).ws.filter fun k => decide (keyA 0 ≤ k) && decide (k < keyP 0)).map fun k =>
               (x.1, k - keyA 0), trapPC := c.trapPC, trapCode := c.trapCode,
             fmtIdx := fmtIdx s, fmt := curFmtX s, ft := c.mat.ft, pbank := c.pbank, trapMask := c.trapMask,
             nrec := (s.fn s.myFn).recs.length, slack := c.slackLeft, cycle := t, cycleG := s.cycleG, loops := c.loops,
             xs := (acts.filter fun x => (shape x.2.1).cls = .x).map Prod.fst }
    lastIssue := t, minReady := if hold = 0 then c.minReady else Nat.max c.minReady (t + 1 + hold)
    avail := res.foldl (fun m r => put m (physKey c.pbank r.1) (t + r.2)) (ws.foldl (fun m k => del m (physKey c.pbank k)) c.avail)
    late := ws.foldl (fun m k => del m k) c.late }

/-- Slots that a bundle occupies and its lane groups: a header occupies slot 0, a NOP nothing (14 R264). -/
def occupied (b : Bundle) : BitVec 4 :=
  b.slots.foldl (fun m x => if x.2.1 = .nop then m else m ||| slot4 x.1) (if b.hdr = .none_ then 0 else slot4 0)
def groupsOf (b : Bundle) : Nat := b.slots.foldl (fun n x => n + (shape x.2.1).groups) 0

/-- Whether the merge stage can take the bundle in cycle `t`: nothing has issued on the core then, or the bundle fits as the
secondary beside the primary (14 R264), which a context in its YIELD window never is (06 R116). -/
def mergeFits (t : Nat) (b : Bundle) (s : State) : Bool :=
  match (s.core (coreOf s.cur)).turn with
  | none => true
  | some u => decide (u.cycle ≠ t) || (!u.two && decide (u.slots &&& occupied b = 0) && decide (u.groups + groupsOf b ≤ 8) &&
      decide (b.hdr ≠ .x) && b.slots.all (fun x => decide ((shape x.2.1).cls ≠ .x)) && decide (s.me.yieldUntil = 0 ∨ s.me.yieldUntil < t))

/-- The bundle takes its place in cycle `t` of the core. -/
def takeTurn (t : Nat) (b : Bundle) (s : State) : State :=
  s.modCore (coreOf s.cur) fun k => { k with turn := some (match k.turn with
    | some u => if u.cycle = t then { u with two := true } else ⟨t, occupied b, groupsOf b, false, s.cur⟩
    | none => ⟨t, occupied b, groupsOf b, false, s.cur⟩) }

/-- Whether the predicate of a slot is poisoned: the slot traps whatever it holds (23 R365). -/
def poisonedPred (s : State) (x : Nat × Instr × Nat) : Bool :=
  decide (x.2.2 ≠ 0) && decide ((selReg x.2.2).1 ≠ 0) && s.me.regPoison.contains (keyP (selReg x.2.2).1)

/-- The trap of such a slot. -/
def predTrap (s : State) (n : Nat) : State :=
  trap 0x10 (poisonKind (keyP 0)) 0 (s.mod fun c => { c with iss := { c.iss with slot := n } })

/-- Issues a legal bundle, or leaves the state as it is while something holds the bundle. -/
def issueBundle (b : Bundle) (s : State) : Out :=
  let p := peek s
  let acts := active p b
  let c := s.me
  let ls := acts.flatMap (landingsOf p acts)
  let keys := openKeys s
  let xs := b.slots.any fun x => decide ((shape x.2.1).cls = .x)
  if unchecked s then .next s
  else match earlyTraps p b acts with
    | e :: es =>
      .next (trapAt s.cur c.pc ((e :: es).foldl (fun m x => m ||| x.2) 0) e.1 0 0 c.pc s)
    | [] =>
      if ls.any (fun l => l.2.data.isNone) || (xs && portBusy p) || acts.any (slotHeld p acts keys) || drainShort p acts then
        .next s
      else
        let t := ls.foldl (fun t l => Nat.max t l.2.due)
          (acts.foldl (fun t x => Nat.max t (lateAt c (slotReads p acts x))) (readyAt c b))
        let t := if xs then Nat.max t (s.core (coreOf s.cur)).portAt else t
        let t := Nat.max t (s.pdie (dieOf s.cur)).cycle
        let t := if mergeFits t b s then t else t + 1
        if frozenAt (coreOf s.cur) t s then .next s else
        let s := elapseTo (dieOf s.cur) t s
        let s := landDue s.cur t s
        if s.me.mode = .halted then .next s
        else
          let bad := (b.slots.filter (poisonedPred s)).map Prod.fst
          runSlots ((acts.filter fun x => !bad.contains x.1).map fun x => (x.1, x.2.1))
            (bad.foldl predTrap (beginIssue t acts (takeTurn t b s)))

/-- The bundle at the context's pc, from the loop buffer or fetched (06 R110, R111). -/
def fetchBundle (t : Task) (s : State) : Except (BitVec 8) (BitVec 128 × State) :=
  let c := s.me
  match look c.lbuf c.pc.toNat with
  | some w => .ok (w, s)
  | none => match s.fetchAt (coreOf s.cur) t.fn c.pc with
    | .error e => .error e
    | .ok w =>
      let s := s.fill (coreOf s.cur) t.fn c.pc.toNat
      .ok (w, if c.loops.any (fun l => inBody l c.pc) then s.mod (fun c => { c with lbuf := put c.lbuf c.pc.toNat w }) else s)

/-- A fresh bundle of the executing context, when the links to it are up. -/
def issueNew (t : Task) (s : State) : Out :=
  if (look s.me.lbuf s.me.pc.toNat).isNone && !s.fetchLinked s.cur t.fn s.me.pc then .next s else
  match fetchBundle t s with
  | .error e => execBundleFetchFault e s
  | .ok (w, f) =>
    let b := decodeBundle w
    if b.legal then issueBundle b f else execIllegalBundle b.cond b.bad f

/-- The merge stage takes the first continuation of the ready queue; its context is ready from the next cycle on
(14 R263). A continuation leaves the queue only at the turn in which its context is chosen, so it is never the secondary of that
cycle. DESIGN CHOICE, log 46. -/
def wakeParked (s : State) : State :=
  if s.me.mode = .parked ∧ (s.core (coreOf s.cur)).readyQ.head? = some s.cur then
    (s.modCore (coreOf s.cur) fun k => { k with readyQ := k.readyQ.drop 1 }).mod fun c =>
      { c with mode := .run, minReady := Nat.max c.minReady ((s.pdie (dieOf s.cur)).cycle + 1) }
  else s

/-- CONTEXT `cx` GETS ITS TURN: a bundle that waits goes on, a pre-emption is taken at a loop boundary, or the next bundle
issues. A context that cannot issue leaves the state as it is, and so does one that waits for the append of a call (16 R294). -/
def issue (cx : Nat) (s : State) : Out :=
  let s := wakeParked { s with cur := cx }
  let c := s.me
  match c.mode, c.task with
  | .run, some t =>
    match c.wait with
    | w :: ws => runSlots (w :: ws) (s.mod fun c => { c with wait := [] })
    | [] =>
      if coreFrozen (coreOf cx) s || callWaits s cx then .next s
      else if c.preempt.isSome && atBoundary s cx then execPreemptSave cx s
      else issueNew t s
  | _, _ => .next s

/-! ### Turns (14 R254, R264) -/

/-- What a context does at its next turn: the cycles until then, its rank in the order r, r + 1, r + 2, r + 3 of its core with
r = (CYCLE div 256) mod 4, behind it while its YIELD window lasts, and the context (14 R264, 06 R116). -/
def turnOf (s : State) (cx : Nat) : Option (Nat × Nat × Nat) :=
  match issue cx s with
  | .next t => if t = s ∨ t = { s with cur := cx } then none else
      let now := (s.pdie (dieOf cx)).cycle
      let at_ := (t.pdie (dieOf cx)).cycle
      some (at_ - now, (cx + 4 - at_ / 256 % 4) % 4 + (if 0 < (s.ctx cx).yieldUntil ∧ at_ ≤ (s.ctx cx).yieldUntil then 4 else 0), cx)
  | _ => some (0, 0, cx)

/-- Whether a context of a physical die has its turn in the present cycle. -/
def turnNow (s : State) (die : Nat) : Bool :=
  s.ctxs.any fun c => decide (dieOf c.1 = die) && c.2.task.isSome && match turnOf s c.1 with
    | some x => decide (x.1 = 0)
    | none => false

/-- The walker unit of a die has no split to make before the contexts have had their turns in this cycle: an EXIT among them may
bring issues, and they come first (14 R254). -/
def splitsWait (s : State) (die : Nat) : Bool :=
  (match firstWork s die with | some p => decide (128 ≤ p) | none => false) && turnNow s die

/-- The engines of a virtual die come behind the accesses that the contexts of its die make in this cycle (12 R223). -/
def engineWaits (v : Nat) (s : State) : Bool := turnNow s (s.phys v)

/-- Events that come behind the turns of the cycle: a context asks for a split when they are over (14 R254), and so does an engine
make its accesses. -/
def heldBack (i : Instr) (s : State) : Bool :=
  match i with
  | .contextWorkRequest cx => splitsWait s (dieOf cx)
  | .engineJobComplete v _ | .engineJobFault v _ => engineWaits v s
  | _ => false

/-- What may happen now, unless it is held back. A step that lets core cycles pass goes no further than the next turn of a ready
context (14 R245, R264). -/
def ordered (held : Bool) (s : State) (o : Out) : Out :=
  if held then .next s
  else match o with
  | .next t =>
    let n := (t.pdie 0).cycle - (s.pdie 0).cycle
    if n = 0 then o
    else if s.ctxs.any fun c => c.2.task.isSome && (match turnOf s c.1 with | some x => decide (x.1 < n) | none => false) then .next s
    else o
  | _ => o

/-! ### What the machine does of itself when nothing is chosen for it (log 4) -/

/-- The first of some steps that changes the state. -/
def firstChange : List (State → Out) → State → Option Out
  | [], _ => none
  | f :: fs, s => match f s with
    | .next t => if t = s then firstChange fs s else some (.next t)
    | o => some o

/-- Indices of a list. -/
def idxs {α : Type} (l : List α) : List Nat := List.range l.length

/-- Steps of the links. -/
def linkSteps (s : State) : List (State → Out) :=
  s.links.flatMap fun l =>
    (if l.2.wire.isEmpty then [] else [execFlitReceive l.1 true]) ++
    (l.2.naks.take 1).map (execNakReceive l.1) ++
    (if l.2.buf.isEmpty then [] else [execFlitAckReceive l.1 (l.2.rxExp - 1)])

/-- Steps of the routers and homes. -/
def dieSteps (s : State) : List (State → Out) :=
  s.pdies.flatMap fun d =>
    let p := d.2
    ((idxs p.rinbox).flatMap fun k => [execReplyReceive d.1 k, execAcknowledgementReceive d.1 k, execBeaconReceive d.1 k]) ++
    (idxs p.waitRep).map (execReplyClockMerge d.1) ++
    ((idxs p.inbox).flatMap fun k => [execRequestArriveHome d.1 k, execExitReportArrive d.1 k]) ++
    ((idxs p.pend).flatMap fun k => [execWriteApply d.1 k, execReadServe d.1 k, execRocallAppend d.1 k]) ++
    (idxs p.barWaits).map (execBarwComplete d.1) ++
    ((idxs p.rides).map fun k s => .next (rideStep d.1 k s)) ++
    (idxs p.walks).map (execTranslationWalkDone d.1)

/-- Steps of the schedulers, engines and replay engines. -/
def nodeSteps (s : State) : List (State → Out) :=
  s.vdies.flatMap fun v =>
    (v.2.nodes.flatMap fun n => [execNodeStart v.1 n.id,
      fun s => ordered (engineWaits v.1 s) s (execEngineJobComplete v.1 n.id s),
      fun s => ordered (engineWaits v.1 s) s (execEngineJobFault v.1 n.id s), execNodeRetire v.1 n.id]) ++
    (idxs v.2.roReads).map (execRordServe v.1)

/-- Steps of the functions: the halt line, trees, objects, shadow banks, resets. -/
def fnSteps (s : State) : List (State → Out) :=
  s.fns.flatMap fun f =>
    let g := f.2
    (if g.halted then (List.range 8).map (fun v => execHaltLineArrive v f.1) else []) ++
    (if g.resetting then [execFlrDrainDone f.1] else []) ++
    (g.trees.flatMap fun t => (if t.2.held.isEmpty then [] else [fun s => .next (postStep f.1 t.1 s)]) ++
      (idxs t.2.flits).flatMap fun k => [execTreeFlitArrive f.1 t.1 k, execTreeSlotFault f.1 t.1 k]) ++
    (g.objs.flatMap fun o => if o.2.live then (List.range 8).map (fun v => execReplayApply v f.1 o.1) else []) ++
    (g.queues.flatMap fun q => q.2.banks.map fun b => execShadowBankSwap b.1 f.1 q.1)

/-- Steps of the cores and contexts. -/
def coreSteps (s : State) : List (State → Out) :=
  (s.cores.flatMap fun k =>
    (if k.2.drainQ.isEmpty then [] else [execDrainQueuePost k.1]) ++
    (idxs k.2.chunks).map (execClnestTransferArrive k.1) ++
    (idxs k.2.nestIn).map fun n s => .next (nestStep k.1 n s)) ++
  (s.ctxs.flatMap fun c =>
    (if c.2.fences.isEmpty then [] else [execFenceComplete c.1]) ++
    (if c.2.preempt.isSome then [execPreemptRequestArrive c.1, execPreemptSave c.1] else [])) ++
  if s.vdies.any (fun v => !v.2.walkers.isEmpty) then
    (List.range 512).map fun cx s => ordered (splitsWait s (dieOf cx)) s (execContextWorkRequest cx s) else []

/-- The operation that the sett interpreter executes next. -/
def settStep (s : State) : Out :=
  match s.hub.interp with
  | none => .next s
  | some c => match ((s.queue c.fn c.queue).sett[c.op]?).bind decodeSett with
    | some i => exec i s
    | none => .next { s with hub := { s.hub with interp := none } }

/-- What the interpreter does next. -/
def settSteps (s : State) : List (State → Out) :=
  if s.hub.interp.isSome then [settStep] else if s.fns.any (fun f => !(readyQueues f.2).isEmpty) then [execSettPacketStart] else []

/-- Steps of the hub. -/
def hubSteps (s : State) : List (State → Out) :=
  settSteps s ++
  (if s.hub.loading.isSome then [execSettLoadDone] else []) ++
  (if s.hub.copying.isSome then [execCheckpointDone] else []) ++
  (if s.hub.activating.isSome then [fun s => .next (activation s)] else []) ++
  (idxs s.hub.fabQ).map execFabricForward

/-- Everything that may be under way. -/
def progress (s : State) : List (State → Out) :=
  hubSteps s ++ linkSteps s ++ dieSteps s ++ nodeSteps s ++ fnSteps s ++ coreSteps s

/-- Core cycles until the moment `t` of a clock that stands at `now`. -/
def ahead (t now : Nat) : Nat := t - now

/-- The next turn of the matrix port for a context, with its cycle. -/
def portMoment (cx : Nat) (s : State) : Option (Nat × (State → Out)) :=
  let c := s.ctx cx
  let t := Nat.max (s.core (coreOf cx)).portAt (s.pdie (dieOf cx)).cycle
  match c.mat.running with
  | some r => if tokenWait cx s then none else match reissueAt r t (peek { s with cur := cx }) with
    | .wait => none
    | .trap _ _ => some (t, execRepeatReissue cx)
    | .at_ t => some (t, execRepeatReissue cx)
  | none => if c.port.isEmpty then none else some (t, fun s => .next (portRun cx s))

/-- The moment from which on what waits for a drain may find every copy of FABRIC requests too old (18 R320, 21 R350, 26 R399,
R404). -/
def drainMoments (s : State) : List (Nat × (State → Out)) :=
  let at_ (f : Nat) : Nat := 2 * (agedAt f s - s.cycleG)
  let all : Nat := (List.range 5).foldl (fun m f => Nat.max m (at_ f)) 0
  (s.fns.filter fun f => f.2.resetting).map (fun f => (at_ f.1, execFlrDrainDone f.1)) ++
    (if s.hub.copying.isSome then [(all, execCheckpointDone)] else []) ++
    (if s.hub.activating.isSome then [(all, fun s => .next (activation s))] else [])

/-- Moments that the passing of time brings, each with the core cycles until it comes. -/
def moments (s : State) : List (Nat × (State → Out)) :=
  let hub (t : Nat) : Nat := 2 * ahead t s.cycleG
  let cyc (d : Nat) (t : Nat) : Nat := ahead t (s.pdie d).cycle
  (settSteps s).map (fun x => (hub s.hub.interpAt, fun s => x (due s.hub.interpAt s))) ++
  (s.ctxs.flatMap fun c => (portMoment c.1 s).toList.map fun m => (cyc (dieOf c.1) m.1, m.2)) ++
  (s.ctxs.flatMap fun c =>
    (c.2.landings.map fun l => (cyc (dieOf c.1) l.2.due, execLandingDelivery c.1 l.1)) ++
    (c.2.hold.toList.map fun h => (cyc (dieOf c.1) (h.until_ + 1), execBlkHoldExpire c.1)) ++
    (match c.2.preempt with
     | some p => p.deadline.toList.map fun d => (cyc (dieOf c.1) d, execPreemptDeadline c.1)
     | none => [])) ++
  (s.cores.filter fun k => k.2.cols ≠ 0).map (fun k => (cyc (k.1 / 16) (k.2.lastBeat + 256), execArrayIdleTimeout k.1)) ++
  ((List.range 8).filter fun d => (firstRequest d s).isSome).map (fun d =>
    (if (s.pdie d).tokenHeld then 0 else hub ((s.pdie d).lastToken + tokenGap (s.pdie d)), execStartTokenRelease d)) ++
  (s.links.filter fun l => l.2.state = 1).map (fun l => (hub (l.2.trainAt + 4096), execLinkTrainDone l.1 false false)) ++
  (((idxs s.hub.fabQ).zip s.hub.fabQ).filter fun m => isFabricCopy s m.2).map (fun m =>
    (hub (m.2.born + 8193), execCopyAgeDiscard 8 m.1)) ++
  (s.pdies.flatMap fun d =>
    ((d.2.sent.filter fun q => q.sends > 0 && !(q.replied && q.acked)).flatMap fun q =>
      let tag := BitVec.ofNat 16 q.req.tag
      (hub (q.lastAt + (if q.failed then 40960 else if q.replied then 8192 else 2048)), execRequestTimerExpire d.1 tag) ::
        if q.replied then [] else [(hub (q.firstAt + 22528), execFabricRequestFail d.1 tag)]) ++
    (((idxs d.2.inbox).zip d.2.inbox).filter fun m => isFabricCopy s m.2).map (fun m =>
      (hub (m.2.born + 8193), execCopyAgeDiscard d.1 m.1)) ++
    ((idxs d.2.cache).zip d.2.cache).map (fun e => (hub (e.2.madeAt + 32768), execReplyCacheEntryExpire d.1 e.1)) ++
    [(hub ((d.2.telSeq + 1) * 1000000), execTelemetrySample d.1)]) ++
  drainMoments s ++
  s.fns.flatMap fun f => (f.2.trees.filter fun t => t.2.valid && decide (t.2.state = 0)).map fun t =>
    (hub (t.2.stallAt + 1000 * (if t.2.stall = 0 then 1000 else t.2.stall)), execTreeStallTimeout f.1 t.1)

/-- Every die and the hub send their beacons, when hub time comes to a multiple of 64 (11 R197). -/
def beacons (s : State) : Out := (List.range 9).foldl (fun o d => match o with | .next s => execBeaconSend d s | o => o) (.next s)

/-- The earlier of two turns; of turns in one cycle the one of lower rank. -/
def sooner (x y : Nat × Nat × Nat) : Bool := decide (x.1 < y.1) || (decide (x.1 = y.1) && decide (x.2.1 < y.2.1))

/-- The scratchpad banks that the next bundle of a context reaches, each with its place in the order of R223: the owning core's
port, then the routers by source die, core and context. -/
def bankPlaces (cx : Nat) (s : State) : List ((Nat × Nat) × Nat) :=
  match nextBundle cx s with
  | none => []
  | some b =>
    let p := peek { s with cur := cx }
    ((active p b).flatMap fun x => (slotAddrs x.2.1 p).getD []).filterMap fun a => match window a with
      | some (.local_, rel) => some (bankOf (keyScratch (coreOf cx) rel), 0)
      | some (.peer, rel) => (p.vcorePhys p.myFn p.myVdie (rel / 2 ^ 23)).map fun c => (bankOf (keyScratch c (rel % 2 ^ 23)), cx + 1)
      | _ => none

/-- Whether context `j` comes before `cx` at a bank that both reach in one cycle (12 R223). Of two that come first at one bank each,
neither does: a bundle makes its accesses in one step. DESIGN CHOICE, log 46. -/
def bankFirst (j cx : Nat) (s : State) : Bool :=
  let a := bankPlaces j s
  let b := bankPlaces cx s
  let before (x y : List ((Nat × Nat) × Nat)) : Bool := x.any fun p => y.any fun q => decide (p.1 = q.1) && decide (p.2 < q.2)
  before a b && !before b a

/-- Whether a context may issue next: no other context has its turn in an earlier cycle, none of its core comes before it in
its cycle (14 R245, R264), none of another core of its die does so at a bank that it reaches (12 R223), and the work that
walkers give in this cycle is given out (14 R253), but for splits, which come behind the turns of the cycle. -/
def mayIssueNow (cx : Nat) (s : State) : Bool :=
  ((List.range 8).all fun d => (firstWork s d).isNone || splitsWait s d) && !haltOverdueAt s cx &&
  s.ctxs.all fun c => decide (c.1 = cx) || c.2.task.isNone || match turnOf s cx, turnOf s c.1 with
    | some x, some y =>
      if coreOf c.1 = coreOf cx then !sooner y x
      else decide (x.1 < y.1) || (decide (x.1 = y.1) && (decide (dieOf c.1 ≠ dieOf cx) || !bankFirst c.1 cx s))
    | _, _ => true

/-- The context that issues first: of those whose turn comes soonest, one that may go before the others. -/
def nextTurn (s : State) : Option (Nat × Nat × Nat) :=
  let ts := s.ctxs.filterMap fun c => turnOf s c.1
  let best := ts.foldl (fun m x => match m with
    | none => some x
    | some y => if sooner x y then some x else some y) none
  match best with
  | none => none
  | some b => some (((ts.filter fun x => decide (x.1 = b.1)).find? fun x => mayIssueNow x.2.2 s).getD b)

/-- The first moment that changes something within `n` core cycles. -/
def nextMoment (n : Nat) (s : State) : Option (Nat × (State → Out)) :=
  (moments s).foldl (fun m x =>
    let best := match m with | some y => y.1 | none => n + 1
    if x.1 < best && (match x.2 s with | .next t => decide (t ≠ s) | _ => true) then some x else m) none

/-- Time goes on to the first thing that happens: a moment, the beacons, or the turn of a context (log 4). -/
def timePasses (s : State) : Out :=
  let beacon := 2 * (64 - s.cycleG % 64) - (s.pdie 0).cycle % 2
  let turn := nextTurn s
  let n := match turn with | some x => Nat.min x.1 beacon | none => beacon
  let hold := s.ctxs.foldl (fun m c => (holdMoments s c.1).foldl Nat.min m) (n + 1)
  match nextMoment (Nat.min n hold) s with
  | some x => x.2 (elapse 0 x.1 s)
  | none =>
    if hold < n then .next (elapse 0 hold s)
    else match turn with
    | some x => if x.1 < beacon then issue x.2.2 (elapse 0 x.1 s) else beacons (elapse 0 beacon s)
    | none => beacons (elapse 0 beacon s)

/-- What happens when nothing is chosen: what is under way goes on, and then time. -/
def onItsOwn (s : State) : Out :=
  match firstChange (progress s) s with
  | some o => o
  | none => timePasses s

/-! ### What the agenda chooses -/

/-- What a module still answers that has stopped at its reset: orders over the side band, and a reset. Its host link does not train
(26 R396). -/
def sideBand : Choice → Bool
  | .event i => match i with
    | .getlog _ | .gettel | .spdmMeasurements | .stage _ | .pldmFirmwareUpdate _ | .moduleReset => true
    | _ => false
  | .read (.lstat _) => true
  | _ => false

/-- A CHOICE OF THE AGENDA IS MADE, within the order of the merge stage, of the walker units and of the banks (14 R254, R264, 12
R223). -/
def choose (c : Choice) (s : State) : Out :=
  if s.hub.stopped && !sideBand c then .next s
  else match c with
  | .event i => ordered (heldBack i s) s (exec i s)
  | .issue cx => if mayIssueNow cx s then issue cx s else .next s
  | .port cx => ordered false s (.next (portRun cx s))
  | .ride d k => .next (rideStep d k s)
  | .engine v id => ordered (engineWaits v s) s (execEngineJobComplete v id s)
  | .mapCore f v c => .next (mapCore f v c s)
  | .nest core k => .next (nestStep core k s)
  | .post f t => .next (postStep f t s)
  | .sett => settStep s
  | .arrive m => .next (takeIn m s)
  | .read q => .next (hostRead q s)
  | .activation => .next (activation s)

/-! ### Placing one instruction where the next step fetches it (log 6) -/

/-- A privileged task of the PF, with every tile, landing slot and row, on the core of a context. -/
def bootTask (s : State) (cx : Nat) : Task :=
  { fn := 0, priv := true, vdie := s.virt (dieOf cx), vcore := coreOf cx % 16, x := 0, y := 0, z := 0, n := 0, lnch := 1,
    lflags := 0, zacc := 4, lslots := 64, mwin := 12288, entry := 0x10000, param := 0, fmtimg := 0 }

/-- Where the bundle is placed: the page at 0x10000, on the DRAM of the context's own die. -/
def bootPc : Word := 0x10000
/-- The leaf of that page: valid, readable, writable, executable, not a host page. -/
def bootLeaf (vdie : Nat) : Word := BitVec.ofNat 64 (vdie * 2 ^ 36 + 0x10000) ||| 0x1D

/-- Puts a bundle into DRAM behind a cached translation, and has the executing context run it next. -/
def placeBundle (b : BitVec 128) (s : State) : State :=
  let t := s.me.task.getD (bootTask s s.cur)
  let k := keyDram (s.phys t.vdie) 0x10000
  let s := { s with mem := Memory.store s.mem k (toBytes 16 b.toNat), poison := clearPoison s.poison k 32 }
  let s := s.modFn t.fn fun f => { f with prng := wr 0 f.prng t.vdie prngAll }
  let s := s.modCore (coreOf s.cur) fun c => { c with tlb := ⟨t.fn, 0x10000, false, bootLeaf t.vdie⟩ :: c.tlb }
  let s := s.mod fun c => { c with mode := .run, task := some t, pc := bootPc, wait := [], waitKey := none, loops := [], lbuf := [],
                                   port := [], preempt := none }
  { s with agenda := .issue s.cur :: s.agenda }

/-- A slot word alone in a headerless bundle: slot 0, or slot 3 for a form that stands only there. -/
def placeSlot (w : BitVec 32) (i : Instr) (s : State) : State :=
  placeBundle (if (shape i).cls.allows 0 then w.setWidth 128 else w.setWidth 128 <<< 96) s

/-- A sett operation alone in queue 0 of the PF, with the interpreter at it. -/
def placeSett (w : BitVec 32) (s : State) : State :=
  let s := s.modQueue 0 0 fun q => { q with sett := [w] }
  { s with hub := { s.hub with interp := some { fn := 0, queue := 0, op := 0 }, interpAt := 0 }, agenda := .sett :: s.agenda }

/-- The instruction of a table row's word, placed where the next step takes it from. -/
def placeWord (w : BitVec 32) (s : State) : State :=
  match decodePlain w with
  | some i => placeSlot w i s
  | none => placeSett w s

end Sys2Proof.Machine
end

