-- ==== Sys2Proof/Machine/Step.lean ====
section
/-!
DEFINITION. One step of the machine, and the placing of one instruction for it.
-/
namespace Sys2Proof.Machine

/-- One step: what the agenda chooses, or what the machine does of itself. A module that stopped at its reset has nothing more to do
when the agenda is empty. -/
def step (s : State) : Host.Outcome State Fault Refusal :=
  match s.agenda with
  | c :: r => choose c { s with agenda := r }
  | [] => if s.hub.stopped then .fault .moduleStopped else onItsOwn s

/-- The state with one instruction of the opcode table placed where the next step fetches it (log 6). -/
def State.withFetchWord (s : State) (nbits w : Nat) : State :=
  if nbits = 32 then placeWord (BitVec.ofNat 32 w) s else s

end Sys2Proof.Machine
end

