-- ==== Sys2Proof/Safety.lean ====
section
/-!
DEFINITION. What the claims speak of: the registers as the next bundle finds them, what an instruction may change and
what it leaves alone, and the invariant of the machine.
-/
namespace Sys2Proof.Safety
open Sys2Proof Sys2Proof.Machine Sys2Proof.Machine.Store

/-! ### Registers of the executing context, as the next bundle reads them -/

/-- s n: s0 reads zero (02 R37). -/
def sReg (s : State) (n : BitVec 6) : Word := if n = 0 then 0 else rd 0 s.me.regs.s n.toNat
/-- a n. -/
def aReg (s : State) (n : Nat) : Word := rd 0 s.me.regs.a n
/-- p n: p0 reads true (02 R37). -/
def pReg (s : State) (n : Nat) : Bool := if n = 0 then true else rd false s.me.regs.p n
/-- k n. -/
def kReg (s : State) (n : Nat) : KMask := rd 0 s.me.regs.k n
/-- v n: a killed register reads zero (02 R43). -/
def vReg (s : State) (n : Nat) : VReg := if s.me.regs.dead.getLsbD n then 0 else rd 0 s.me.regs.v n
/-- lc n. -/
def lcReg (s : State) (n : Nat) : BitVec 32 := rd 0 s.me.regs.lc n

/-! ### Completion and frames -/

/-- The outcome is a next state, and that state is as `P` says. -/
def answers (o : Out) (P : State → Prop) : Prop := ∃ t, o = .next t ∧ P t

/-- The instruction answers a next state, and that state is as `P` says. -/
def completes (i : Instr) (s : State) (P : State → Prop) : Prop := answers (exec i s) P

/-- Every byte of every storage is as before. -/
def memSame (s t : State) : Prop := ∀ k, t.byte k = s.byte k

/-- Nothing but the registers of the executing context that `f` rebuilds differs; `f` gives the new register files. -/
def onlyRegs (s t : State) (f : Regs → Regs) : Prop := t = s.mod fun c => { c with regs := f c.regs }

/-- s d := x and nothing else: a write of s0 is discarded. -/
def setsS (s : State) (d : BitVec 6) (x : Word) (t : State) : Prop :=
  sReg t d = (if d = 0 then 0 else x) ∧ (∀ n, n ≠ d → sReg t n = sReg s n) ∧
  (t = s ∨ ∃ m, onlyRegs s t fun r => { r with s := m }) ∧ memSame s t

/-- a d := x and nothing else. -/
def setsA (s : State) (d : Nat) (x : Word) (t : State) : Prop :=
  aReg t d = x ∧ (∀ n, n ≠ d → aReg t n = aReg s n) ∧ (∃ m, onlyRegs s t fun r => { r with a := m }) ∧ memSame s t

/-- p d := x and nothing else: a write of p0 is discarded. -/
def setsP (s : State) (d : Nat) (x : Bool) (t : State) : Prop :=
  pReg t d = (if d = 0 then true else x) ∧ (∀ n, n ≠ d → pReg t n = pReg s n) ∧
  (t = s ∨ ∃ m, onlyRegs s t fun r => { r with p := m }) ∧ memSame s t

/-- k d := x and nothing else. -/
def setsK (s : State) (d : Nat) (x : KMask) (t : State) : Prop :=
  kReg t d = x ∧ (∀ n, n ≠ d → kReg t n = kReg s n) ∧ (∃ m, onlyRegs s t fun r => { r with k := m }) ∧ memSame s t

/-! ### Forms of one shape: a relation between operand values and the value written -/

/-- A form with two scalar sources: for every state and operands it completes, s d takes a value that `R` allows, and
nothing else changes. -/
def scalar2 (i : BitVec 6 → BitVec 6 → BitVec 6 → Instr) (R : Word → Word → Word → Prop) : Prop :=
  ∀ s d a b, ∃ z, R (rS s a) (rS s b) z ∧ completes (i d a b) s (setsS s d z)

/-- A form with one scalar source. -/
def scalar1 (i : BitVec 6 → BitVec 6 → Instr) (R : Word → Word → Prop) : Prop :=
  ∀ s d a, ∃ z, R (rS s a) z ∧ completes (i d a) s (setsS s d z)

/-- A form with a scalar source and an immediate. -/
def scalarI {n : Nat} (i : BitVec 6 → BitVec 6 → BitVec n → Instr) (R : Word → BitVec n → Word → Prop) : Prop :=
  ∀ s d a imm, ∃ z, R (rS s a) imm z ∧ completes (i d a imm) s (setsS s d z)

/-- Bit by bit. -/
def bitwise (f : Bool → Bool → Bool) (x y z : Word) : Prop := ∀ i < 64, z.getLsbD i = f (x.getLsbD i) (y.getLsbD i)

/-- Truth of a condition, by the numbers the operands stand for (03 R50). -/
def condSays (c : Cond) (x y : Word) : Bool :=
  match c with
  | .eq => decide (x = y) | .ne => decide (x ≠ y)
  | .lt => decide (x.toInt < y.toInt) | .le => decide (x.toInt ≤ y.toInt)
  | .gt => decide (y.toInt < x.toInt) | .ge => decide (y.toInt ≤ x.toInt)
  | .ltn => decide (x.toNat < y.toNat) | .len => decide (x.toNat ≤ y.toNat)
  | .gtn => decide (y.toNat < x.toNat) | .gen => decide (y.toNat ≤ x.toNat)

/-- Predicate register that a 6-bit field names under its bank bit (02 R33). -/
def pName (bank : Bool) (f : BitVec 6) : Nat := (if bank then 32 else 0) + f.toNat

/-- First and last address of a window (10 R168). -/
def aperture : Window → Nat × Nat
  | .device => (0x0000_0000_0000_0000, 0x0000_FFFF_FFFF_FFFF)
  | .local_ => (0x0001_0000_0000_0000, 0x0001_0000_007F_FFFF)
  | .peer => (0x0001_0000_0800_0000, 0x0001_0000_0FFF_FFFF)
  | .shared => (0x0001_0000_2000_0000, 0x0001_0000_3FFF_FFFF)
  | .fabric => (0x0040_0000_0000_0000, 0x007F_FFFF_FFFF_FFFF)

/-- The slot asks for a branch to `x`, taken when its bundle has committed, and nothing else changes. -/
def goesTo (s : State) (x : Word) (t : State) : Prop := t = s.mod fun c => { c with iss := { c.iss with target := some x } }

/-! ### Exact values and the one rounding step (05 R75 to R78, R81, R82) -/

/-- Largest finite value (05 R76). -/
def maxFinite : FFmt → Rat
  | .f32 => (2 ^ 24 - 1) * 2 ^ 104 | .f16 => 65504 | .bf16 => 255 * 2 ^ 120 | .f8e4 => 448 | .f8e5 => 57344

/-- Exponent and fraction fields, and the sign, of an encoding (05 R75). -/
def expField (f : FFmt) (x : Nat) : Nat := x / 2 ^ (f.p - 1) % 2 ^ f.ebits
def fracField (f : FFmt) (x : Nat) : Nat := x % 2 ^ (f.p - 1)
def negative (f : FFmt) (x : Nat) : Bool := decide (x / 2 ^ (f.bits - 1) % 2 = 1)

/-- Encodings of infinities and of NaNs; a NaN whose quiet bit is 0 is signalling (05 R76, R77). -/
def isInfinite (f : FFmt) (x : Nat) : Bool :=
  decide (f ≠ .f8e4) && decide (expField f x = 2 ^ f.ebits - 1) && decide (fracField f x = 0)
def isNaN (f : FFmt) (x : Nat) : Bool :=
  if f = .f8e4 then decide (x % 128 = 127) else decide (expField f x = 2 ^ f.ebits - 1) && decide (fracField f x ≠ 0)
def signals (f : FFmt) (x : Nat) : Bool := decide (f ≠ .f8e4) && isNaN f x && decide (fracField f x < 2 ^ (f.p - 2))
def isFinite (f : FFmt) (x : Nat) : Bool := !isInfinite f x && !isNaN f x

/-- The number that a finite encoding stands for; under FTZ a subnormal stands for zero (05 R75, R78). -/
def numberOf (f : FFmt) (ftz : Bool) (x : Nat) : Rat :=
  (if negative f x then -1 else 1) *
    (if expField f x = 0 then if ftz then 0 else (fracField f x : Rat) * 2 ^ ((2 : Int) - f.bias - f.p)
     else ((fracField f x + 2 ^ (f.p - 1) : Nat) : Rat) * 2 ^ ((expField f x : Int) - f.bias - f.p + 1))

/-- `k` is the integer that a mode takes for `r` (05 R81). -/
def takes (md : RMode) (r : Rat) (k : Int) : Prop :=
  match md with
  | .rne => (r - k).abs ≤ 1 / 2 ∧ ((r - k).abs = 1 / 2 → k % 2 = 0)
  | .rtz => k = if 0 ≤ r then r.floor else r.ceil
  | .rdn => k = r.floor
  | .rup => k = r.ceil

/-- Overflow (05 R82): an infinity, or the canonical NaN of E4M3 in its place, or the largest finite value. -/
def overflows (f : FFmt) (md : RMode) (sat neg : Bool) (z : Nat) (st : Status) : Prop :=
  let toInf := !sat && match md with | .rne => true | .rtz => false | .rdn => neg | .rup => !neg
  (if toInf then if f = .f8e4 then z = 0x7F else isInfinite f z = true ∧ negative f z = neg
   else isFinite f z = true ∧ negative f z = neg ∧ (numberOf f false z).abs = maxFinite f) ∧
  st = if sat then stSat ||| stInx else stOvf ||| stInx

/-- `z` and `st` are Round(f, md, x) of a nonzero x, step by step (05 R81): `k` spacings at x, and `k'` at a precision without
bound on the exponent. -/
def rounds (f : FFmt) (md : RMode) (ftz sat : Bool) (x : Rat) (z : Nat) (st : Status) : Prop :=
  ∀ l : Int, (2 : Rat) ^ l ≤ x.abs → x.abs < 2 ^ (l + 1) → ∃ k k' : Int,
    let q : Rat := 2 ^ (max l (1 - f.bias) - f.p + 1)
    let u : Rat := 2 ^ (l - f.p + 1)
    let y : Rat := k * q
    let least : Rat := 2 ^ ((1 : Int) - f.bias)
    takes md (x / q) k ∧ takes md (x / u) k' ∧
    if maxFinite f < y.abs then overflows f md sat (decide (x < 0)) z st
    else negative f z = decide (x < 0) ∧
      if ftz = true ∧ y ≠ 0 ∧ y.abs < least then numberOf f false z = 0 ∧ st = stUnf ||| stInx
      else isFinite f z = true ∧ numberOf f false z = y ∧
        st = (if y ≠ x then stInx else 0) ||| (if (k' * u).abs < least ∧ y ≠ x then stUnf else 0)

/-- `r` is the exact value x rounded once; an exact zero is a zero of the sign `zneg` and raises nothing. -/
def onceRounded (f : FFmt) (md : RMode) (ftz sat : Bool) (x : Rat) (zneg : Bool) (r : Nat × Status) : Prop :=
  r.1 < 2 ^ f.bits ∧ if x = 0 then negative f r.1 = zneg ∧ numberOf f false r.1 = 0 ∧ r.2 = 0 else rounds f md ftz sat x r.1 r.2

/-! ### Vector slots (07 R120, R122, 05 R85, R87, 02 R43) -/

/-- A last-use mark kills v n, unless this slot or an earlier slot of the bundle writes it. -/
def usedUp (s : State) (d : Nat) (marks : List (BitVec 5 × Bool)) (n : Nat) : Bool :=
  marks.any (fun m => m.2 && decide (m.1.toNat = n)) && !s.me.iss.wrote.getLsbD n && decide (n ≠ d)

/-- v d := x and revived, the marked sources killed, `st` raised in ASTAT, and nothing else. -/
def setsV (s : State) (d : Nat) (x : VReg) (marks : List (BitVec 5 × Bool)) (st : Status) (t : State) : Prop :=
  vReg t d = x ∧ t.me.regs.dead.getLsbD d = false ∧
  (∀ n < 32, n ≠ d → t.me.regs.dead.getLsbD n = (s.me.regs.dead.getLsbD n || usedUp s d marks n) ∧
    rd 0 t.me.regs.v n = rd 0 s.me.regs.v n) ∧
  (∃ v dead, t = s.mod fun c => { c with
    regs := { c.regs with v := v, dead := dead }
    astat := c.astat ||| st.setWidth 64
    iss := { c.iss with raised := c.iss.raised ||| st, wrote := c.iss.wrote ||| bit32 d } }) ∧ memSame s t

/-- Status of a slot that reads the v registers `ns`: a killed one raises ASTAT.dead (02 R43). -/
def withDead (s : State) (ns : List Nat) (st : Status) : Status := st ||| if ns.any (isDead s) then stDead else 0

/-- The outcome `o` of a slot that finds state `s`, reads the v registers `ns`, raises `st` and commits `P`: with checking
on, a killed source takes trap 0x08; an enabled status bit takes trap 0x0A with the bits accumulated and nothing else
committed. -/
def slotOut (o : Out) (s : State) (ns : List Nat) (st : Status) (P : Status → State → Prop) : Prop :=
  (ns.any (isDead s) = true → s.checking = true → o = .next (trap 0x08 0 0 s)) ∧
  ((ns.any (isDead s) && s.checking) = false →
    (withDead s ns st &&& atrapMask s = 0 → answers o (P (withDead s ns st))) ∧
    (withDead s ns st &&& atrapMask s ≠ 0 → o = .next (trap 0x0A 0 0 (raise (withDead s ns st) s))))

/-- A slot of the bundle that runs instruction `i`. -/
def vectorSlot (i : Instr) (s : State) (ns : List Nat) (st : Status) (P : Status → State → Prop) : Prop :=
  slotOut (exec i s) s ns st P

/-- A vector slot that writes the low `w` bits of v d: for some value and status that `R` allows, the bits above `w` are
those a narrow write keeps. -/
def vectorForm (i : Instr) (s : State) (ns : List Nat) (d w : Nat) (marks : List (BitVec 5 × Bool))
    (R : VReg → Status → Prop) : Prop :=
  ∃ x st, R x st ∧ x.toNat / 2 ^ w = (keepV s d).toNat / 2 ^ w ∧ vectorSlot i s ns st (fun st => setsV s d x marks st)

/-- Every element below n = W / e of a result is as `f` says. -/
def each (w e : Nat) (x : VReg) (f : Nat → Nat) : Prop := ∀ j < w / e, elem x j e = f j

/-- Every element holds the e bits that `f` gives it, and the status is the OR over the elements (05 R85). -/
def eachSt (w e : Nat) (x : VReg) (st : Status) (f : Nat → Nat × Status) : Prop :=
  each w e x (fun j => (f j).1 % 2 ^ e) ∧ st = (List.range (w / e)).foldl (fun m j => m ||| (f j).2) 0

/-- The number that an integer element stands for. -/
def num (t : ETy) (x : Nat) : Int := if t.isSint then (BitVec.ofNat t.bits x).toInt else (x : Int)

/-- A decoded floating value is the integer `n`. -/
def valueIs (v : FVal) (n : Int) : Prop :=
  ∃ neg m e, v = .fin neg m e ∧ signed neg m * 2 ^ e.toNat = n * 2 ^ (-e).toNat

/-- The marked sources are killed and `st` is raised, and nothing else. -/
def marksOnly (s : State) (marks : List (BitVec 5 × Bool)) (st : Status) (t : State) : Prop :=
  (∀ n < 32, t.me.regs.dead.getLsbD n = (s.me.regs.dead.getLsbD n || usedUp s 32 marks n)) ∧
  (t = s ∨ ∃ dead, t = s.mod fun c => { c with
    regs := { c.regs with dead := dead }
    astat := c.astat ||| st.setWidth 64
    iss := { c.iss with raised := c.iss.raised ||| st } }) ∧ memSame s t

/-- A main-file row of the executing context, as it stands now. -/
def mRow (s : State) (n : Nat) : VReg := mainRow s.me.mat s.me.mat.main n

/-- m n := x and nothing else. -/
def setsM (s : State) (n : Nat) (x : VReg) (t : State) : Prop :=
  mRow t n = x ∧ (∀ r, r ≠ n → mRow t r = mRow s r) ∧
  (∃ m, t = s.mod fun c => { c with mat := { c.mat with main := m } }) ∧ memSame s t

/-- Pattern that a VSHUF of the executing context would read in cycle `now` (07 R134). -/
def patRead (s : State) (now n : Nat) : VReg := patAt (s.core (coreOf s.cur)) now (patEntry s n)

/-! ### Accesses (10 R168 to R192) -/

/-- Storage that a LOCAL or PEER address reaches at once (10 R168, R170). -/
def nowKey (s : State) (a : Word) : Option Nat :=
  match window a with
  | some (.local_, o) => some (keyScratch (s.cur / 4) o)
  | some (.peer, o) => (s.vcorePhys s.myFn s.myVdie (o / 2 ^ 23)).map fun p => keyScratch p (o % 2 ^ 23)
  | _ => none

/-- An access of `n` bytes at `a`, aligned to `al`, reaches storage at key `k`: outside an elided region, and with no bank
held by another context (12 R231). -/
def reachesAt (s : State) (a : Word) (al n k : Nat) : Prop :=
  s.inElided = false ∧ a.toNat % al = 0 ∧ nowKey s a = some k ∧ s.barred k n = false

/-- It meets that storage at once: no earlier read of the context is open (11 R198). -/
def openAt (s : State) (a : Word) (al n k : Nat) : Prop := reachesAt s a al n k ∧ s.readsOpen = false

/-- It comes behind an earlier read of the context that is still open. -/
def behindAt (s : State) (a : Word) (al n k : Nat) : Prop := reachesAt s a al n k ∧ s.readsOpen = true

/-- Elided regions of other contexts may abort; nothing else of a context changes. -/
def othersAbort (s t : State) : Prop := ∀ j, j ≠ s.cur → t.ctx j = s.ctx j ∨ t.ctx j = abortCtx 0x01 (s.ctx j)

/-- A read has been served: the die's clock may rise, conflicting regions of other contexts abort, and nothing else. -/
def sawRead (s t : State) : Prop :=
  t = { s with ctxs := t.ctxs, vdies := t.vdies } ∧ t.me = s.me ∧ othersAbort s t

/-- A read of `bs` behind open reads (11 R198): it is served, under a tag of its own, and its reply waits at the die's router;
its destination is as before. -/
def servedLate (s : State) (bs : List Byte) (dest : Dest) (park : Bool) (t : State) : Prop :=
  memSame s t ∧ t.me = { s.me with po := s.me.po + 1 } ∧ ∃ q rep,
    (t.pdie (s.cur / 64)).sent = (s.pdie (s.cur / 64)).sent ++ [q] ∧
    (t.pdie (s.cur / 64)).waitRep = (s.pdie (s.cur / 64)).waitRep ++ [rep] ∧
    (∀ x ∈ (s.pdie (s.cur / 64)).sent, x.req.tag ≠ q.req.tag) ∧ rep.tag = q.req.tag ∧ rep.data = bs ∧ rep.trap = 0 ∧
    q.req.cx = some s.cur ∧ q.req.serial = s.me.serial ∧ q.req.po = s.me.po ∧ q.req.dest = dest ∧ q.req.park = park ∧
    q.replied = true ∧ q.merged = false ∧ q.given = false

/-- The post-increment of an MM form, when it has one. -/
def bumpsA (s : State) (aa : BitVec 5) (am : Bool) (x : Word) (t : State) : Prop :=
  if am then setsA s aa.toNat x t else t = s

/-- The bytes `bs` stand at key `k` and every other byte of every storage is as before; besides them only stamps, poison,
clocks and conflicting regions of other contexts change. -/
def stored (s : State) (k : Nat) (bs : List Byte) (t : State) : Prop :=
  (∀ x, t.byte x = if k ≤ x ∧ x < k + bs.length then bs.getD (x - k) 0 else s.byte x) ∧
  t = { s with mem := t.mem, stamps := t.stamps, poison := t.poison, ctxs := t.ctxs, vdies := t.vdies } ∧
  t.me = s.me ∧ othersAbort s t

/-- The value that a load of type `z` gives for its bytes (10 R180). -/
def loadVal (z : LdTy) (bs : List Byte) : Word :=
  match z with
  | .i8 => (BitVec.ofNat 8 (ofBytes bs)).signExtend 64
  | .i16 => (BitVec.ofNat 16 (ofBytes bs)).signExtend 64
  | .i32 => (BitVec.ofNat 32 (ofBytes bs)).signExtend 64
  | .i64 | .n8 | .n16 | .n32 => BitVec.ofNat 64 (ofBytes bs)

/-- Effective address of an MM form, and the value of its post-increment (10 R179). -/
def effAddr (s : State) (aa : BitVec 5) (am : Bool) (off : BitVec 18) (sz : Nat) : Word :=
  if am then rA s aa.toNat else rA s aa.toNat + BitVec.ofInt 64 (off.toInt * sz)
def postVal (s : State) (aa : BitVec 5) (off : BitVec 18) (sz : Nat) : Word :=
  rA s aa.toNat + BitVec.ofInt 64 (off.toInt * sz)

/-- The strand ends: the context parks when its bundle has committed (10 R190). -/
def parks (s t : State) : Prop := t = s.mod fun c => { c with iss := { c.iss with park := true } }

/-- New item of an atomic of `n` bytes from the old item and the operands (12 R224 to R227). -/
def atomSays (op : AOp) (n w x y : Nat) : Nat :=
  let sg := fun v : Nat => (BitVec.ofNat (8 * n) v).toInt
  match op with
  | .add => (w + x) % 2 ^ (8 * n)
  | .min => if sg w ≤ sg x then w else x
  | .max => if sg x ≤ sg w then w else x
  | .minn => Nat.min w x
  | .maxn => Nat.max w x
  | .and => w &&& x
  | .or => w ||| x
  | .xor => w ^^^ x
  | .xchg => x
  | .cas => if w = x then y else w
  | .fadd => (fadd .f32 .rne false w x).1
  | .fmin => (fminmax .f32 false false w x).1
  | .fmax => (fminmax .f32 false true w x).1

/-- Status that the reply of a floating atomic carries (12 R226 to R228); the integer forms have none. -/
def atomStatus (op : AOp) (w x : Nat) : Status :=
  match op with
  | .fadd => (fadd .f32 .rne false w x).2
  | .fmin => (fminmax .f32 false false w x).2
  | .fmax => (fminmax .f32 false true w x).2
  | _ => 0

/-- Address and alignment in bytes of a form with one memory operand. -/
def operand (i : Instr) (s : State) : Option (Word × Nat) :=
  let mm := fun (aa : BitVec 5) (am : Bool) (off : BitVec 18) (n : Nat) => some (effAddr s aa am off n, n)
  match i with
  | .ld z _ aa am off | .rld z _ aa am off => mm aa am off (ldSize z)
  | .st z _ aa am off | .rst z _ aa am off => mm aa am off (stSize z)
  | .vld w _ aa am off | .vst w _ aa am off => mm aa am off (widthBits w / 8)
  | .rldn _ aa am off => mm aa am off 128
  | .rred fl _ aa am off => mm aa am off (if fl then 4 else 8)
  | .vaadd _ w _ aa am off | .vaor _ w _ aa am off | .vamax _ w _ aa am off | .vafadd w _ aa am off =>
    mm aa am off (if w then 128 else 64)
  | .vbupd _ _ _ aa am off => mm aa am off 4
  | .aadd e _ aa am off | .amin e _ aa am off | .amax e _ aa am off | .aminn e _ aa am off | .amaxn e _ aa am off
  | .aand e _ aa am off | .aor e _ aa am off | .axor e _ aa am off | .axchg e _ aa am off | .acas e _ aa am off =>
    mm aa am off (if e then 8 else 4)
  | .afadd _ aa am off | .afmin _ aa am off | .afmax _ aa am off => mm aa am off 4
  | .dslice _ a _ => some (rA s a.toNat, 8)
  | .ldl z _ aa _ _ => some (rA s aa.toNat, ldSize z)
  | .vldl w _ aa _ _ => some (rA s aa.toNat, widthBits w / 8)
  | _ => none

/-- The windows a form reaches, by the tables of 10 R169, 12 R222 and 06 R105; a landing form reaches SHARED and DEVICE of
its own die only. -/
def reaches (i : Instr) (w : Window) : Bool :=
  match i with
  | .ld .. | .st .. | .vld .. | .vst .. | .ldl .. | .vldl .. => decide (w ≠ .fabric)
  | .vaadd .. | .vaor .. | .vamax .. | .vafadd .. => decide (w = .local_ ∨ w = .peer ∨ w = .shared)
  | .vbupd .. => decide (w = .shared)
  | .dslice .. => decide (w = .local_)
  | _ => true

/-! ### The matrix array (08 R145 to R162) -/

/-- The forms of the matrix port (08 R148, R151). -/
def isMatrix : Instr → Bool
  | .macc .. | .mtern .. | .mpush .. | .mshift .. | .mdrain .. | .mdrainQ .. | .mclr .. | .mbsel .. | .vrdz .. | .fmtld ..
  | .fmtsel .. | .fmtrd .. | .rept .. => true
  | _ => false

/-- The 64 bits of the element of a tile in a row and column. -/
def tileCell (m : Matrix) (z row col : Nat) : Nat := (tileRow m z row).toNat / 2 ^ (64 * col) % 2 ^ 64

/-- Sat of 08 R155. -/
def satCell (x : Int) : Int := max (-(2 ^ 63 - 1)) (min (2 ^ 63 - 1) x)

/-- A cell after one issue: `A q` is plane q of the A operand, `y` the B element of the column, `old` the cell (08 R154 to
R156). -/
def cellSays (f : BeatFmt) (ftz : Bool) (A : Nat → VReg) (i y old : Nat) : Nat :=
  match f with
  | .flt fa fb => (cellF ftz (prodF fa fb ftz (elem (A 0) i fa.bits) y).1 old).1
  | .int8 => (BitVec.ofInt 64 (satCell ((BitVec.ofNat 64 old).toInt +
      (BitVec.ofNat 8 (elem (A 0) i 8)).toInt * (BitVec.ofNat 8 y).toInt))).toNat
  | .tern => (BitVec.ofInt 64 ((List.range 4).foldl (fun (acc : Int) q =>
      if (decode5 y).getD q 0 = 0 then acc
      else satCell (acc + (decode5 y).getD q 0 * (BitVec.ofNat 8 (elem (A q) i 8)).toInt)) (BitVec.ofNat 64 old).toInt)).toNat

/-- Tiles after one issue on tile `z`: every cell of the rows of the format is as `cellSays` gives, and every other row of
every tile is as before. -/
def beatSays (f : BeatFmt) (ftz : Bool) (z : Nat) (A : Nat → VReg) (y : Nat → Nat) (m m' : Matrix) : Prop :=
  (∀ i < beatRows f, ∀ col < 192, tileCell m' z i col = cellSays f ftz A i (y col) (tileCell m z i col)) ∧
  (∀ n, (∀ i < beatRows f, n ≠ 128 * z + i) → look m'.tiles n = look m.tiles n)

/-- Plane q of the A operand of issue `j` (08 R153). -/
def aPlane (s : State) (tern : Bool) (va j q : Nat) : VReg :=
  let m := s.me.mat
  if tern then rV s (va + q) else if m.depth = 0 then rV s va else stageAt m (j % m.depth)

/-- The B address of a beat (08 R150). -/
def bAddr (s : State) (aux : Nat) : Nat := (match s.me.mat.bBind with | some n => (rA s n).toNat | none => 0) + aux

/-- The executing context's matrix state becomes `m`. -/
def withMat (s : State) (m : Matrix) : State := s.mod fun c => { c with mat := m }

/-- The matrix port of the executing core is held for `n` cycles (08 R148). -/
def portHeld (s : State) (n : Nat) : State := s.modCore (s.cur / 4) fun k => { k with portAt := (s.pdie (s.cur / 64)).cycle + n }

/-- Cycles that a beat holds the port: 192 / c with c columns admitted (14 R266). -/
def beatHold (s : State) (core : Nat) : Nat := 192 / max 1 (s.core core).cols

/-- No start token has come to the controller of die `d` since the last (14 R266, 26 R402): one comes every ceil(4,000 / LIM) hub
cycles. -/
def noToken (s : State) (d : Nat) : Prop :=
  let lim := ((s.pdie d).pwrLim.extractLsb' 0 8).toNat
  s.cycleG < (s.pdie d).lastToken + (3999 + lim) / lim

/-- The results `ks` of a slot of the port are there `l` cycles after the turn that the slot's place in its bundle gives, and
`l` cycles from now when the port took it later (08 R148, R149). -/
def readyIn (s : State) (ks : List Nat) (l : Nat) (t : State) : Prop :=
  let turn := s.me.iss.cycle + (s.me.iss.xs.filter (· < s.me.iss.slot)).length + l
  let now := (s.pdie (s.cur / 64)).cycle + l
  ∃ av la, t = s.mod (fun c => { c with avail := av, late := la }) ∧
    ∀ k, (k ∈ ks → rd 0 av k = turn ∧ rd 0 la k = if turn < now then now else 0) ∧
      (k ∉ ks → rd 0 av k = rd 0 s.me.avail k ∧ rd 0 la k = rd 0 s.me.late k)

/-! ### Synchronisation (12 R231 to R240) -/

/-- s n of context `i`. -/
def sOf (s : State) (i n : Nat) : Word := if n = 0 then 0 else rd 0 (s.ctx i).regs.s n

/-- s d := x in context `i`: `m` are its scalar registers after it. -/
def putsS (s : State) (i : Nat) (d : BitVec 6) (x : Word) (m : PMap Word) : Prop :=
  ∀ n, n ≠ 0 → rd 0 m n = if n = d.toNat then x else rd 0 (s.ctx i).regs.s n

/-- A region of context `c` has aborted with a cause: registers restored but for sd, nothing stored, resumed behind XBEGIN
(12 R233). -/
def regionGone (c : Ctx) (e : Elided) (cause : BitVec 8) (c' : Ctx) : Prop :=
  c'.region = .none ∧ c'.aborts = min 4 (c.aborts + 1) ∧ c'.pc = e.resume ∧ c'.regs.a = e.a ∧ c'.regs.p = e.p ∧
  (∀ n, n ≠ 0 → rd 0 c'.regs.s n = if n = e.dest then 0x100#64 ||| cause.setWidth 64 else rd 0 e.s n) ∧
  c' = { c with region := c'.region, aborts := c'.aborts, pc := c'.pc, wait := c'.wait, waitKey := c'.waitKey,
                iss := c'.iss, regs := { c.regs with s := c'.regs.s, a := c'.regs.a, p := c'.regs.p } }

/-- Words 0 and 1 of a barrier word after BARP (`post`) or BARA of `x` (12 R237, R238). -/
def barSays (post : Bool) (x : Nat) (w0 w1 : Word) : Word × Word :=
  let exp := if post then x % 2 ^ 48 else (w0.extractLsb' 0 48).toNat
  let arr := if post then (w1.extractLsb' 0 48).toNat else min ((w1.extractLsb' 0 48).toNat + x % 2 ^ 48) (2 ^ 48 - 1)
  let phase := (w1.extractLsb' 48 16).toNat
  if (post || w0.getLsbD 63) ∧ exp ≤ arr then
    (BitVec.ofNat 64 (if arr = exp then 0 else 2 ^ 62), BitVec.ofNat 64 ((phase + 1) % 2 ^ 16 * 2 ^ 48 + (arr - exp)))
  else
    (BitVec.ofNat 64 ((if post || w0.getLsbD 63 then 2 ^ 63 else 0) + (if w0.getLsbD 62 then 2 ^ 62 else 0) + exp),
      BitVec.ofNat 64 (phase * 2 ^ 48 + arr))

/-- Word j of the 16 bytes at key `k`. -/
def wordAt (s : State) (k j : Nat) : Word := BitVec.ofNat 64 (ofBytes (s.bytes (k + 8 * j) 8))

/-- Bank of the executing core held by another of its contexts in a mask: from the cycle after its BLK to the 128th (12
R231). -/
def heldByOther (s : State) (mask : Word) : Prop :=
  ∃ j < 4, ∃ h, s.cur / 4 * 4 + j ≠ s.cur ∧ (s.ctx (s.cur / 4 * 4 + j)).hold = some h ∧ 0 < h.left ∧
    (s.pdie (s.cur / 64)).cycle ≤ h.until_ ∧ h.until_ < (s.pdie (s.cur / 64)).cycle + 128 ∧ h.mask &&& mask ≠ 0

/-- Time has gone on: the clocks, and what the clock domain of a frozen core counts (10 R186, 02 R42). -/
def later (s t : State) : Prop :=
  t = { s with ctxs := t.ctxs, cores := t.cores, pdies := t.pdies, cycleG := t.cycleG } ∧
  (∀ i, t.ctx i = { s.ctx i with slackLeft := (t.ctx i).slackLeft, lastIssue := (t.ctx i).lastIssue, minReady := (t.ctx i).minReady,
                                 avail := (t.ctx i).avail, late := (t.ctx i).late }) ∧
  (∀ d, t.pdie d = { s.pdie d with cycle := (t.pdie d).cycle } ∧ (s.pdie d).cycle ≤ (t.pdie d).cycle) ∧ s.cycleG ≤ t.cycleG

/-! ### Records, cards and nodes (14 R249, R258, 15 R268) -/

/-- A form reaches the `n` bytes of its record at `a`, in LOCAL, SHARED or DEVICE and aligned to `al`, in the storage `ks`: its
earlier accesses are done, the links to the homes are up, and no fence holds the storage (12 R235). -/
def recordKeys (s : State) (a : Word) (al n : Nat) (ks : List Nat) : Prop :=
  a.toNat % al = 0 ∧ (∃ w rel, window a = some (w, rel) ∧ (w = .local_ ∨ w = .shared ∨ w = .device)) ∧ s.quiet = true ∧
  fenceSets s a = false ∧ s.linkedTo (s.cur / 64) s.myFn s.myVdie (s.cur / 4) a .read n = true ∧
  s.agentKeys s.myFn s.myVdie (s.cur / 4) a .read n = .ok ks

/-- The record holds the words `ws`, no bank of it is held by another context, and the die may merge the clock of its bytes; `u` is
the state once it has been read: elided regions that wrote a block of it have aborted (12 R234), and the die's clock covers what was
read (11 R198). -/
def recordAt (s : State) (a : Word) (al n : Nat) (ws : List Word) (u : State) : Prop :=
  ∃ ks, recordKeys s a al n ks ∧ (∀ k ∈ ks, s.barred k 1 = false ∧ s.poisoned k 1 = false) ∧
    (s.covers s.myVdie (s.stampKeys ks) = true ∨ ∃ rel, window a = some (.local_, rel)) ∧
    ws = wordsOf (n / 8) (ks.map s.byte) ∧ u = mergeClock s.myVdie (s.stampKeys ks) (s.touchKeys (some s.cur) ks false)

/-- The id that the next node of the executing context's die takes. -/
def nextId (s : State) : BitVec 32 := BitVec.ofNat 32 (s.myVdie * 2 ^ 29 + seqNext (s.vdie s.myVdie).nodeSeq)

/-- s d := x in the executing context, and every other s register as before. -/
def givesS (s : State) (d : BitVec 6) (x : Word) (t : State) : Prop :=
  sReg t d = (if d = 0 then 0 else x) ∧ ∀ n, n ≠ d → sReg t n = sReg s n

/-- The die's scheduler has taken one more node of a kind, made of `ws` by the executing context, and sd holds its id. -/
def takesNode (s : State) (d : BitVec 6) (k : NodeKind) (ws : List Word) (t : State) : Prop :=
  givesS s d ((nextId s).setWidth 64) t ∧ memSame s t ∧
  ∃ n, (t.vdie s.myVdie).nodes = (s.vdie s.myVdie).nodes ++ [n] ∧ n.id = nextId s ∧ n.kind = k ∧ n.fn = s.myFn ∧ n.words = ws ∧
    n.cx = some s.cur ∧ n.serial = s.me.serial ∧ n.vcore = 16 * s.myVdie + s.myCore ∧
    n.preds = ((s.vdie s.myVdie).nodes.filter fun e => decide (e.fn = s.myFn) && conflict e.words ws).map (·.id)

/-! ### Words and events (03 R44, 20 R330) -/

/-- Operations of a sett. -/
def isSett : Instr → Bool
  | .settLdp _ _ | .settLdi _ _ | .settLdm _ _ | .settStm _ _ | .settAdd _ _ _ | .settSub _ _ _ | .settAnd _ _ _ | .settOr _ _ _
  | .settXor _ _ _ | .settShl _ _ _ | .settShr _ _ _ | .settAndi _ _ _ | .settBeq _ _ _ | .settBne _ _ _ | .settBltu _ _ _
  | .settRep _ _ | .settEmit _ _ _ _ | .settRej _ | .settEnd => true
  | _ => false

/-- Events of the machine, which no word encodes. -/
def isEvent : Instr → Bool
  | .portalWrite _ _ _ _ | .portalPostedWrite _ _ | .settPacketStart | .shadowBankSwap _ _ _ | .settLoad _ | .settLoadDone
  | .pcoreWrite _ _ _ | .prngWrite _ _ _ | .trootWrite _ _ | .fctlHoldWrite _ _ | .functionLevelReset _ | .flrDrainDone _
  | .moduleReset | .firmwareActivation _ | .ckctlGo _ | .checkpointDone | .hostLinkLost | .pwrlimWrite _ _ | .telbaseWrite _ _
  | .modidWrite _ | .routeTableWrite _ _ | .registerWrite _ _ | .gettel | .getlog _ | .freeze _ | .reset _ | .stage _
  | .stageActivate _ | .ckpt | .pldmFirmwareUpdate _ | .spdmMeasurements | .flitReceive _ _ | .nakReceive _ _
  | .flitAckReceive _ _ | .linkTrainDone _ _ _ | .fabricForward _ | .requestArriveHome _ _ | .replyReceive _ _
  | .acknowledgementReceive _ _ | .requestTimerExpire _ _ | .replyCacheEntryExpire _ _ | .copyAgeDiscard _ _
  | .fabricRequestFail _ _ | .beaconSend _ | .beaconReceive _ _ | .writeApply _ _ | .readServe _ _ | .replyClockMerge _ _
  | .translationWalkDone _ _ | .landingDelivery _ _ | .repeatReissue _ | .startTokenRelease _ | .arrayIdleTimeout _
  | .telemetrySample _ | .contextWorkRequest _ | .nodeStart _ _ | .nodeRetire _ _ | .engineJobComplete _ _ | .engineJobFault _ _
  | .drainQueuePost _ | .treeFlitArrive _ _ _ | .treeSlotFault _ _ _ | .treeStallTimeout _ _ | .clnestTransferArrive _ _
  | .clnestAbortRerun _ _ _ | .clnestResume _ _ _ | .rocallAppend _ _ | .replayApply _ _ _ | .rordServe _ _ | .haltLineArrive _ _
  | .preemptSave _ | .preemptDeadline _ | .blkHoldExpire _ | .elidedRegionAbort _ _ | .barwComplete _ _ | .fenceComplete _
  | .eccError _ _ | .virtualDieRemap _ _ | .illegalBundle _ _ | .bundleFetchFault _ | .preemptRequestArrive _ | .fabricPortDown _
  | .fabricPortUp _ | .firmwareOrderedRetrain _ | .yieldWindowEnd _ | .exitReportArrive _ _ => true
  | _ => false

/-! ### The invariant -/

/-- Memory is in canonical form. -/
abbrev Inv (s : State) : Prop := Memory.wf s.mem = true

end Sys2Proof.Safety
end

