-- ==== Sys2Proof/Certificates/Slice0/Obligations.lean ====
section
/-!
DEFINITION. The statements for the provers, family by family in the order of the opcode table.
-/
open Sys2Proof Sys2Proof.Machine Sys2Proof.Machine.Store Sys2Proof.Safety

/-! ### Scalar forms (06 R94 to R101, R107) -/

/-- R94: NOP has no effect; the integer forms give the named result modulo 2^64, raise no status and change nothing but
sd.
R96: logic, shifts by a natural amount, rotates by sb mod 64, counts and reversals, bit by bit.
R98: the immediate, with its lend, is sign-extended for ADDI, SUBI, ANDI and MOVI and zero-extended for ORI, XORI and
LUI; the shifts take 0 to 63. -/
def Obligations.ScalarForms : Prop :=
  ((∀ s, completes .nop s (fun t => t = s)) ∧
   scalar2 .add (fun x y z => z = BitVec.ofInt 64 (x.toInt + y.toInt)) ∧
   scalar2 .sub (fun x y z => z = BitVec.ofInt 64 (x.toInt - y.toInt)) ∧
   scalar2 .mul (fun x y z => z = BitVec.ofInt 64 (x.toInt * y.toInt)) ∧
   scalar2 .mulh (fun x y z => z = (x.signExtend 128 * y.signExtend 128).extractLsb' 64 64) ∧
   scalar2 .mulhn (fun x y z => z = (x.setWidth 128 * y.setWidth 128).extractLsb' 64 64) ∧
   scalar1 .neg (fun x z => z = BitVec.ofInt 64 (-x.toInt)) ∧
   scalar1 .abs (fun x z => z = BitVec.ofNat 64 x.toInt.natAbs) ∧
   scalar2 .min (fun x y z => z = if x.toInt ≤ y.toInt then x else y) ∧
   scalar2 .max (fun x y z => z = if x.toInt ≤ y.toInt then y else x) ∧
   scalar2 .minn (fun x y z => z = if x.toNat ≤ y.toNat then x else y) ∧
   scalar2 .maxn (fun x y z => z = if x.toNat ≤ y.toNat then y else x)) ∧
  (scalar2 .and (bitwise fun p q => p && q) ∧ scalar2 .or (bitwise fun p q => p || q) ∧
   scalar2 .xor (bitwise fun p q => p != q) ∧ scalar2 .andn (bitwise fun p q => p && !q) ∧
   scalar2 .orn (bitwise fun p q => p || !q) ∧
   scalar2 .shl (fun x y z => z = if y.toNat ≥ 64 then 0 else BitVec.ofNat 64 (x.toNat * 2 ^ y.toNat)) ∧
   scalar2 .shr (fun x y z => z = if y.toNat ≥ 64 then 0 else BitVec.ofNat 64 (x.toNat / 2 ^ y.toNat)) ∧
   scalar2 .sra (fun x y z => ∀ i < 64, z.getLsbD i = if i + y.toNat < 64 then x.getLsbD (i + y.toNat) else x.getLsbD 63) ∧
   scalar2 .rotl (fun x y z => ∀ i < 64, z.getLsbD ((i + y.toNat) % 64) = x.getLsbD i) ∧
   scalar2 .rotr (fun x y z => ∀ i < 64, z.getLsbD i = x.getLsbD ((i + y.toNat) % 64)) ∧
   scalar1 .clz (fun x z => z.toNat ≤ 64 ∧ (∀ i, 64 - z.toNat ≤ i → x.getLsbD i = false) ∧
     (z.toNat < 64 → x.getLsbD (63 - z.toNat) = true)) ∧
   scalar1 .ctz (fun x z => z.toNat ≤ 64 ∧ (∀ i < z.toNat, x.getLsbD i = false) ∧
     (z.toNat < 64 → x.getLsbD z.toNat = true)) ∧
   scalar1 .popc (fun x z => z.toNat = ((List.range 64).filter x.getLsbD).length) ∧
   scalar1 .brev (fun x z => ∀ i < 64, z.getLsbD (63 - i) = x.getLsbD i) ∧
   scalar1 .bswp (fun x z => ∀ i < 8, z.extractLsb' (8 * (7 - i)) 8 = x.extractLsb' (8 * i) 8) ∧
   scalar1 .mov (fun x z => z = x)) ∧
  (scalarI .addi (fun x i z => z = BitVec.ofInt 64 (x.toInt + i.toInt)) ∧
   scalarI .subi (fun x i z => z = BitVec.ofInt 64 (x.toInt - i.toInt)) ∧
   scalarI .andi (fun x i z => bitwise (fun p q => p && q) x (BitVec.ofInt 64 i.toInt) z) ∧
   scalarI .ori (fun x i z => bitwise (fun p q => p || q) x (BitVec.ofNat 64 i.toNat) z) ∧
   scalarI .xori (fun x i z => bitwise (fun p q => p != q) x (BitVec.ofNat 64 i.toNat) z) ∧
   scalarI .shli (fun x n z => z = BitVec.ofNat 64 (x.toNat * 2 ^ n.toNat)) ∧
   scalarI .shri (fun x n z => z = BitVec.ofNat 64 (x.toNat / 2 ^ n.toNat)) ∧
   scalarI .srai (fun x n z => z = BitVec.ofInt 64 (x.toInt / 2 ^ n.toNat)) ∧
   (∀ s d i, completes (.lui d i) s (setsS s d (BitVec.ofNat 64 (i.toNat * 2 ^ 42)))) ∧
   (∀ s d i, completes (.movi d i) s (setsS s d (BitVec.ofInt 64 i.toInt))))

/-- R95: division never traps and sets no status; a zero divisor gives all ones and the dividend, the quotient is
rounded toward zero and wraps for −2^63 / −1, and otherwise sa = sb × quotient + remainder. -/
def Obligations.DivisionNeverTraps : Prop :=
  scalar2 .div (fun x y z => z = if y = 0 then BitVec.allOnes 64 else BitVec.ofInt 64 (x.toInt.tdiv y.toInt)) ∧
  scalar2 .rem (fun x y z => z = if y = 0 then x else BitVec.ofInt 64 (x.toInt.tmod y.toInt)) ∧
  scalar2 .divn (fun x y z => z = if y = 0 then BitVec.allOnes 64 else BitVec.ofNat 64 (x.toNat / y.toNat)) ∧
  scalar2 .remn (fun x y z => z = if y = 0 then x else BitVec.ofNat 64 (x.toNat % y.toNat)) ∧
  (∀ s a b d e, rS s b ≠ 0 → ∃ q r, completes (.div d a b) s (setsS s d q) ∧ completes (.rem e a b) s (setsS s e r) ∧
    rS s a = rS s b * q + r)

/-- R97: width w = sb[7:0] and offset o = sb[15:8], read as natural numbers; BINS reads sd as a third source. -/
def Obligations.BitFields : Prop :=
  scalar2 .sext (fun x y z => z = let w := (y.extractLsb' 0 8).toNat
    if w = 0 then 0 else if w ≥ 64 then x else (x.setWidth w).signExtend 64) ∧
  scalar2 .zext (fun x y z => z = let w := (y.extractLsb' 0 8).toNat
    if w = 0 then 0 else if w ≥ 64 then x else (x.setWidth w).setWidth 64) ∧
  scalar2 .bext (fun x y z => ∀ i < 64, z.getLsbD i =
    (decide (i < (y.extractLsb' 0 8).toNat) && x.getLsbD ((y.extractLsb' 8 8).toNat + i))) ∧
  (∀ s d a b, ∃ z : Word, completes (.bins d a b) s (setsS s d z) ∧ ∀ i < 64, z.getLsbD i =
    let o := ((rS s b).extractLsb' 8 8).toNat
    if o ≤ i ∧ i < o + ((rS s b).extractLsb' 0 8).toNat then (rS s a).getLsbD (i - o) else (rS s d).getLsbD i)

/-- R99 to R101, R107: comparisons and the predicate forms set pd alone; SEL and PCNT read predicates, with p0 true.
R102 to R104: address arithmetic wraps and checks no aperture; ACVT and ATST use the windows of R168, never access
memory and never fault. -/
def Obligations.PredicateAndAddressForms : Prop :=
  ((∀ s k c d a b, completes (.cmp k c d a b) s (setsP s (pName k d) (condSays c (rS s a) (rS s b)))) ∧
   (∀ s c d a i, completes (.cmpi c d a i) s (setsP s d.toNat (condSays c (rS s a) (BitVec.ofInt 64 i.toInt)))) ∧
   (∀ s k d a b, completes (.pand k d a b) s (setsP s (pName k d) (rP s (pName k a) && rP s (pName k b)))) ∧
   (∀ s k d a b, completes (.por k d a b) s (setsP s (pName k d) (rP s (pName k a) || rP s (pName k b)))) ∧
   (∀ s k d a b, completes (.pxor k d a b) s (setsP s (pName k d) (rP s (pName k a) != rP s (pName k b)))) ∧
   (∀ s k d a, completes (.pnot k d a) s (setsP s (pName k d) (!rP s (pName k a)))) ∧
   (∀ s k d a, completes (.pmov k d a) s (setsP s (pName k d) (rP s (pName k a)))) ∧
   (∀ s k d a, completes (.pset k d a) s (setsP s (pName k d) (decide (rS s a ≠ 0)))) ∧
   (∀ s k d a b, completes (.pcnt k d a b) s (setsS s d (BitVec.ofNat 64
     ((List.range 96).filter fun n => decide (pName k a ≤ n) && decide (n ≤ pName k b) && rP s n).length))) ∧
   (∀ s p d a b, completes (.sel p d a b) s (setsS s d (if rP s p.toNat then rS s a else rS s b))) ∧
   (∀ s, rP s 0 = true)) ∧
  ((∀ s d a b, completes (.adda d a b) s (setsA s d.toNat (rA s a.toNat + rS s b))) ∧
   (∀ s k d a b, completes (.lea k d a b) s (setsA s d.toNat (rA s a.toNat + rS s b * BitVec.ofNat 64 (2 ^ k.toNat)))) ∧
   (∀ w, scalar1 (.acvtRel w) (fun x z => z =
     if (aperture w).1 ≤ x.toNat ∧ x.toNat ≤ (aperture w).2 then BitVec.ofNat 64 (x.toNat - (aperture w).1)
     else BitVec.allOnes 64)) ∧
   (∀ w, scalar1 (.acvtGen w) (fun x z => z =
     if x.toNat < (aperture w).2 - (aperture w).1 + 1 then BitVec.ofNat 64 ((aperture w).1 + x.toNat)
     else BitVec.allOnes 64)) ∧
   (∀ s k w d a, completes (.atst k w d a) s (setsP s (pName k d)
     (decide ((aperture w).1 ≤ (rA s a.toNat).toNat) && decide ((rA s a.toNat).toNat ≤ (aperture w).2)))))

/-! ### Special registers (06 R117, R118) -/

/-- R117: SRD answers the task's identity, the counters, and the trap and status registers as they stood before the
bundle, which is what the beginning of its issue keeps; PDIE with privilege only.
R118: an SWR of ASTAT clears the bits written as 1 but for those a slot of its bundle raises, TRAPPC and TRAPCODE
take a write with privilege, an SWR of a register that is read-only to the context is ignored, and one of PDIE without privilege takes
trap 0x02. -/
def Obligations.SpecialRegisters : Prop :=
  (∀ (s : State) (d : BitVec 6) (t : Task), s.me.task = some t →
   completes (.srd d .tilex) s (setsS s d (BitVec.ofNat 64 t.x)) ∧
   completes (.srd d .tiley) s (setsS s d (BitVec.ofNat 64 t.y)) ∧
   completes (.srd d .tilez) s (setsS s d (BitVec.ofNat 64 t.z)) ∧
   completes (.srd d .tilen) s (setsS s d (BitVec.ofNat 64 t.n)) ∧
   completes (.srd d .lnchid) s (setsS s d (t.lnch.setWidth 64)) ∧
   completes (.srd d .vdie) s (setsS s d (BitVec.ofNat 64 t.vdie)) ∧
   completes (.srd d .core) s (setsS s d (BitVec.ofNat 64 t.vcore)) ∧
   completes (.srd d .ctx) s (setsS s d (BitVec.ofNat 64 (s.cur % 4))) ∧
   completes (.srd d .vf) s (setsS s d (BitVec.ofNat 64 t.fn)) ∧
   completes (.srd d .cycle) s (setsS s d (BitVec.ofNat 64 s.me.iss.cycle)) ∧
   completes (.srd d .cycleG) s (setsS s d (BitVec.ofNat 64 s.me.iss.cycleG)) ∧
   completes (.srd d .astat) s (setsS s d s.me.iss.astat) ∧
   completes (.srd d .peererr) s (setsS s d (BitVec.ofNat 64 ((List.range 2048).filter s.me.failMap.getLsbD).length)) ∧
   completes (.srd d .trappc) s (setsS s d s.me.iss.trapPC) ∧
   completes (.srd d .trapcode) s (setsS s d (s.me.iss.trapCode.setWidth 64)) ∧
   completes (.srd d .trapmask) s (setsS s d (s.me.iss.trapMask.setWidth 64)) ∧
   completes (.srd d .stoprec) s (setsS s d (BitVec.ofNat 64 s.me.iss.nrec)) ∧
   completes (.srd d .fmtidx) s (setsS s d (BitVec.ofNat 64 s.me.iss.fmtIdx)) ∧
   completes (.srd d .slackleft) s (setsS s d (BitVec.ofNat 64 s.me.iss.slack)) ∧
   (t.priv = true → completes (.srd d .pdie) s (setsS s d (BitVec.ofNat 64 (s.cur / 64)))) ∧
   (∀ now acts, let i := (beginIssue now acts s).me.iss
    i.cycle = now ∧ i.cycleG = s.cycleG ∧ i.astat = s.me.astat ∧ i.trapPC = s.me.trapPC ∧ i.trapCode = s.me.trapCode ∧
    i.trapMask = s.me.trapMask ∧ i.nrec = (s.fn t.fn).recs.length ∧ i.fmtIdx = fmtIdx s ∧ i.slack = s.me.slackLeft ∧
    i.view = s.me.regs)) ∧
  (∀ (s : State) (a : BitVec 6),
   completes (.swr .astat a) s (fun t => t = s.mod fun c =>
     { c with astat := (c.astat &&& ~~~ rS s a) ||| c.iss.raised.setWidth 64 }) ∧
   (s.myPriv = true → completes (.swr .trappc a) s (fun t => t = s.mod fun c => { c with trapPC := rS s a })) ∧
   (s.myPriv = true → completes (.swr .trapcode a) s
     (fun t => t = s.mod fun c => { c with trapCode := (rS s a).setWidth 8 })) ∧
   (s.myPriv = true → completes (.swr .pdie a) s (fun t => t = s)) ∧
   (s.myPriv = false → exec (.swr .pdie a) s = .next (trap 0x02 0 0 s)) ∧
   (s.myPriv = false → completes (.swr .trappc a) s (fun t => t = s) ∧ completes (.swr .trapcode a) s (fun t => t = s)) ∧
   (∀ n : SReg, n ≠ .astat → n ≠ .trappc → n ≠ .trapcode → n ≠ .pdie → completes (.swr n a) s (fun t => t = s)))

/-! ### Control (06 R108 to R116) -/

/-- R108, R25: a branch goes to its target when its bundle has committed; CALL links the address after the branch bundle
into s63; a target in sa that is not 16-aligned takes trap 0x05 at the branch bundle.
R111 to R113, R115, R116: LOOP sets its counter to zero and opens the loop, or passes the body over when the trip
count is zero; it replaces an active loop of its counter with every loop inside that one, and its body is cut at the last bundle of
an enclosing body; LBRK ends its loop and those inside it; EXIT ends every loop and the task; YIELD opens a window of 64 cycles.
That EXIT waits until the slots that wait for the matrix port have had their turn is the model's choice in log 25: R115 gives no
such wait. -/
def Obligations.BranchesAndLoops : Prop :=
  (∀ (s : State) (a : BitVec 6) (off : BitVec 24),
   (s.me.iss.pc.toNat % 16 = 0 →
     completes (.br off) s (goesTo s (BitVec.ofInt 64 (s.me.iss.pc.toNat + 16 * off.toInt))) ∧
     completes (.call off) s (fun t => ∃ u, setsS s 63 (s.me.iss.pc + 16) u ∧
       goesTo u (BitVec.ofInt 64 (s.me.iss.pc.toNat + 16 * off.toInt)) t)) ∧
   ((rS s a).toNat % 16 = 0 → completes (.bri a) s (goesTo s (rS s a)) ∧ completes (.ret a) s (goesTo s (rS s a))) ∧
   ((rS s a).toNat % 16 ≠ 0 → exec (.bri a) s = .next (trap 0x05 0 0 s) ∧ exec (.ret a) s = .next (trap 0x05 0 0 s))) ∧
  (∀ (s : State) (n : BitVec 2) (a len : BitVec 6),
   completes (.loop n a len) s (fun t => lcReg t n.toNat = 0 ∧ (∀ m, m ≠ n.toNat → lcReg t m = lcReg s m) ∧
     (∃ ls after lc, t = s.mod fun c =>
       { c with loops := ls, regs := { c.regs with lc := lc }, iss := { c.iss with after := after } }) ∧
     (s.me.loops = [] → s.me.iss.target = none → s.me.iss.after = none →
       let x := (rS s a).toNat
       (x = 0 → (endFlow t.me).loops = [] ∧ (endFlow t.me).pc = s.me.iss.pc + BitVec.ofNat 64 (16 * (len.toNat + 2))) ∧
       (x ≠ 0 → (endFlow t.me).loops = [⟨n.toNat, s.me.iss.pc + 16, len.toNat + 1, min x (2 ^ 32 - 1)⟩] ∧
         (endFlow t.me).pc = s.me.iss.pc + 16)) ∧
     (∀ outer : List Loop,
       ((∃ inner l, s.me.loops = inner ++ l :: outer ∧ l.lc = n.toNat ∧ ∀ y ∈ inner, y.lc ≠ n.toNat) ∨
         (outer = s.me.loops ∧ ∀ y ∈ outer, y.lc ≠ n.toNat)) →
       s.me.iss.target = none → s.me.iss.after = none →
       let body := s.me.iss.pc + 16
       (∀ l ∈ outer, body.toNat ≤ (loopEnd l).toNat) →
       let x := (rS s a).toNat
       ∃ k, 0 < k ∧ k ≤ len.toNat + 1 ∧ (∀ l ∈ outer, body.toNat + 16 * k ≤ (loopEnd l).toNat + 16) ∧
         (k = len.toNat + 1 ∨ ∃ l ∈ outer, (loopEnd l).toNat < body.toNat + 16 * k) ∧
         (x = 0 → t.me.loops = outer ∧ let f := flowAfter (s.me.iss.pc + BitVec.ofNat 64 (16 * k)) outer t.me.regs.lc
           (endFlow t.me).pc = f.1 ∧ (endFlow t.me).loops = f.2.1) ∧
         (x ≠ 0 → (endFlow t.me).loops = ⟨n.toNat, body, k, min x (2 ^ 32 - 1)⟩ :: outer ∧ (endFlow t.me).pc = body))) ∧
   (∀ l outer, loopsOutside n.toNat s.me.loops = some (l, outer) → completes (.lbrk n) s (fun t =>
     (t = s.mod fun c => { c with loops := outer, iss := { c.iss with after := some (loopEnd l) } }))) ∧
   ((∀ l ∈ s.me.loops, l.lc ≠ n.toNat) → completes (.lbrk n) s (fun t => t = s.mod id)) ∧
   (s.inElided = false → s.me.port = [] → s.me.mat.running = none → completes .exit s (fun t =>
     t = s.mod fun c => { c with loops := [], iss := { c.iss with ended := true } })) ∧
   (s.inElided = false → (s.me.port ≠ [] ∨ s.me.mat.running ≠ none) → exec .exit s = waitFor .exit s) ∧
   completes .yield s (fun t => t = s.mod fun c => { c with yieldUntil := (s.pdie (s.cur / 64)).cycle + 64 }))

/-- R111, R112: after the last body bundle the counter rises; below the trip count the first body bundle follows again,
at the trip count the enclosing loop's control applies and then the bundle after the body; elsewhere flow goes on. -/
def Obligations.LoopEngine : Prop := ∀ (l : Loop) (ls : List Loop) (lc : PMap (BitVec 32)) (x : Word),
  (rd 0 lc l.lc).toNat + 1 < 2 ^ 32 →
  (x = loopEnd l → (rd 0 lc l.lc).toNat + 1 < l.trip →
    (flowAfter x (l :: ls) lc).1 = l.body ∧ (flowAfter x (l :: ls) lc).2.1 = l :: ls ∧
    rd 0 (flowAfter x (l :: ls) lc).2.2 l.lc = rd 0 lc l.lc + 1) ∧
  (x = loopEnd l → (rd 0 lc l.lc).toNat + 1 = l.trip →
    flowAfter x (l :: ls) lc = flowAfter x ls (wr 0 lc l.lc (BitVec.ofNat 32 l.trip)) ∧
    (flowAfter x [l] lc).1 = x + 16 ∧ (flowAfter x [l] lc).2.1 = []) ∧
  (x ≠ loopEnd l → flowAfter x (l :: ls) lc = (x + 16, l :: ls, lc))

/-! ### Vector forms (07 R119 to R143) -/

/-- R124: the integer forms work element by element, wrap modulo 2^e and set no status.
R126, R127: the logic forms are bitwise, the counts count, and a shift amount is the element of vb read as a natural
number; no status. -/
def Obligations.VectorIntegerForms : Prop :=
  (∀ (s : State) (w : Width) (d a b : BitVec 5) (la lb : Bool) (t : ETy),
   let e := t.bits
   let A := fun j => elem (rV s a.toNat) j e
   let B := fun j => elem (rV s b.toNat) j e
   let two := fun (i : Instr) (f : Nat → Nat) => vectorForm i s [a.toNat, b.toNat] d.toNat (widthBits w) [(a, la), (b, lb)]
     (fun x st => st = 0 ∧ each (widthBits w) e x f)
   let one := fun (i : Instr) (f : Nat → Nat) => vectorForm i s [a.toNat] d.toNat (widthBits w) [(a, la)]
     (fun x st => st = 0 ∧ each (widthBits w) e x f)
   (t.isInt = true →
     two (.vadd w d a b la lb t) (fun j => (A j + B j) % 2 ^ e) ∧
     two (.vsub w d a b la lb t) (fun j => (A j + 2 ^ e - B j) % 2 ^ e) ∧
     two (.vmul w d a b la lb t) (fun j => A j * B j % 2 ^ e) ∧
     two (.vmulh w d a b la lb t) (fun j => (num t (A j) * num t (B j) / 2 ^ e % 2 ^ e).toNat) ∧
     two (.vmin w d a b la lb t) (fun j => if num t (A j) ≤ num t (B j) then A j else B j) ∧
     two (.vmax w d a b la lb t) (fun j => if num t (A j) ≤ num t (B j) then B j else A j)) ∧
   (t.isSint = true →
     one (.vabs w d a la t) (fun j => (num t (A j)).natAbs) ∧
     one (.vneg w d a la t) (fun j => (2 ^ e - A j) % 2 ^ e))) ∧
  (∀ (s : State) (w : Width) (d a b : BitVec 5) (la lb : Bool) (t : ETy),
   let e := t.bits
   let va := rV s a.toNat
   let vb := rV s b.toNat
   let A := fun j => elem va j e
   let B := fun j => elem vb j e
   let two := fun (i : Instr) (R : VReg → Prop) => vectorForm i s [a.toNat, b.toNat] d.toNat (widthBits w) [(a, la), (b, lb)]
     (fun x st => st = 0 ∧ R x)
   let one := fun (i : Instr) (R : VReg → Prop) => vectorForm i s [a.toNat] d.toNat (widthBits w) [(a, la)]
     (fun x st => st = 0 ∧ R x)
   two (.vand w d a b la lb) (fun x => ∀ i < widthBits w, x.getLsbD i = (va.getLsbD i && vb.getLsbD i)) ∧
   two (.vor w d a b la lb) (fun x => ∀ i < widthBits w, x.getLsbD i = (va.getLsbD i || vb.getLsbD i)) ∧
   two (.vxor w d a b la lb) (fun x => ∀ i < widthBits w, x.getLsbD i = (va.getLsbD i != vb.getLsbD i)) ∧
   one (.vnot w d a la) (fun x => ∀ i < widthBits w, x.getLsbD i = !va.getLsbD i) ∧
   (t.isNat = true →
     one (.vpopc w d a la t) (fun x => each (widthBits w) e x fun j => ((List.range e).filter (A j).testBit).length) ∧
     one (.vclz w d a la t) (fun x => ∀ j < widthBits w / e, elem x j e ≤ e ∧ A j < 2 ^ (e - elem x j e) ∧
       (elem x j e < e → 2 ^ (e - elem x j e - 1) ≤ A j))) ∧
   (t.isInt = true →
     two (.vshl w d a b la lb t) (fun x => each (widthBits w) e x fun j => A j * 2 ^ B j % 2 ^ e) ∧
     two (.vshr w d a b la lb t) (fun x => each (widthBits w) e x fun j => A j / 2 ^ B j) ∧
     two (.vsra w d a b la lb t) (fun x => each (widthBits w) e x fun j =>
       ((BitVec.ofNat e (A j)).toInt / 2 ^ B j % 2 ^ e).toNat)))

/-- R124, R125: the floating forms round once, in the mode of the entry in force and under its FTZ; status is the OR over
the elements.
The exact values of the floating results: FloatsRoundOnce. -/
def Obligations.VectorFloats : Prop := ∀ (s : State) (w : Width) (d a b : BitVec 5) (la lb : Bool) (t : ETy) (f : FFmt),
  etyFmt t = some f →
  let e := t.bits
  let m := fRnd s.me.iss.fmt
  let z := fFtz s.me.iss.fmt
  let A := fun j => elem (rV s a.toNat) j e
  let B := fun j => elem (rV s b.toNat) j e
  let C := fun j => elem (rV s d.toNat) j e
  let two := fun (i : Instr) (ns : List Nat) (g : Nat → Nat × Status) =>
    vectorForm i s ns d.toNat (widthBits w) [(a, la), (b, lb)] (fun x st => eachSt (widthBits w) e x st g)
  let one := fun (i : Instr) (g : Nat → Nat × Status) => vectorForm i s [a.toNat] d.toNat (widthBits w) [(a, la)]
    (fun x st => eachSt (widthBits w) e x st g)
  two (.vadd w d a b la lb t) [a.toNat, b.toNat] (fun j => fadd f m z (A j) (B j)) ∧
  two (.vsub w d a b la lb t) [a.toNat, b.toNat] (fun j => fsub f m z (A j) (B j)) ∧
  two (.vmul w d a b la lb t) [a.toNat, b.toNat] (fun j => fmul f m z (A j) (B j)) ∧
  two (.vmin w d a b la lb t) [a.toNat, b.toNat] (fun j => fminmax f z false (A j) (B j)) ∧
  two (.vmax w d a b la lb t) [a.toNat, b.toNat] (fun j => fminmax f z true (A j) (B j)) ∧
  one (.vabs w d a la t) (fun j => fabsneg f z false (A j)) ∧
  one (.vneg w d a la t) (fun j => fabsneg f z true (A j)) ∧
  two (.vfma w d a b la lb t) [d.toNat, a.toNat, b.toNat] (fun j => ffma f m z false (A j) (B j) (C j)) ∧
  two (.vfms w d a b la lb t) [d.toNat, a.toNat, b.toNat] (fun j => ffma f m z true (A j) (B j) (C j))

/-- R127, R128, R136, R141: selection, broadcast, index, element moves, shuffles and clearing copy bits and set no
status.
R139, R140, R143: VLDM and VSTM move a row of the context's window, and a row at or above mwin takes trap 0x06; a
pattern that PATLD loads is what VSHUF reads from four cycles behind the issue of its bundle on and not before; PATSW inverts PBANK. -/
def Obligations.VectorMovesAndPatterns : Prop :=
  (∀ (s : State) (w : Width) (d a b : BitVec 5) (la lb bank : Bool) (t : ETy)
     (k : BitVec 4) (p : BitVec 5),
   let W := widthBits w
   let e := t.bits
   let va := rV s a.toNat
   let vb := rV s b.toNat
   vectorForm (.vsel w d a b la lb k) s [a.toNat, b.toNat] d.toNat W [(a, la), (b, lb)] (fun x st => st = 0 ∧
     each W 8 x fun j => if (rK s k.toNat).getLsbD j then elem va j 8 else elem vb j 8) ∧
   vectorForm (.vbcast w d a la t) s [a.toNat] d.toNat W [(a, la)] (fun x st => st = 0 ∧ each W e x fun _ => elem va 0 e) ∧
   (t.isInt = true → vectorForm (.viota w d t) s [] d.toNat W [] (fun x st => st = 0 ∧ each W e x fun j => j)) ∧
   (∀ f, t.isFlt = true → etyFmt t = some f → vectorForm (.viota w d t) s [] d.toNat W [] (fun x st => st = 0 ∧
     ∀ j < W / e, valueIs (fdecode f false (elem x j e)) j)) ∧
   vectorSlot (.vmovs w d a b la t) s [a.toNat] 0 (fun st u => ∃ r, marksOnly s [(a, la)] st r ∧
     setsS r (d.setWidth 6)
       (let i := (rS s (b.setWidth 6)).toNat
        if W / e ≤ i then 0 else BitVec.ofInt 64 (num t (elem va i e))) u) ∧
   vectorForm (.vins w d a b t) s [d.toNat] d.toNat W [] (fun x st => st = 0 ∧ each W e x fun j =>
     if j = (rS s (b.setWidth 6)).toNat then (rS s (a.setWidth 6)).toNat % 2 ^ e else elem (rV s d.toNat) j e) ∧
   vectorForm (.vshuf bank p w d a b la lb) s [a.toNat, b.toNat] d.toNat W [(a, la), (b, lb)] (fun x st => st = 0 ∧
     each W 16 x fun j =>
       let q := elem (patRead s (s.pdie (s.cur / 64)).cycle ((if bank then 32 else 0) + p.toNat)) j 16
       if q.testBit 7 then 0
       else if q % 128 < 64 then elem va (q % 128 % (W / 16)) 16 else elem vb ((q % 128 - 64) % (W / 16)) 16) ∧
   vectorForm (.vclr w d) s [] d.toNat W [] (fun x st => st = 0 ∧ x.toNat % 2 ^ W = 0)) ∧
  (∀ (s : State) (bank la : Bool) (d : BitVec 6) (row : BitVec 14) (p a : BitVec 5)
     (t : Task), s.me.task = some t →
   let n := (if bank then 6144 else 0) + row.toNat
   (n < t.mwin → d.toNat < 32 →
     completes (.vldm bank d row) s (setsV s d.toNat (mainRow s.me.mat s.me.iss.main n) [] 0) ∧
     vectorSlot (.vstm bank d row) s [d.toNat] 0 (fun st u => ∃ r, marksOnly s [] st r ∧ setsM r n (rV s d.toNat) u)) ∧
   (t.mwin ≤ n → exec (.vldm bank d row) s = .next (trap 0x06 0 0 s) ∧ exec (.vstm bank d row) s = .next (trap 0x06 0 0 s)) ∧
   (let m := (if bank then 32 else 0) + p.toNat
    let now := (s.pdie (s.cur / 64)).cycle
    let due := s.me.iss.cycle + 4
    let next := (s.core (s.cur / 4)).patNext
    next.Pairwise (fun x y => x.1 ≤ y.1) →
    vectorSlot (.patld bank p a la) s [a.toNat] 0 (fun st u =>
     (∃ r f, marksOnly s [(a, la)] st r ∧ u = r.modCore (s.cur / 4) f) ∧
     (∀ c, now ≤ c → due ≤ c → (∀ x ∈ next, x.2.2.1 = patEntry s m → due < x.1 → c < x.1) → patRead u c m = rV s a.toNat) ∧
     (∀ c, now ≤ c → c < due → patRead u c m = patRead s c m) ∧
     (∀ c q, now ≤ c → patEntry s q ≠ patEntry s m → patRead u c q = patRead s c q))) ∧
   completes .patsw s (fun u => u = s.mod fun c => { c with pbank := !c.iss.pbank }))

/-- R130, R131, R137, R138: conversions by the rules of R83 on the elements the width gives, with the status of every
element.
Where the rules are open it rests on the model's choices in log 41.
The exact values of the floating results: FloatsRoundOnce. -/
def Obligations.VectorConversions : Prop := ∀ (s : State) (w : Width) (d a b : BitVec 5) (la lb sat hi : Bool)
    (r : RMode) (t src : ETy),
  let W := widthBits w
  let z := fFtz s.me.iss.fmt
  let m := fRnd s.me.iss.fmt
  let va := rV s a.toNat
  let vb := rV s b.toNat
  let n := W / max src.bits t.bits
  (src ≠ .t5 → vectorForm (.vcvt sat r src w d a la t) s [a.toNat] d.toNat (n * t.bits) [(a, la)]
    (fun x st => eachSt (n * t.bits) t.bits x st fun j => convert t src r sat z (elem va j src.bits))) ∧
  vectorForm (.vcvt sat r .t5 w d a la t) s [a.toNat] d.toNat (W / max 8 t.bits * t.bits) [(a, la)]
    (fun x st => eachSt (W / max 8 t.bits * t.bits) t.bits x st fun j =>
      let byte := elem va (j / 5) 8
      let y := convInt t r sat z ((decode5 byte).getD (j % 5) 0)
      (y.1, y.2 ||| if 243 ≤ byte then stRtd else 0)) ∧
  (∀ f, etyFmt t = some f → vectorForm (.vrnd r w d a la t) s [a.toNat] d.toNat W [(a, la)]
    (fun x st => eachSt W t.bits x st fun j => frint f r z (elem va j t.bits))) ∧
  (∀ u, t.packSrc = some u → vectorForm (.vpack sat w d a b la lb t) s [a.toNat, b.toNat] d.toNat W [(a, la), (b, lb)]
    (fun x st => eachSt W t.bits x st fun j =>
      convert t u m sat z (if j < W / u.bits then elem va j u.bits else elem vb (j - W / u.bits) u.bits))) ∧
  (t.unpackOk src = true → vectorForm (.vunpk hi src w d a la t) s [a.toNat] d.toNat W [(a, la)]
    (fun x st => eachSt W t.bits x st fun j =>
      convert t src .rne false false (elem va (j + if hi then W / t.bits else 0) src.bits)))

/-- R132, R133: the special functions element by element; reductions by the pairwise tree into element 0 with zeros
above, the scan by the left-to-right prefix, whose first element is a result too; status is the OR over all steps.
R129, R142: VCMP sets every bit of kd that belongs to a byte of element j to the truth of the condition and keeps the
bits at bytes W/8 and above; KAND, KOR, KNOT and KMOV work on all 128 bits.
Where the rules are open it rests on the model's choices in log 13.
The exact values of the floating results: FloatsRoundOnce. -/
def Obligations.VectorSpecialsAndMasks : Prop :=
  (∀ (s : State) (w : Width) (d a : BitVec 5) (la : Bool) (t : ETy),
   let W := widthBits w
   let e := t.bits
   let n := W / e
   let m := fRnd s.me.iss.fmt
   let z := fFtz s.me.iss.fmt
   let A := fun j => elem (rV s a.toNat) j e
   let one := fun (i : Instr) (R : VReg → Status → Prop) => vectorForm i s [a.toNat] d.toNat W [(a, la)] R
   (∀ f, etyFmt t = some f →
     one (.vrcp w d a la t) (fun x st => eachSt W e x st fun j => fspecial .rcp f m z (A j)) ∧
     one (.vrsq w d a la t) (fun x st => eachSt W e x st fun j => fspecial .rsq f m z (A j)) ∧
     one (.vsqrt w d a la t) (fun x st => eachSt W e x st fun j => fspecial .sqrt f m z (A j)) ∧
     one (.vexp2 w d a la t) (fun x st => eachSt W e x st fun j => fspecial .exp2 f m z (A j)) ∧
     one (.vlog2 w d a la t) (fun x st => eachSt W e x st fun j => fspecial .log2 f m z (A j)) ∧
     one (.vtanh w d a la t) (fun x st => eachSt W e x st fun j => fspecial .tanh f m z (A j))) ∧
   (t.isIntFlt = true →
     one (.vrsum w d a la t) (fun x st => each W e x (fun j => if j = 0 then (treeFold (eAdd m z t) 8 (elems (rV s a.toNat) e n)).1 % 2 ^ e else 0)
       ∧ st = (treeFold (eAdd m z t) 8 (elems (rV s a.toNat) e n)).2) ∧
     one (.vrmax w d a la t) (fun x st => each W e x (fun j => if j = 0 then (treeFold (eMax z t) 8 (elems (rV s a.toNat) e n)).1 % 2 ^ e else 0)
       ∧ st = (treeFold (eMax z t) 8 (elems (rV s a.toNat) e n)).2) ∧
     one (.vrmin w d a la t) (fun x st => each W e x (fun j => if j = 0 then (treeFold (eMin z t) 8 (elems (rV s a.toNat) e n)).1 % 2 ^ e else 0)
       ∧ st = (treeFold (eMin z t) 8 (elems (rV s a.toNat) e n)).2) ∧
     one (.vscan w d a la t) (fun x st => ∃ out : Nat → Nat,
       out 0 = (match (etyFmt t).map fun f => (f, fdecode f z (A 0)) with
         | some (f, .nan _) => f.nan
         | some (f, .fin n 0 _) => fzero f n
         | _ => A 0) ∧
       (∀ j, out (j + 1) = (eAdd m z t (out j) (A (j + 1))).1) ∧ each W e x (fun j => out j % 2 ^ e) ∧
       st = (List.range (n - 1)).foldl (fun u j => u ||| (eAdd m z t (out j) (A (j + 1))).2)
         (if (etyFmt t).any (fun f => isSig (fdecode f z (A 0))) then stInv else 0)))) ∧
  (∀ (s : State) (w : Width) (c : Cond) (d a b : BitVec 5) (la lb : Bool) (t : ETy),
   let W := widthBits w
   let e := t.bits
   let A := fun j => elem (rV s a.toNat) j e
   let B := fun j => elem (rV s b.toNat) j e
   let z := fFtz s.me.iss.fmt
   let sets := fun (T : Nat → Bool) (st : Status) =>
     vectorSlot (.vcmp c w d a b la lb t) s [a.toNat, b.toNat] st (fun st u => ∃ r x, marksOnly s [(a, la), (b, lb)] st r ∧
       (∀ i < 128, x.getLsbD i = if i < W / 8 then T (i / (e / 8)) else (kReg s d.toNat).getLsbD i) ∧ setsK r d.toNat x u)
   (c.vector = true → t.isInt = true → sets (fun j => match c with
     | .eq => decide (num t (A j) = num t (B j)) | .ne => decide (num t (A j) ≠ num t (B j))
     | .lt => decide (num t (A j) < num t (B j)) | .le => decide (num t (A j) ≤ num t (B j))
     | .gt => decide (num t (A j) > num t (B j)) | _ => decide (num t (A j) ≥ num t (B j))) 0) ∧
   (∀ f, c.vector = true → etyFmt t = some f →
     sets (fun j =>
       let x := fdecode f z (A j)
       let y := fdecode f z (B j)
       if isNan x || isNan y then c = .ne else match c with
       | .eq => !fltV false x y && !fltV false y x | .ne => fltV false x y || fltV false y x
       | .lt => fltV false x y | .le => !fltV false y x | .gt => fltV false y x | _ => !fltV false x y)
       ((List.range (W / e)).foldl (fun m j =>
         m ||| if isSig (fdecode f z (A j)) || isSig (fdecode f z (B j)) then stInv else 0) 0)) ∧
   completes (.kand d a b) s (setsK s d.toNat (rK s a.toNat &&& rK s b.toNat)) ∧
   completes (.kor d a b) s (setsK s d.toNat (rK s a.toNat ||| rK s b.toNat)) ∧
   completes (.knot d a) s (setsK s d.toNat (~~~ rK s a.toNat)) ∧
   completes (.kmov d a) s (setsK s d.toNat (rK s a.toNat)))

/-! ### Memory forms (10 R168 to R194, 06 R105, R106) -/

/-- R179 to R181, R190: a load in LOCAL or PEER writes its destination from the bytes at the address, extended as its type
says, then commits its post-increment; RLD and RLDN also end the strand. Nothing else changes, no byte of memory does.
R198, R202: behind an earlier read that is still open the load is served at once all the same, but its reply waits its turn
at the router; a store waits itself.
R179 to R181, R191: a store in LOCAL or PEER writes the low bytes of its source, lowest byte first, at its address and
nowhere else; a killed v source stores zero and raises ASTAT.dead.
Where the rules are open it rests on the model's choices in log 23. -/
def Obligations.LoadsAndStoresAtOnce : Prop :=
  (∀ (s : State) (z : LdTy) (w : Width) (d : BitVec 6) (aa : BitVec 5) (am : Bool)
     (off : BitVec 18) (k : Nat),
   (openAt s (effAddr s aa am off (ldSize z)) (ldSize z) (ldSize z) k → s.poisoned k (ldSize z) = false →
     let x := loadVal z (s.bytes k (ldSize z))
     completes (.ld z d aa am off) s (fun t => ∃ u v, sawRead s u ∧ setsS u d x v ∧
       bumpsA v aa am (postVal s aa off (ldSize z)) t) ∧
     completes (.rld z d aa am off) s (fun t => ∃ u v p, sawRead s u ∧ setsS u d x v ∧
       bumpsA v aa am (postVal s aa off (ldSize z)) p ∧ parks p t)) ∧
   (let n := widthBits w / 8
    openAt s (effAddr s aa am off n) n n k → s.poisoned k n = false → d.toNat < 32 →
     completes (.vld w d aa am off) s (fun t => ∃ u v x, sawRead s u ∧
       x.toNat % 2 ^ widthBits w = ofBytes (s.bytes k n) ∧ x.toNat / 2 ^ widthBits w = (keepV s d.toNat).toNat / 2 ^ widthBits w ∧
       setsV u d.toNat x [] 0 v ∧ bumpsA v aa am (postVal s aa off n) t)) ∧
   (openAt s (effAddr s aa am off 128) 128 128 k → s.poisoned k 128 = false → d.toNat < 32 →
     completes (.rldn d aa am off) s (fun t => ∃ u v p, sawRead s u ∧
       setsV u d.toNat (BitVec.ofNat 1024 (ofBytes (s.bytes k 128))) [] 0 v ∧ bumpsA v aa am (postVal s aa off 128) p ∧
       parks p t)) ∧
   (let late := fun (i : Instr) (n : Nat) (dest : Dest) (park : Bool) =>
      behindAt s (effAddr s aa am off n) n n k → s.poisoned k n = false → completes i s (fun t => ∃ u p,
        bumpsA s aa am (postVal s aa off n) u ∧ (if park then parks u p else p = u) ∧ servedLate p (s.bytes k n) dest park t)
    late (.ld z d aa am off) (ldSize z) (.sload d.toNat z) false ∧ late (.rld z d aa am off) (ldSize z) (.sload d.toNat z) true ∧
    late (.vld w d aa am off) (widthBits w / 8) (.vload d.toNat w) false ∧ late (.rldn d aa am off) 128 (.vload d.toNat .w1024) true)) ∧
  (∀ (s : State) (z : StSz) (w : Width) (d : BitVec 6) (aa : BitVec 5) (am : Bool)
     (off : BitVec 18) (k : Nat),
   (openAt s (effAddr s aa am off (stSize z)) (stSize z) (stSize z) k →
     let P := fun t => ∃ u, bumpsA s aa am (postVal s aa off (stSize z)) u ∧
       stored u k ((List.range (stSize z)).map fun j => (rS s d).extractLsb' (8 * j) 8) t
     completes (.st z d aa am off) s P ∧ completes (.rst z d aa am off) s P) ∧
   (∀ i n, ((i = .st z d aa am off ∨ i = .rst z d aa am off) ∧ n = stSize z ∨ i = .vst w d aa am off ∧ n = widthBits w / 8) →
     behindAt s (effAddr s aa am off n) n n k → exec i s = waitFor i s) ∧
   (let n := widthBits w / 8
    openAt s (effAddr s aa am off n) n n k →
     let bs := (List.range n).map fun j => (rV s d.toNat).extractLsb' (8 * j) 8
     vectorSlot (.vst w d aa am off) s [d.toNat] 0 (fun st t => ∃ r u, marksOnly s [] st r ∧
       bumpsA r aa am (postVal s aa off n) u ∧ stored u k bs t)))

/-- R168, R169, R179, R222: outside an elided region, an address that is not aligned takes trap 0x05, and an aligned
address outside every window, or in a window the form does not reach, takes trap 0x06; neither commits a post-increment. A
landing form checks its slot number between the two, so its 0x06 has the same outcome.
R105, R106: DSLICE reads a descriptor of four words in LOCAL and gives ad the address, first element, count or rank of
the issuing die's share, or all ones for a selector above 3 or a descriptor that breaks a limit.
Where the rules are open it rests on the model's choices in logs 7, 11 and 41. -/
def Obligations.AccessChecks : Prop :=
  (∀ (i : Instr) (s : State) (a : Word) (al : Nat),
   operand i s = some (a, al) → s.inElided = false →
   (a.toNat % al ≠ 0 → exec i s = .next (trap 0x05 0 a s)) ∧
   (a.toNat % al = 0 → (∀ z n aa am c, i ≠ .ldl z n aa am c) → (∀ w n aa am c, i ≠ .vldl w n aa am c) →
     (window a = none → exec i s = .next (trap 0x06 0 a s)) ∧
     (∀ w rel, window a = some (w, rel) → reaches i w = false → exec i s = .next (trap 0x06 0 a s)))) ∧
  (∀ (s : State) (d a b : BitVec 6) (rel : Nat),
   s.inElided = false → window (rA s a.toNat) = some (.local_, rel) → rel % 8 = 0 → rel + 32 ≤ 2 ^ 23 →
   s.barred (keyScratch (s.cur / 4) rel) 32 = false → s.poisoned (keyScratch (s.cur / 4) rel) 32 = false →
   let word := fun (j : Nat) => BitVec.ofNat 64 (ofBytes (s.bytes (keyScratch (s.cur / 4) rel + 8 * j) 8))
   let N := ((word 2).extractLsb' 0 48).toNat
   let esz := ((word 2).extractLsb' 48 3).toNat
   let G := ((word 3).extractLsb' 16 16).toNat
   let mask := (word 3).extractLsb' 0 8
   let v := s.myVdie
   let n := ((List.range 8).filter mask.getLsbD).length
   let C := (N + G - 1) / G
   let r := if mask.getLsbD v then ((List.range v).filter mask.getLsbD).length else 8
   let c0 := if mask.getLsbD v then r * C / n else C
   let c1 := if mask.getLsbD v then (r + 1) * C / n else C
   let first := min N (c0 * G)
   let bad := (word 2).extractLsb' 51 13 ≠ 0 ∨ (word 3).extractLsb' 32 32 ≠ 0 ∨ (word 3).extractLsb' 8 8 ≠ 0 ∨ 4 < esz ∨
     G = 0 ∨ mask = 0
   v < 8 → completes (.dslice d a b) s (fun t => ∃ u, sawRead s u ∧ setsA u d.toNat
     (if 3 < (rS s b).toNat ∨ bad then BitVec.allOnes 64
      else if rS s b = 0 then
        if word 1 = 0 then word 0 + BitVec.ofNat 64 (first * 2 ^ esz) else word 0 + BitVec.ofNat 64 v * word 1
      else if rS s b = 1 then BitVec.ofNat 64 first
      else if rS s b = 2 then BitVec.ofNat 64 (min N (c1 * G) - first) else BitVec.ofNat 64 r) t))

/-- R224 to R228: a scalar atomic in LOCAL or PEER stores the new item, gives the old one to sd and raises the status of
the bank ALU; an enabled status bit takes trap 0x0A after the update and the write of sd, without the post-increment (R179).
R229, R230: a vector atomic updates each element at once in LOCAL and PEER, returns nothing and raises no status but
ASTAT.dead; in SHARED it and VBUPD send each element as a request of its own, in increasing j. Behind an open read each of
these forms waits (R202).
Where the rules are open it rests on the model's choices in log 23.
The exact values of the floating results: FloatsRoundOnce. -/
def Obligations.AtomicsAtOnce : Prop :=
  (∀ (s : State) (e : Bool) (d : BitVec 6) (aa : BitVec 5) (am : Bool) (off : BitVec 18)
     (k : Nat),
   let does := fun (i : Instr) (op : AOp) (n : Nat) (y : Word) =>
     openAt s (effAddr s aa am off n) n n k → s.poisoned k n = false →
     let w := ofBytes (s.bytes k n)
     let x := (rS s d).toNat % 2 ^ (8 * n)
     let st := atomStatus op w x
     let P := fun t => ∃ u v q, sawRead s u ∧ stored u k (toBytes n (atomSays op n w x (y.toNat % 2 ^ (8 * n)))) v ∧
       setsS v d (BitVec.ofNat 64 w) q ∧ t = raise st q
     (st &&& atrapMask s = 0 → completes i s (fun t => ∃ q, P q ∧ bumpsA q aa am (postVal s aa off n) t)) ∧
     (st &&& atrapMask s ≠ 0 → completes i s (fun t => ∃ q, P q ∧ t = trap 0x0A 0 (effAddr s aa am off n) q))
   let does := fun (i : Instr) (op : AOp) (n : Nat) (y : Word) => does i op n y ∧
     (behindAt s (effAddr s aa am off n) n n k → exec i s = waitFor i s)
   let n := if e then 8 else 4
   does (.aadd e d aa am off) .add n 0 ∧ does (.amin e d aa am off) .min n 0 ∧ does (.amax e d aa am off) .max n 0 ∧
   does (.aminn e d aa am off) .minn n 0 ∧ does (.amaxn e d aa am off) .maxn n 0 ∧ does (.aand e d aa am off) .and n 0 ∧
   does (.aor e d aa am off) .or n 0 ∧ does (.axor e d aa am off) .xor n 0 ∧ does (.axchg e d aa am off) .xchg n 0 ∧
   does (.acas e d aa am off) .cas n (rS s (d + 1)) ∧ does (.afadd d aa am off) .fadd 4 0 ∧
   does (.afmin d aa am off) .fmin 4 0 ∧ does (.afmax d aa am off) .fmax 4 0) ∧
  (∀ (s : State) (e w1024 : Bool) (bop : BOp) (w : Width) (d : BitVec 6) (aa : BitVec 5)
     (am : Bool) (off : BitVec 18), s.inElided = false →
   let W := if w1024 then 128 else 64
   let does := fun (i : Instr) (op : AOp) (n : Nat) =>
     (∀ k, openAt s (effAddr s aa am off W) W W k → s.poisoned k W = false →
       vectorSlot i s [d.toNat] 0 (fun st t => ∃ r u, marksOnly s [] st r ∧
         stored r k ((List.range (W / n)).flatMap fun j =>
           toBytes n (atomSays op n (ofBytes (s.bytes (k + j * n) n)) (elem (rV s d.toNat) j (8 * n)) 0)) u ∧
         bumpsA u aa am (postVal s aa off W) t)) ∧
     (∀ k, behindAt s (effAddr s aa am off W) W W k → exec i s = waitFor i s) ∧
     (∀ rel v o, (effAddr s aa am off W).toNat % W = 0 → window (effAddr s aa am off W) = some (.shared, rel) →
       s.target .shared rel .atomic = .ok (.far (.shared v o)) → s.readsOpen = false →
       (∀ j < W / n, s.grantShared s.myFn v (o + j * n) = true) →
       vectorSlot i s [d.toNat] 0 (fun st t => ∃ r, marksOnly s [] st r ∧ bumpsA ((List.range (W / n)).foldl (fun u j =>
         request (.shared v (o + j * n)) (.atom op n (BitVec.ofNat 64 (elem (rV s d.toNat) j (8 * n))) 0) .none
           (effAddr s aa am off W + BitVec.ofNat 64 (j * n)) false u) r) aa am (postVal s aa off W) t))
   does (.vaadd e w1024 d aa am off) .add (if e then 8 else 4) ∧ does (.vaor e w1024 d aa am off) .or (if e then 8 else 4) ∧
   does (.vamax e w1024 d aa am off) .max (if e then 8 else 4) ∧ does (.vafadd w1024 d aa am off) .fadd 4 ∧
   (let n := widthBits w / 32
    let op : AOp := match bop with | .addI32 => .add | .addF32 => .fadd | .maxI32 => .max | .orN32 => .or
    ∀ rel v o, (effAddr s aa am off 4).toNat % 4 = 0 → window (effAddr s aa am off 4) = some (.shared, rel) →
     (rel % 2 ^ 26 + 256 * (n - 1) < 2 ^ 26 →
       s.target .shared rel .atomic = .ok (.far (.shared v o)) →
       (s.readsOpen = true → exec (.vbupd bop w d aa am off) s = waitFor (.vbupd bop w d aa am off) s) ∧
       (s.readsOpen = false → (∀ j < n, s.grantShared s.myFn v (o + j * 256) = true) →
       vectorSlot (.vbupd bop w d aa am off) s [d.toNat] 0 (fun st t => ∃ r, marksOnly s [] st r ∧ bumpsA ((List.range n).foldl
         (fun u j => request (.shared v (o + j * 256)) (.atom op 4 (BitVec.ofNat 64 (elem (rV s d.toNat) j 32)) 0) .none
           (effAddr s aa am off 4 + BitVec.ofNat 64 (j * 256)) false u) r) aa am (postVal s aa off 4) t))) ∧
     (2 ^ 26 ≤ rel % 2 ^ 26 + 256 * (n - 1) →
       exec (.vbupd bop w d aa am off) s = .next (trap 0x06 0 (effAddr s aa am off 4) s))))

/-- R196: a request joins the outstanding ones of its die under a tag of its own and takes its place in the order of its context; a
write or atomic raises the entry of its die in the die's clock and carries that clock, with the die's previous write to the
same home; a read carries the clock as it stands.
R170, R171, R180 to R192, R224: an access whose target has a home elsewhere leaves as a request that carries its
operation, and its reply goes to its destination; the post-increment commits at once, RLD and RLDN end the strand, RRED
counts, and the context keeps the modules where its tags are. A write or atomic inside the module waits behind an open read
(R202).
R192: a reduce-store in LOCAL or PEER adds once for its tag (launch, task index, count): with a tag the die holds it
changes no memory, with a new one it stores the sum and the die holds the tag; either way the count rises and no status is
raised.
Where the rules are open it rests on the model's choices in logs 11, 21 and 23. -/
def Obligations.FarAccesses : Prop :=
  (∀ (s : State) (l : Loc) (op : MemOp) (dest : Dest) (a : Word) (park : Bool),
   let t := request l op dest a park s
   let v := s.myVdie
   let clk := (s.vdie v).clock
   ∃ q : Sent, (t.pdie (s.cur / 64)).sent = (s.pdie (s.cur / 64)).sent ++ [q] ∧
     (∀ x ∈ (s.pdie (s.cur / 64)).sent, x.req.tag ≠ q.req.tag) ∧ q.replied = false ∧ q.done = false ∧
     (let r := q.req
      r.loc = l ∧ r.op = op ∧ r.dest = dest ∧ r.addr = a ∧ r.park = park ∧ r.cx = some s.cur ∧ r.serial = s.me.serial ∧
      r.po = s.me.po ∧ r.fn = s.myFn ∧ r.vdie = v ∧ r.pc = s.me.iss.pc ∧ r.slot = s.me.iss.slot ∧
      r.prev = rd 0 (s.vdie v).lastTo l.home ∧
      (op.writes = false → r.clk = clk) ∧
      (op.writes = true → ∀ d, clkGet r.clk d = if d = v then clkGet clk v + 1 else clkGet clk d)) ∧
     (op.writes = true → l.other = none → rd 0 (t.vdie v).lastTo l.home = clkGet clk v + 1) ∧
     t.me = { s.me with po := s.me.po + 1 } ∧ memSame s t) ∧
  (∀ (s : State) (z : LdTy) (zs : StSz) (w : Width) (e fl : Bool) (d : BitVec 6)
     (aa : BitVec 5) (am : Bool) (off : BitVec 18) (wn : Window) (rel : Nat) (l : Loc), s.inElided = false →
   let goes := fun (n : Nat) (acc : Acc) => (effAddr s aa am off n).toNat % n = 0 ∧
     window (effAddr s aa am off n) = some (wn, rel) ∧ s.target wn rel acc = .ok (.far l) ∧
     (acc ≠ .read → l.other = none → s.readsOpen = false)
   let asks := fun (i : Instr) (n : Nat) (op : MemOp) (dest : Dest) (t : State) => operand i s = some (effAddr s aa am off n, n) ∧
     bumpsA (request l op dest (effAddr s aa am off n) false s) aa am (postVal s aa off n) t
   (wn ≠ .fabric → goes (ldSize z) .read →
     completes (.ld z d aa am off) s (asks (.ld z d aa am off) (ldSize z) (.read (ldSize z)) (.sload d.toNat z))) ∧
   (wn ≠ .fabric → goes (stSize zs) .write → completes (.st zs d aa am off) s
     (asks (.st zs d aa am off) (stSize zs) (.write (toBytes (stSize zs) (rS s d).toNat)) .none)) ∧
   (goes (stSize zs) .write → completes (.rst zs d aa am off) s
     (asks (.rst zs d aa am off) (stSize zs) (.write (toBytes (stSize zs) (rS s d).toNat)) .none)) ∧
   (wn ≠ .fabric → goes (widthBits w / 8) .read → completes (.vld w d aa am off) s
     (asks (.vld w d aa am off) (widthBits w / 8) (.read (widthBits w / 8)) (.vload d.toNat w))) ∧
   (wn ≠ .fabric → goes (widthBits w / 8) .write → vectorSlot (.vst w d aa am off) s [d.toNat] 0 (fun st t =>
     ∃ r, marksOnly s [] st r ∧ bumpsA (request l (.write (toBytes (widthBits w / 8) (rV s d.toNat).toNat)) .none
       (effAddr s aa am off (widthBits w / 8)) false r) aa am (postVal s aa off (widthBits w / 8)) t)) ∧
   (goes (ldSize z) .read → completes (.rld z d aa am off) s (fun t => ∃ p, bumpsA (request l (.read (ldSize z))
     (.sload d.toNat z) (effAddr s aa am off (ldSize z)) true s) aa am (postVal s aa off (ldSize z)) p ∧ parks p t)) ∧
   (goes 128 .read → completes (.rldn d aa am off) s (fun t => ∃ p, bumpsA (request l (.read 128)
     (.vload d.toNat .w1024) (effAddr s aa am off 128) true s) aa am (postVal s aa off 128) p ∧ parks p t)) ∧
   (∀ k : Task, s.me.task = some k → goes (if fl then 4 else 8) .atomic → completes (.rred fl d aa am off) s (fun t =>
     ∃ u homes, (∀ m x o, l = .fabric m x o → (m, x) ∈ homes) ∧ (∀ h ∈ s.me.rredAt, h ∈ homes) ∧
       (l.other = none → homes = s.me.rredAt) ∧
       u = (request l (.rred fl (rS s d) k.lnch k.n s.me.rredSeg) .none (effAddr s aa am off (if fl then 4 else 8)) false
         (s.mod fun c => { c with rredAt := homes })).mod (fun c => { c with rredSeg := c.rredSeg + 1 }) ∧
       bumpsA u aa am (postVal s aa off (if fl then 4 else 8)) t)) ∧
   (∀ i n acc, (i, n, acc) ∈ [(Instr.st zs d aa am off, stSize zs, Acc.write), (.rst zs d aa am off, stSize zs, .write),
       (.vst w d aa am off, widthBits w / 8, .write), (.rred fl d aa am off, if fl then 4 else 8, .atomic)] →
     (wn = .fabric → i = .rst zs d aa am off ∨ i = .rred fl d aa am off) → (effAddr s aa am off n).toNat % n = 0 →
     window (effAddr s aa am off n) = some (wn, rel) → s.target wn rel acc = .ok (.far l) → l.other = none →
     s.readsOpen = true → exec i s = waitFor i s) ∧
   (let atom := fun (i : Instr) (op : AOp) (n : Nat) (y : Word) => goes n .atomic → completes i s (asks i n
       (.atom op n (BitVec.ofNat 64 ((rS s d).toNat % 2 ^ (8 * n))) (BitVec.ofNat 64 (y.toNat % 2 ^ (8 * n)))) (.old d.toNat))
    let n := if e then 8 else 4
    atom (.aadd e d aa am off) .add n 0 ∧ atom (.amin e d aa am off) .min n 0 ∧ atom (.amax e d aa am off) .max n 0 ∧
    atom (.aminn e d aa am off) .minn n 0 ∧ atom (.amaxn e d aa am off) .maxn n 0 ∧ atom (.aand e d aa am off) .and n 0 ∧
    atom (.aor e d aa am off) .or n 0 ∧ atom (.axor e d aa am off) .xor n 0 ∧ atom (.axchg e d aa am off) .xchg n 0 ∧
    atom (.acas e d aa am off) .cas n (rS s (d + 1)) ∧ atom (.afadd d aa am off) .fadd 4 0 ∧
    atom (.afmin d aa am off) .fmin 4 0 ∧ atom (.afmax d aa am off) .fmax 4 0)) ∧
  (∀ (s : State) (fl : Bool) (d : BitVec 6) (aa : BitVec 5) (am : Bool)
     (off : BitVec 18) (k : Nat) (t : Task), s.me.task = some t →
   let n := if fl then 4 else 8
   let tag := (s.myFn, t.lnch, t.n, s.me.rredSeg)
   let held := (s.pdie (s.cur / 64)).rtags
   openAt s (effAddr s aa am off n) n n k →
   (tag ∈ held → completes (.rred fl d aa am off) s (fun v =>
     bumpsA (s.mod fun c => { c with rredSeg := c.rredSeg + 1 }) aa am (postVal s aa off n) v)) ∧
   (tag ∉ held → held.length < 32768 → s.poisoned k n = false → completes (.rred fl d aa am off) s (fun v => ∃ u r q,
     sawRead s u ∧ r = u.modPdie (s.cur / 64) (fun p => { p with rtags := p.rtags ++ [tag] }) ∧
     stored r k (toBytes n (atomSays (if fl then .fadd else .add) n (ofBytes (s.bytes k n)) ((rS s d).toNat % 2 ^ (8 * n)) 0)) q ∧
     bumpsA (q.mod fun c => { c with rredSeg := c.rredSeg + 1 }) aa am (postVal s aa off n) v)))

/-- R185, R186, R188: a landing load reads memory at its place and opens its slot, due A cycles on; a slot at or above
lslots takes trap 0x06; a busy slot holds the form back with nothing changed; behind an open read the slot's data are late, and so
are those that come from SHARED and DEVICE of the own die, by a request; another die's DEVICE takes trap 0x06.
R182: the strided and indexed forms in LOCAL and PEER move every element: a load fills all 1,024 bits of vd, a store
applies its elements in increasing j; an element address that is not aligned takes trap 0x05 before anything is read or
written.
R184, R202: elements in SHARED and DEVICE leave as one request each, and elements behind an open read wait for theirs: the register of
a load keeps its value until the last has come; a store behind an open read waits.
Where the rules are open it rests on the model's choices in logs 20, 23 and 41. -/
def Obligations.LandingsAndLists : Prop :=
  (∀ (s : State) (z : LdTy) (w : Width) (n : BitVec 6) (aa : BitVec 5) (am : Bool)
     (cyc : BitVec 10) (k : Nat) (t : Task), s.me.task = some t → s.inElided = false →
   let form := fun (i : Instr) (dest : LandDest) (sz : Nat) =>
     let a := rA s aa.toNat
     (a.toNat % sz = 0 → t.lslots ≤ n.toNat → exec i s = .next (trap 0x06 0 a s)) ∧
     (a.toNat % sz = 0 → n.toNat < t.lslots → (look s.me.landings n.toNat).isSome → exec i s = waitFor i s) ∧
     (openAt s a sz sz k → n.toNat < t.lslots → look s.me.landings n.toNat = none → s.poisoned k sz = false →
       completes i s (fun v => ∃ u, sawRead s u ∧ bumpsA (u.mod fun c => { c with
           landings := put c.landings n.toNat ⟨dest, (s.pdie (s.cur / 64)).cycle + cyc.toNat,
             some (BitVec.ofNat 1024 (ofBytes (s.bytes k sz))), c.po, c.iss.pc, c.iss.slot⟩
           po := c.po + 1 }) aa am (a + BitVec.ofNat 64 sz) v)) ∧
     (behindAt s a sz sz k → n.toNat < t.lslots → look s.me.landings n.toNat = none → s.poisoned k sz = false →
       completes i s (fun v => ∃ u r, u = s.mod (fun c => { c with
           landings := put c.landings n.toNat
             ⟨dest, (s.pdie (s.cur / 64)).cycle + cyc.toNat, none, c.po, c.iss.pc, c.iss.slot⟩ }) ∧
         bumpsA u aa am (a + BitVec.ofNat 64 sz) r ∧ servedLate r (s.bytes k sz) (.land n.toNat) false v))
   let form := fun (i : Instr) (dest : LandDest) (sz : Nat) => form i dest sz ∧
     (let a := rA s aa.toNat
      ∀ w rel l, a.toNat % sz = 0 → window a = some (w, rel) → (w = .device ∨ (w = .shared ∧ rel / 2 ^ 26 = s.myVdie)) →
        s.target w rel .read = .ok (.far l) → n.toNat < t.lslots → look s.me.landings n.toNat = none →
        (l.home ≠ s.myVdie → exec i s = .next (trap 0x06 0 a s)) ∧
        (l.home = s.myVdie → completes i s (fun v => ∃ u, u = s.mod (fun c => { c with
            landings := put c.landings n.toNat
              ⟨dest, (s.pdie (s.cur / 64)).cycle + cyc.toNat, none, c.po, c.iss.pc, c.iss.slot⟩ }) ∧
          bumpsA (request l (.read sz) (.land n.toNat) a false u) aa am (a + BitVec.ofNat 64 sz) v)))
   form (.ldl z n aa am cyc) (.scalar n.toNat z) (ldSize z) ∧
   form (.vldl w n aa am cyc) (.vector (n.toNat % 32) w) (widthBits w / 8)) ∧
  (∀ (s : State) (e : StSz) (d : BitVec 6) (aa vi : BitVec 5) (str : BitVec 18),
   s.inElided = false → d.toNat < 32 →
   let n := stSize e
   let sA := fun (j : Nat) => rA s aa.toNat + BitVec.ofInt 64 (j * str.toInt * n)
   let xA := fun (j : Nat) => rA s aa.toNat + BitVec.ofNat 64 (elem (rV s vi.toNat) j (8 * n) * n)
   let ok := fun (A : Nat → Word) (K : Nat → Nat) => ∀ j < 128 / n, openAt s (A j) n n (K j)
   let clean := fun (K : Nat → Nat) => ∀ j < 128 / n, s.poisoned (K j) n = false
   let behind := fun (A : Nat → Word) => ∃ K : Nat → Nat, clean K ∧ ∀ j < 128 / n, behindAt s (A j) n n (K j)
   let away := fun (A : Nat → Word) (acc : Acc) => ∀ j < 128 / n, (A j).toNat % n = 0 ∧ ∃ w rel l, window (A j) = some (w, rel) ∧
     w ≠ .fabric ∧ s.targetNow w rel acc = .ok (.far l)
   let asks := fun (r t : State) => memSame s t ∧ t.me.regs = r.me.regs ∧
     (t.pdie (s.cur / 64)).sent.length = (s.pdie (s.cur / 64)).sent.length + 128 / n
   let opens := fun (r t : State) => asks r t ∧ ∃ x, look t.me.vparts d.toNat = some (x, 128 / n)
   let fills := fun (K : Nat → Nat) (r t : State) => ∃ u x, sawRead r u ∧
     (∀ j < 128 / n, elem x j (8 * n) = ofBytes (s.bytes (K j) n)) ∧ setsV u d.toNat x [] 0 t
   let puts := fun (K : Nat → Nat) (r t : State) => ∀ x, t.byte x =
     (List.range (128 / n)).foldl (fun b j => if K j ≤ x ∧ x < K j + n then
       BitVec.ofNat 8 (elem (rV s d.toNat) j (8 * n) / 256 ^ (x - K j)) else b) (r.byte x)
   ((away sA .read ∨ behind sA) → completes (.vlds e d aa str) s (opens s)) ∧
   ((away xA .read ∨ behind xA) → vectorSlot (.vldx e d aa vi) s [vi.toNat] 0 (fun st t => ∃ r, marksOnly s [] st r ∧ opens r t)) ∧
   (away sA .write → s.readsOpen = false → vectorSlot (.vsts e d aa str) s [d.toNat] 0 (fun st t => ∃ r, marksOnly s [] st r ∧ asks r t)) ∧
   (away xA .write → s.readsOpen = false → vectorSlot (.vstx e d aa vi) s [d.toNat, vi.toNat] 0
     (fun st t => ∃ r, marksOnly s [] st r ∧ asks r t)) ∧
   ((away sA .write ∨ behind sA) → s.readsOpen = true → exec (.vsts e d aa str) s = waitFor (.vsts e d aa str) s) ∧
   ((away xA .write ∨ behind xA) → s.readsOpen = true → exec (.vstx e d aa vi) s = waitFor (.vstx e d aa vi) s) ∧
   (∀ K, ok sA K → clean K → completes (.vlds e d aa str) s (fills K s)) ∧
   (∀ K, ok xA K → clean K → vectorSlot (.vldx e d aa vi) s [vi.toNat] 0 (fun st t => ∃ r, marksOnly s [] st r ∧ fills K r t)) ∧
   (∀ K, ok sA K → vectorSlot (.vsts e d aa str) s [d.toNat] 0 (fun st t => ∃ r, marksOnly s [] st r ∧ puts K r t ∧ t.me = r.me)) ∧
   (∀ K, ok xA K → vectorSlot (.vstx e d aa vi) s [d.toNat, vi.toNat] 0 (fun st t =>
     ∃ r, marksOnly s [] st r ∧ puts K r t ∧ t.me = r.me)) ∧
   (∀ j < 128 / n, (∀ i < j, (sA i).toNat % n = 0) → (sA j).toNat % n ≠ 0 →
     exec (.vlds e d aa str) s = .next (trap 0x05 0 (sA j) s) ∧ exec (.vsts e d aa str) s = .next (trap 0x05 0 (sA j) s)) ∧
   (∀ j < 128 / n, (∀ i < j, (xA i).toNat % n = 0) → (xA j).toNat % n ≠ 0 →
     exec (.vldx e d aa vi) s = .next (trap 0x05 0 (xA j) s) ∧ exec (.vstx e d aa vi) s = .next (trap 0x05 0 (xA j) s)))

/-! ### Matrix forms (08 R145 to R162) -/

/-- R152 to R156, R158, R266: a beat updates every cell of its rows from the A operand and the B element of each column, takes
an armed repeat and advances its registers, and holds the port for 192 / c cycles; an entry that does not suit it commits
nothing and sets rcd; a bad tile or B address, or a killed source under checking, traps with no cell changed; on an idle array
it stays at the port and asks for a start token.
R153, R158: each reissue of a repeat is a beat of the format fixed at its first issue, with A = st[j mod D] for issue j
and the bound and named registers as they stand then; it waits for results still to come and, on an array that has gone idle, for a
start token; nothing happens without a running repeat. A register that a later slot of the beat's own bundle writes while the beat
waits at the port keeps that slot's value (log 41).
Where the rules are open it rests on the model's choices in logs 7, 25 and 41.
The exact values of the floating results: FloatsRoundOnce. -/
def Obligations.MatrixBeats : Prop :=
  (∀ (s : State) (tern : Bool) (z : BitVec 2) (va : BitVec 5) (typ : MTyp) (aux : BitVec 23),
   let i : Instr := if tern then .mtern z va typ aux else .macc z va typ aux
   let e := curFmtX s
   let m := s.me.mat
   let s1 := portHeld s 1
   portOpen s = true → m.running = none →
   ((s.core (s.cur / 4)).cols = 0 → (s.pdie (s.cur / 64)).tokenHeld = false → noToken s (s.cur / 64) → completes i s (fun t => ∃ u req,
     u = (s1.modCore (s.cur / 4) (fun k => { k with tokenReq := some req })).modPdie (s.cur / 64) id ∧
     req = (s.core (s.cur / 4)).tokenReq.getD (s.pdie (s.cur / 64)).cycle ∧
     t = u.mod fun c => { c with port := (c.iss.slot, i) :: c.port, portIss := if c.port.isEmpty then c.iss else c.portIss })) ∧
   ((s.core (s.cur / 4)).cols ≠ 0 →
   (beatFmt tern typ e = none → z.toNat < myTiles s →
     (stRcd &&& atrapMask s = 0 → completes i s (fun t => t = raise stRcd s1)) ∧
     (stRcd &&& atrapMask s ≠ 0 → exec i s = .next (trap 0x0A 0 0 (raise stRcd s1)))) ∧
   (beatFmt tern typ e = none → myTiles s ≤ z.toNat → exec i s = .next (trap 0x06 0 0 s1)) ∧
   (∀ f, beatFmt tern typ e = some f →
     let arm := if s.me.iss.rept then none else m.armed
     let left := (arm.map (·.n)).getD 1
     let b := bAddr s aux.toNat
     let n := beatBytes f
     let y := fun col => ofBytes (s.bytes (keyBslice (s.cur / 4) col b) n)
     let A := aPlane s tern va.toNat 0
     let ns := if tern then span va.toNat 4 else if m.depth = 0 then [va.toNat] else []
     let planes := if tern then (span va.toNat 4).map (rV s) else [A 0]
     let st := withDead s ns (beatTile f (fFtz e) m z.toNat planes ((List.range 192).map y)).2
     let s2 := portHeld s (beatHold s (s.cur / 4))
     let clean := ∀ col < 192, s.poisoned (keyBslice (s.cur / 4) col b) n = false
     let traps := fun (code detail : BitVec 8) => ∃ q : Matrix, q.tiles = m.tiles ∧ exec i s = .next (trap code detail 0 (withMat s2 q))
     (b % n ≠ 0 → traps 0x05 0) ∧
     (b % n = 0 → (myTiles s ≤ z.toNat ∨ 131072 < b + n) → traps 0x06 0) ∧
     (z.toNat < myTiles s → b % n = 0 → b + n ≤ 131072 →
       (ns.any (isDead s) = true → s.checking = true → traps 0x08 0) ∧
       ((ns.any (isDead s) && s.checking) = false → ¬ clean → traps 0x10 4) ∧
       (clean → (ns.any (isDead s) && s.checking) = false → st &&& atrapMask s ≠ 0 →
         ∃ q : Matrix, q.tiles = m.tiles ∧ exec i s = .next (trap 0x0A 0 0 (raise st (withMat s2 q)))) ∧
       (clean → (ns.any (isDead s) && s.checking) = false →
         st &&& atrapMask s = 0 → completes i s (fun t => ∃ (q : Matrix) (ra : PMap Word),
           beatSays f (fFtz e) z.toNat A y m q ∧
           q = { m with tiles := q.tiles, running := q.running, armed := if arm.isSome then none else m.armed } ∧
           q.running.map (fun r => (r.made, r.left)) = (if 1 < left then some (1, left - 1) else none) ∧
           (∀ k, rd 0 ra k = rd 0 s.me.regs.a k + BitVec.ofNat 64 (match arm with
             | some a => if s.me.iss.atPort && s.me.iss.aw.any (fun p => decide (s.me.iss.slot < p.1) && decide (p.2 = k)) then 0
               else (if a.x = some k then 64 * 2 ^ a.g.toNat else 0) + (if a.y = some k then 64 * 2 ^ a.g.toNat else 0)
             | none => 0)) ∧
           t = (s2.mod fun c => { c with
             mat := q
             regs := { c.regs with a := ra }
             astat := c.astat ||| st.setWidth 64
             iss := { c.iss with raised := c.iss.raised ||| st } }).modCore (s.cur / 4)
               fun c => { c with lastBeat := (s.pdie (s.cur / 64)).cycle })))))) ∧
  (∀ (s : State) (cx : Nat),
   ((s.ctx cx).mat.running = none → completes (.repeatReissue cx) s (fun t => t = s)) ∧
   (∀ r f, (s.ctx cx).mat.running = some r → beatFmt r.tern r.typ r.entry = some f → (s.ctx cx).mode ≠ .halted →
     (s.ctx cx).mode ≠ .free → haltOverdueAt s cx = false → r.made ≠ 0 →
     let c := s.ctx cx
     let now := (s.pdie (cx / 64)).cycle
     let s' := { s.setCtx cx { c with iss := { c.iss with view := c.regs } } with cur := cx }
     let ks := beatKeys r.tern r.va (c.mat.depth, c.mat.bBind)
     let b := bAddr s' r.aux
     let n := beatBytes f
     let y := fun col => ofBytes (s.bytes (keyBslice (cx / 4) col b) n)
     let A := aPlane s' r.tern r.va r.made
     let ns := if r.tern then span r.va 4 else if c.mat.depth = 0 then [r.va] else []
     let planes := if r.tern then (span r.va 4).map (rV s') else [A 0]
     let st := withDead s' ns (beatTile f (fFtz r.entry) c.mat r.z planes ((List.range 192).map y)).2
     c.regPoison = [] →
     ((∃ k ∈ ks, k ∈ openKeys s') → completes (.repeatReissue cx) s (fun t => t = s)) ∧
     ((∀ k ∈ ks, k ∉ openKeys s') → s'.checking = true → Nat.max (s.core (cx / 4)).portAt now < availAt c ks →
       let u := trapAt cx r.pc (slotBit r.slot) 0x07 0 0 (s.nextPc cx) s'
       exec (.repeatReissue cx) s = .next { u.setCtx cx { u.ctx cx with iss := { (u.ctx cx).iss with view := c.iss.view } } with
         cur := s.cur }) ∧
     ((∀ k ∈ ks, k ∉ openKeys s') → lateAt c ks ≤ now → c.landings = [] → (s.core (cx / 4)).portAt ≤ now →
      (s.core (cx / 4)).cols = 0 → (s.pdie (cx / 64)).tokenHeld = false → noToken s (cx / 64) →
      completes (.repeatReissue cx) s (fun t => t = ((s.setCtx cx c).modCore (cx / 4) fun k =>
        { k with tokenReq := some (k.tokenReq.getD now) }).modPdie (cx / 64) id)) ∧
     ((∀ k ∈ ks, k ∉ openKeys s') → lateAt c ks ≤ now → c.landings = [] → (s.core (cx / 4)).portAt ≤ now →
      (s.core (cx / 4)).cols ≠ 0 →
      r.z < myTiles s' → b % n = 0 → b + n ≤ 131072 → (∀ col < 192, s.poisoned (keyBslice (cx / 4) col b) n = false) →
      ns.any (isDead s') = false → st &&& atrapMask s' = 0 →
      completes (.repeatReissue cx) s (fun t => ∃ (q : Matrix) (ra : PMap Word),
       beatSays f (fFtz r.entry) r.z A y c.mat q ∧
       q = { c.mat with tiles := q.tiles, running := if r.left ≤ 1 then none else some { r with made := r.made + 1, left := r.left - 1 } } ∧
       (∀ k, rd 0 ra k = rd 0 c.regs.a k + BitVec.ofNat 64
         ((if r.x = some k then 64 * 2 ^ r.g.toNat else 0) + (if r.y = some k then 64 * 2 ^ r.g.toNat else 0))) ∧
       t = (s.setCtx cx { c with
         mat := q
         regs := { c.regs with a := ra }
         astat := c.astat ||| st.setWidth 64
         iss := { c.iss with raised := c.iss.raised ||| st } }).modCore (cx / 4)
           fun k => { k with lastBeat := now, portAt := now + beatHold s (cx / 4) }))))

/-- R146, R148, R157 to R160, R162: a matrix form whose turn of the port has not come waits there, with what its bundle reads; an
FMTLD reads memory at its place all the same, and an MDRAIN.q keeps the handle, the result area and the count of its issue;
one that takes the port holds it for a cycle, a tile at or above zacc takes trap 0x06, and the forms that are no beat discard
an armed repeat and do what their rule says, and nothing else.
R161: MDRAIN converts a row under the entry in force and writes whole main-file rows, zero after the last element, there 8
cycles on; rows past the window take trap 0x06 and nothing is written. MDRAIN.q puts the bytes into the drain queue as one
entry, and stays at the port while its slots are short. VRDZ and the drains see the tiles as they stood before their bundle.
Where the rules are open it rests on the model's choices in log 25.
The exact values of the floating results: FloatsRoundOnce. -/
def Obligations.MatrixForms : Prop :=
  (∀ (s : State) (z : BitVec 2) (va aa d : BitVec 5) (n l : BitVec 2) (row : BitVec 7)
     (blk : BitVec 3) (base k : BitVec 4) (x y : BitVec 6) (g : BitVec 2) (cnt : BitVec 12),
   let m := s.me.mat
   let q := { m with armed := none }
   let s1 := withMat (portHeld s 1) q
   let waits := fun (i : Instr) (ws : List Word) (n : Nat) (c : Ctx) => ({ c with
     port := c.port ++ [(c.iss.slot, i)], portIss := if c.port.isEmpty then c.iss else c.portIss,
     portKeep := put c.portKeep c.iss.slot ws, colCount := c.colCount + n } : Ctx)
   (∀ i, isMatrix i = true → (∀ a b, i ≠ .fmtld a b) → (∀ a b c, i ≠ .mdrainQ a b c) → portOpen s = false →
     completes i s (fun t => t = s.mod fun c => { c with
       port := c.port ++ [(c.iss.slot, i)], portIss := if c.port.isEmpty then c.iss else c.portIss })) ∧
   (∀ ty, portOpen s = false → completes (.mdrainQ z ty row) s (fun t => t = s.mod fun c => waits (.mdrainQ z ty row)
     [rd 0 c.shadow 48, rd 0 c.shadow 50, BitVec.ofNat 64 c.colCount] 1 c)) ∧
   (∀ rel, s.inElided = false → s.me.iss.atPort = false → window (rA s aa.toNat) = some (.local_, rel) → rel % 8 = 0 →
     s.barred (keyScratch (s.cur / 4) rel) 8 = false → s.poisoned (keyScratch (s.cur / 4) rel) 8 = false →
     let e : Word := BitVec.ofNat 64 (ofBytes (s.bytes (keyScratch (s.cur / 4) rel) 8))
     (portOpen s = false → completes (.fmtld aa k) s (fun t => ∃ u, sawRead s u ∧ t = u.mod (waits (.fmtld aa k) [e] 0))) ∧
     (portOpen s = true → fValid e = true → completes (.fmtld aa k) s (fun t => ∃ u ft, sawRead s u ∧
       t = withMat (portHeld u 1) { q with ft := ft } ∧ ∀ j, rd 0x2011 ft j = if j = k.toNat then e else rd 0x2011 m.ft j)) ∧
     (portOpen s = true → fValid e = false → stRcd &&& atrapMask s = 0 → completes (.fmtld aa k) s (fun t => ∃ u, sawRead s u ∧
       t = raise stRcd (withMat (portHeld u 1) q))) ∧
     (portOpen s = true → fValid e = false → stRcd &&& atrapMask s ≠ 0 → ∃ u, sawRead s u ∧
       exec (.fmtld aa k) s = .next (trap 0x0A 0 0 (raise stRcd (withMat (portHeld u 1) q))))) ∧
   (∀ e, s.me.iss.atPort = true → look s.me.portKeep s.me.iss.slot = some [e] → fValid e = true →
     completes (.fmtld aa k) s (fun t => ∃ ft, t = withMat s1 { q with ft := ft } ∧
       ∀ j, rd 0x2011 ft j = if j = k.toNat then e else rd 0x2011 m.ft j)) ∧
   (portOpen s = true →
     (myTiles s ≤ z.toNat → ∀ i ∈ [Instr.mclr z, .vrdz z d blk row], exec i s = .next (trap 0x06 0 0 (portHeld s 1))) ∧
     slotOut (exec (.mpush va) s) s1 [va.toNat] 0 (fun st t => ∃ r, marksOnly s1 [] st r ∧ ∃ p : Matrix,
       t = withMat r p ∧ p = { q with stage := p.stage, depth := if m.depth < 4 then m.depth + 1 else m.depth } ∧
       ∀ j < 4, stageAt p j =
         if m.depth < 4 then (if j = m.depth then rV s va.toNat else stageAt m j)
         else if j = 3 then rV s va.toNat else stageAt m (j + 1)) ∧
     completes (.mshift n) s (fun t => ∃ p : Matrix, t = withMat s1 p ∧ p = { q with stage := p.stage, depth := m.depth - n.toNat } ∧
       ∀ j, j + n.toNat < m.depth → look p.stage j = look m.stage (j + n.toNat)) ∧
     (z.toNat < myTiles s → completes (.mclr z) s (fun t => ∃ p : Matrix, t = withMat s1 p ∧ p = { q with tiles := p.tiles } ∧
       (∀ i < 128, ∀ col < 192, tileCell p z.toNat i col = 0) ∧
       ∀ r, (∀ i < 128, r ≠ 128 * z.toNat + i) → look p.tiles r = look m.tiles r)) ∧
     completes (.mbsel aa) s (fun t => t = withMat s1 { q with bBind := some aa.toNat }) ∧
     (z.toNat < myTiles s → completes (.vrdz z d blk row) s (fun t => ∃ u v, readyIn s1 [keyV d.toNat] 6 u ∧
       setsV u d.toNat v [] 0 t ∧
       ∀ j < 32, elem v j 32 = tileCell { m with tiles := s.me.iss.tiles } z.toNat row.toNat (32 * blk.toNat + j) % 2 ^ 32)) ∧
     completes (.fmtsel base l) s (fun t => t = withMat s1 { q with bind := some (l.toNat, base.toNat) } ∧
       fmtIdx t = ((lcReg s l.toNat).toNat + base.toNat) % 16) ∧
     completes (.fmtrd d k) s (fun t => ∃ u, readyIn s1 (if d = 0 then [] else [keyS d.toNat]) 2 u ∧
       setsS u (d.setWidth 6) (rd 0x2011 s.me.iss.ft k.toNat) t) ∧
     (let reg := fun (r : BitVec 6) => if r = 63 then none else some r.toNat
      completes (.rept x y g cnt) s (fun t => t = (portHeld s 1).mod fun c => { c with
       mat := { c.mat with armed := some ⟨cnt.toNat + 1, reg x, reg y, g⟩ }
       iss := { c.iss with rept := true } })))) ∧
  (∀ (s : State) (z : BitVec 2) (aa : BitVec 5) (typ : MTyp) (row : BitVec 7),
   portOpen s = true →
   let m := s.me.mat
   let s0 := portHeld s 1
   let s1 := withMat s0 { m with armed := none }
   let e := curFmtX s
   let dt := drainTy typ e
   let w := dt.bits / 8
   let rows := (192 * w + 127) / 128
   let first := (rA s aa.toNat).toNat
   let out := fun col => drainEl e dt (tileCell { m with tiles := s.me.iss.tiles } z.toNat row.toNat col)
   let st := (List.range 192).foldl (fun a col => a ||| (out col).2) 0
   (myTiles s ≤ z.toNat → exec (.mdrain z aa typ row) s = .next (trap 0x06 0 0 s0) ∧
     exec (.mdrainQ z typ row) s = .next (trap 0x06 0 0 s0)) ∧
   (z.toNat < myTiles s →
   (myRows s < first + rows → exec (.mdrain z aa typ row) s = .next (trap 0x06 0 0 s1)) ∧
   (first + rows ≤ myRows s → slotOut (exec (.mdrain z aa typ row) s) s1 [] st (fun st t => ∃ u p, marksOnly s1 [] st u ∧
     readyIn (withMat u { u.me.mat with main := p }) ((span first rows).map keyM) 8 t ∧
     (∀ r < rows, ∀ j < 128, elem (mRow t (first + r)) j 8 =
       if 128 * r + j < 192 * w then (out ((128 * r + j) / w)).1 / 256 ^ ((128 * r + j) % w) % 256 else 0) ∧
     (∀ n, (n < first ∨ first + rows ≤ n) → mRow t n = mRow s n))) ∧
   (let queue := (s.core (s.cur / 4)).drainQ
    let need := if dt = .i64 then 2 else 1
    let kept := if s.me.iss.atPort then look s.me.portKeep s.me.iss.slot else none
    let ws := kept.getD [rd 0 s.me.shadow 48, rd 0 s.me.shadow 50, BitVec.ofNat 64 s.me.colCount]
    let more := if kept.isSome then 0 else 1
    (64 < queueUsed queue + need → completes (.mdrainQ z typ row) s (fun t => t = s0.mod fun c => { c with
      port := (c.iss.slot, .mdrainQ z typ row) :: c.port, portIss := if c.port.isEmpty then c.iss else c.portIss,
      portKeep := put c.portKeep c.iss.slot ws, colCount := c.colCount + more })) ∧
    (queueUsed queue + need ≤ 64 → slotOut (exec (.mdrainQ z typ row) s) s1 [] st (fun st t => ∃ u x, marksOnly s1 [] st u ∧
     (let v := u.modCore (s.cur / 4) fun k => { k with drainQ := queue ++ [x], drainNo := k.drainNo + 1 }
      t = if kept.isSome then v else v.mod fun c => { c with colCount := c.colCount + 1 }) ∧
     x.fn = s.myFn ∧ x.cx = s.cur ∧ x.serial = s.me.serial ∧ x.handle = (ws.getD 0 0).setWidth 32 ∧
     x.dst = ws.getD 1 0 ∧ x.q = (ws.getD 2 0).toNat ∧ x.no = (s.core (s.cur / 4)).drainNo ∧
     x.data = (List.range 192).flatMap fun col => toBytes w (out col).1)))))

/-! ### Synchronisation (11 R203, 12 R231 to R240) -/

/-- R203, R235, R236: a FENCE covers the open accesses of its scope and set; when all of them, and from module scope on
all writes of its set that the die's clock names, are complete, sd takes 0 or the number of failed modules, and the failure
map goes to rows F and F + 1 and clears; rows past the window take trap 0x0D, for which the FENCE itself waits.
R116, R231, R240: BLK holds the banks of its mask for n bundles and 128 cycles, and waits for banks held by another
context of the core; EVSIG counts up to 65,535 and waits for open reads (R202), EVWAIT counts down and waits while the counter
has no more than those ahead of it; holds and yield windows end in time.
Where the rules are open it rests on the model's choices in logs 23 and 29. -/
def Obligations.FencesAndHolds : Prop :=
  (∀ (s : State) (d a : BitVec 6) (sc : Scope) (set : BitVec 6) (cx : Nat),
   (s.inElided = false → s.me.waitKey = none → ∃ f : Fence,
     (let u := s.mod fun c => { c with fences := c.fences ++ [f] }
      ((set.getLsbD 4 = true → (rS s a).toNat + 2 ≤ myRows s) → completes (.fence d a sc set) s (fun t => t = u)) ∧
      (set.getLsbD 4 = true → myRows s < (rS s a).toNat + 2 →
        exec (.fence d a sc set) s = waitFor (.fence d a sc set) (u.mod fun c => { c with waitKey := some 0 }))) ∧
     f.d = d ∧ f.set = set ∧ f.scope = sc ∧ f.row = rS s a ∧
     (∀ q ∈ (s.pdie (s.cur / 64)).sent, inScope s sc q.req = true → set.getLsbD (setBit q.req) = true →
       fenceDone sc q = false → q.req.key ∈ f.cover) ∧
     (∀ w ∈ (s.pdie (s.cur / 64)).walks, inScope s sc w.req = true → set.getLsbD (setBit w.req) = true → w.req.key ∈ f.cover) ∧
     (sc = .module ∨ sc = .fabric → f.clk = (s.vdie s.myVdie).clock)) ∧
   (∀ f : Fence, fenceOver s cx f = true → (∀ q ∈ (s.pdie (cx / 64)).sent, q.req.key ∈ f.cover → fenceDone f.scope q = true) ∧
     (∀ w ∈ (s.pdie (cx / 64)).walks, w.req.key ∉ f.cover) ∧
     (f.scope = .module ∨ f.scope = .fabric → ∀ p ∈ s.pdies, (∀ w ∈ p.2.walks, f.catches w.req = false) ∧
       ∀ q ∈ p.2.sent, f.catches q.req = true → fenceDone f.scope q = true) ∧
     (∀ m ∈ (s.pdie (cx / 64)).moves, m.no ∉ f.moves)) ∧
   (let c := s.ctx cx
    c.task.isSome → c.mode ≠ .halted → c.region = .none →
    ((∀ f ∈ c.fences, fenceOver s cx f = false) → completes (.fenceComplete cx) s (fun t => t = s)) ∧
    (∀ f t0, c.fences.find? (fenceOver s cx) = some f → c.task = some t0 →
     let n := ((List.range 2048).filter c.failMap.getLsbD).length
     let ends := fun (t : State) (x : Word) (fm : BitVec 2048) (rows : PMap VReg → Prop) => ∃ m mn, putsS s cx f.d x m ∧ rows mn ∧
       t = s.setCtx cx { c with
         fences := c.fences.erase f
         regs := { c.regs with s := m }
         mat := { c.mat with main := mn }
         failMap := fm }
     ((f.set.getLsbD 4 = false ∨ n = 0) → completes (.fenceComplete cx) s (fun t => ends t 0 c.failMap (fun mn => mn = c.mat.main))) ∧
     (f.set.getLsbD 4 = true → 0 < n → f.row.toNat + 2 ≤ t0.mwin → completes (.fenceComplete cx) s (fun t =>
       ends t (BitVec.ofNat 64 n) 0 (fun mn => ∀ r, look mn r = if r = f.row.toNat then some (c.failMap.extractLsb' 0 1024)
         else if r = f.row.toNat + 1 then some (c.failMap.extractLsb' 1024 1024) else look c.mat.main r))) ∧
     (f.set.getLsbD 4 = true → 0 < n → t0.mwin < f.row.toNat + 2 → ∃ u, u = s.setCtx cx { c with fences := c.fences.erase f } ∧
       exec (.fenceComplete cx) s = .next (trapAt cx f.pc (slotBit f.slot) 0x0D 0 0 (u.nextPc cx) u))))) ∧
  (∀ (s : State) (a n e : BitVec 6) (cx : Nat),
   let key := 64 * (16 * s.myVdie + s.myCore) + e.toNat
   let ev := fun (t : State) (f k : Nat) => (rd 0 (t.fn f).events k).toNat
   (s.inElided = false →
     (heldByOther s (rS s a) → exec (.blk a n) s = waitFor (.blk a n) s) ∧
     (¬ heldByOther s (rS s a) → completes (.blk a n) s (fun t => t = s.mod fun c => { c with
       hold := some ⟨rS s a, n.toNat, (s.pdie (s.cur / 64)).cycle + 128⟩
       iss := { c.iss with blk := true } })) ∧
     (s.readsOpen = true → exec (.evsig e) s = waitFor (.evsig e) s) ∧
     (s.readsOpen = false → completes (.evsig e) s (fun t => ev t s.myFn key = min (ev s s.myFn key + 1) 65535 ∧
       (∀ f k, (f ≠ s.myFn ∨ k ≠ key) → ev t f k = ev s f k) ∧ memSame s t ∧
       (∀ j, ∃ w, t.ctx j = { s.ctx j with waitKey := w }))) ∧
     (let since := s.me.waitKey.getD (s.pdie (s.cur / 64)).cycle
      let ahead := waitersBefore s e since
      ((∀ j < 4, waitsSince s e (s.ctx (s.cur / 4 * 4 + j)) = none) → ahead = 0) ∧
      (ev s s.myFn key ≤ ahead → exec (.evwait e) s = waitFor (.evwait e) (s.mod fun c => { c with waitKey := some since })) ∧
      (ahead < ev s s.myFn key → completes (.evwait e) s (fun t => ev t s.myFn key = ev s s.myFn key - 1 ∧
       (∀ f k, (f ≠ s.myFn ∨ k ≠ key) → ev t f k = ev s f k) ∧
       t = { s.mod (fun c => { c with waitKey := none }) with fns := t.fns })))) ∧
   ((s.ctx cx).hold = none → completes (.blkHoldExpire cx) s (fun t => t = s)) ∧
   (∀ h, (s.ctx cx).hold = some h → completes (.blkHoldExpire cx) s (fun t => ∃ u, later s u ∧
     h.until_ < (u.pdie (cx / 64)).cycle ∧ t = u.setCtx cx { u.ctx cx with hold := none })) ∧
   ((s.ctx cx).yieldUntil = 0 → completes (.yieldWindowEnd cx) s (fun t => t = s)) ∧
   ((s.ctx cx).yieldUntil ≠ 0 → completes (.yieldWindowEnd cx) s (fun t => ∃ u, later s u ∧
     (s.ctx cx).yieldUntil ≤ (u.pdie (cx / 64)).cycle ∧ t = u.setCtx cx { u.ctx cx with yieldUntil := 0 })))

/-- R232 to R234: XBEGIN takes the region lock, or opens an elided region with its registers saved; XEND applies an elided
region's buffered stores, or releases the lock; an abort restores the registers, stores nothing and resumes behind
XBEGIN with 0x100 | cause in sd. XBEGIN and the release of the lock wait for open reads (R202).
R237 to R239: BARP and BARA step the barrier word and record its address and phase; BARW waits until the phase has
changed, gives it with LOVF, and clears the record; a waiting BARW at a home is answered once the phase differs.
Where the rules are open it rests on the model's choices in logs 28 and 39. -/
def Obligations.RegionsAndBarriers : Prop :=
  (∀ (s : State) (d c : BitVec 6) (cx : Nat) (cause : BitVec 8),
   let lock := look (s.vdie s.myVdie).locks s.myFn
   (s.me.region = .locked → completes (.xbegin d) s (setsS s d 1)) ∧
   (s.me.region = .none → (lock.isSome ∨ s.readsOpen = true) → exec (.xbegin d) s = waitFor (.xbegin d) s) ∧
   (s.me.region = .none → lock = none → s.readsOpen = false → (s.myFlag 26 = true ∨ 4 ≤ s.me.aborts) → completes (.xbegin d) s (fun t =>
     t.me.region = .locked ∧ look (t.vdie s.myVdie).locks s.myFn = some s.cur ∧ sReg t d = (if d = 0 then 0 else 1) ∧
     (∀ n, n ≠ d → sReg t n = sReg s n) ∧ memSame s t)) ∧
   (s.me.region = .none → lock = none → s.readsOpen = false → s.myFlag 26 = false → s.me.aborts < 4 → completes (.xbegin d) s (fun t =>
     let e : Elided := { s := s.me.regs.s, a := s.me.regs.a, p := s.me.regs.p, dest := d.toNat, resume := s.me.iss.pc + 16 }
     setsS (s.mod fun k => { k with region := .elided e }) d 0 t)) ∧
   (s.me.region = .none → completes .xend s (fun t => t = s) ∧ completes (.xabort c) s (fun t => t = s)) ∧
   (s.me.region = .locked → s.readsOpen = true → ∀ i ∈ [Instr.xend, .xabort c], exec i s = waitFor i s) ∧
   (s.me.region = .locked → s.readsOpen = false → ∀ t0, s.me.task = some t0 → ∀ i ∈ [Instr.xend, .xabort c], completes i s (fun t =>
     t.me = { s.me with region := .none } ∧ memSame s t ∧
     (look (s.vdie t0.vdie).locks t0.fn = some s.cur → look (t.vdie t0.vdie).locks t0.fn = none))) ∧
   (∀ e, s.me.region = .elided e →
     (completes (.xbegin d) s (fun t => (∃ k, t = s.setCtx s.cur k ∧ regionGone s.me e 0x03 k))) ∧
     completes (.xabort c) s (fun t => (∃ k, t = s.setCtx s.cur k ∧ regionGone s.me e (0x40#8 + c.setWidth 8) k)) ∧
     (rising e.stores = true → (s.quiet = true ∨ ∀ k ∈ e.stores.map Prod.fst, keyKind k = 1) →
       (∀ k ∈ e.stores.map Prod.fst, s.barred k 1 = false) → completes .xend s (fun t =>
         (∀ x, t.byte x = (look e.stores x).getD (s.byte x)) ∧ t.me = { s.me with region := .none, aborts := 0 } ∧ othersAbort s t))) ∧
   (1 ≤ cause.toNat → cause.toNat ≤ 5 → ∀ e, (s.ctx cx).region = .elided e → completes (.elidedRegionAbort cx cause) s (fun t =>
     (∃ k, t = s.setCtx cx k ∧ regionGone (s.ctx cx) e cause k)))) ∧
  (∀ (s : State) (src aa d : BitVec 6) (k die j : Nat), 
   let a := rA s aa.toNat
   let phase := (wordAt s k 1).extractLsb' 48 16
   (openAt s a 16 16 k →
     (s.poisoned k 16 = false → ∀ post : Bool, completes (if post then .barp src aa else .bara src aa) s (fun t => ∃ u v, sawRead s u ∧
       (let w := barSays post (rS s src).toNat (wordAt s k 0) (wordAt s k 1)
        stored u k (toBytes 8 w.1.toNat ++ toBytes 8 w.2.toNat) v) ∧
       t = v.mod fun c => { c with barRec := some (a, phase) })) ∧
     (openStep s = true → exec (.barw d aa) s = waitFor (.barw d aa) s) ∧
     (openStep s = false → s.poisoned k 16 = true → exec (.barw d aa) s = .next (trap 0x10 (BitVec.ofNat 8 (keyKind k)) a s)) ∧
     (openStep s = false → s.poisoned k 16 = false → (∀ p, s.me.barRec ≠ some (a, p)) → s.me.waitKey = none → ∃ u, sawRead s u ∧
       exec (.barw d aa) s = waitFor (.barw d aa) (u.mod fun c => { c with waitKey := some phase.toNat })) ∧
     (openStep s = false → s.poisoned k 16 = false → ∀ p, s.me.barRec = some (a, p) →
       (p ≠ phase → completes (.barw d aa) s (fun t => ∃ u v, sawRead s u ∧
         setsS u d ((if (wordAt s k 0).getLsbD 62 then 0x10000 else 0) ||| phase.setWidth 64) v ∧
         t = v.mod fun c => { c with barRec := none, waitKey := none })) ∧
       (p = phase → ∃ u, sawRead s u ∧ exec (.barw d aa) s = waitFor (.barw d aa) u))) ∧
   (behindAt s a 16 16 k → exec (.barp src aa) s = waitFor (.barp src aa) s ∧ exec (.bara src aa) s = waitFor (.bara src aa) s ∧
     exec (.barw d aa) s = waitFor (.barw d aa) s) ∧
   (s.inElided = false → a.toNat % 16 = 0 → ∀ rel l, window a = some (.shared, rel) → s.target .shared rel .atomic = .ok (.far l) →
     (openStep s = false → s.me.waitKey = none → exec (.barw d aa) s = waitFor (.barw d aa) ((request l
       (.barw (s.me.barRec.bind fun p => if p.1 = a then some p.2 else none)) (.barW d.toNat) a false s).mod
         fun c => { c with waitKey := some s.me.po })) ∧
     (s.readsOpen = true → exec (.barp src aa) s = waitFor (.barp src aa) s ∧ exec (.bara src aa) s = waitFor (.bara src aa) s) ∧
     (s.readsOpen = false →
     ∀ post : Bool, completes (if post then .barp src aa else .bara src aa) s (fun t => t = request l
       (if post then .barp (rS s src) else .bara (rS s src)) (.barRec a) a false s))) ∧
   (∀ r ph, (s.pdie die).barWaits[j]? = some (r, ph) →
     let key := s.locKey r.loc
     let u := s.touch (r.agent s) key 16 false
     ((wordAt s key 1).extractLsb' 48 16 = ph → completes (.barwComplete die j) s (fun t => t = u)) ∧
     ((wordAt s key 1).extractLsb' 48 16 ≠ ph → completes (.barwComplete die j) s (fun t => t = answer die (s.pdie die).pend.length r
       { replyTo r (s.bytes key 16) (s.stampOf key 16) 0 0 0 with cover := s.frontier r.loc.home }
       (u.modPdie die fun p => { p with barWaits := p.barWaits.eraseIdx j })))))

/-! ### Homes, replies and links (10 R177 to R193, 11 R196 to R198, 18 R307 to R321) -/

/-- R318, R319, R320, R346: a request at its home waits there to be applied or served; one that writes takes a reply-cache
entry first, and waits for one while the cache is full; a further copy is counted, never applied, and answered from the
entry; one whose home lies elsewhere goes on there, and a copy of another module that is too old is dropped.
R197, R199, R223 to R230, R238, R192: a pending write, atomic, reduction or barrier step takes effect at its home once the
frontiers admit its stamp and no request before it at its bank can, in one step, and its reply leaves; until then nothing
happens; poison is answered with 0x10 and changes nothing. A barrier word carries the clocks of all its steps.
Where the rules are open it rests on the model's choices in logs 10, 21 and 23. -/
def Obligations.HomesTakeAndApply : Prop :=
  (∀ (s : State) (die k : Nat) (m : Msg) (r : Req),
   (s.pdie die).inbox[k]? = some m → m.body = .req r →
   let foreign := r.srcMod ≠ s.hub.modid.toNat
   let old := foreign ∧ m.born + 8192 < s.cycleG
   let u := s.modPdie die fun p => { p with inbox := p.inbox.eraseIdx k }
   let known := (s.pdie die).cache.find? (entryOf r.srcMod r.srcDie r.tag)
   let here := ¬ old ∧ s.phys r.loc.home = die ∧
     (foreign → s.granted r.fn (homeLoc r.loc) r.op.size = true ∧ (s.fn r.fn).resetting = false)
   let i : Instr := .requestArriveHome die k
   (old → completes i s (fun t => t = u)) ∧
   (¬ old → s.phys r.loc.home ≠ die → completes i s (fun t => t = route die { m with dst := s.phys r.loc.home } u)) ∧
   (¬ old → s.phys r.loc.home = die → foreign →
     (s.granted r.fn (homeLoc r.loc) r.op.size = false ∨ (s.fn r.fn).resetting = true) → completes i s (fun t => t = u)) ∧
   (here → r.op.writes = false → completes i s (fun t => t = pending die m.born r u)) ∧
   (here → r.op.writes = true → known = none →
     (4096 ≤ (s.pdie die).cache.length → completes i s (fun t => t = s)) ∧
     ((s.pdie die).cache.length < 4096 → completes i s (fun t => t = pending die m.born r (u.modPdie die fun p =>
       { p with cache := p.cache ++ [⟨r.srcMod, r.srcDie, r.tag, r.fn, 1, none, s.cycleG, decide foreign⟩] })))) ∧
   (here → r.op.writes = true → ∀ e, known = some e → completes i s (fun t => memSame s t ∧
     (t.pdie die).pend = (s.pdie die).pend ∧
     (∀ c ∈ (t.pdie die).cache, entryOf r.srcMod r.srcDie r.tag c = true → c.copies = e.copies + 1) ∧
     (∀ rep, e.reply = some rep → ∃ v, memSame s v ∧ t = sendReply die { rep with copies := e.copies + 1 } v))) ∧
   (¬ foreign → ((pending die m.born r u).pdie die).pend = (s.pdie die).pend ++ [{ r with arr := s.homeCycle die, born := m.born }] ∧
     memSame s (pending die m.born r u))) ∧
  (∀ (s : State) (die k : Nat) (r : Req), (s.pdie die).pend[k]? = some r → r.op.writes = true →
   let key := s.locKey r.loc
   let n := r.op.size
   let old := s.bytes key n
   let seen := s.stampOf key n
   let i : Instr := .writeApply die k
   let puts := fun (bs : List Byte) => s.store (r.agent s) key bs r.clk
   let ends := fun (data : List Byte) (st : Status) (u : State) => completes i s (fun t => t = answer die k r (replyTo r data seen st 0 0) u)
   let fails := completes i s (fun t => t = answer die k r (replyTo r [] [] 0 0x10 (BitVec.ofNat 8 (keyKind key))) s)
   (s.aged r = true → completes i s (fun t => memSame s t ∧ (t.pdie die).pend = (s.pdie die).pend.eraseIdx k ∧
     (t.pdie die).cache = (s.pdie die).cache)) ∧
   (s.aged r = false → (s.mayApply r = false ∨ s.bankTurn die r = false) → completes i s (fun t => t = s)) ∧
   (s.aged r = false → s.mayApply r = true → s.bankTurn die r = true →
     (∀ bs, r.op = .write bs → ends [] 0 (puts bs)) ∧
     (∀ op m x y, r.op = .atom op m x y → (s.poisoned key m = true → fails) ∧
       (s.poisoned key m = false → x.toNat < 2 ^ (8 * m) → y.toNat < 2 ^ (8 * m) → (m = 4 ∨ m = 8) →
         ends old (atomStatus op (ofBytes old) x.toNat) (puts (toBytes m (atomSays op m (ofBytes old) x.toNat y.toNat))))) ∧
     (∀ fl x l tile seg, r.op = .rred fl x l tile seg →
       let tag := (r.fn, l, tile, seg)
       let m := if fl then 4 else 8
       (tag ∈ (s.pdie die).rtags → ends [] 0 s) ∧
       (tag ∉ (s.pdie die).rtags → (s.pdie die).rtags.length < 32768 → s.poisoned key m = false →
         ends [] 0 ((puts (toBytes m (atomSays (if fl then .fadd else .add) m (ofBytes old) (x.toNat % 2 ^ (8 * m)) 0))).modPdie die
           fun p => { p with rtags := p.rtags ++ [tag] }))) ∧
     (∀ post x, r.op = (if post = true then .barp x else .bara x) → (s.poisoned key 16 = true → fails) ∧
       (s.poisoned key 16 = false →
         let w := barSays post x.toNat (wordAt s key 0) (wordAt s key 1)
         ends old 0 (s.store (r.agent s) key (toBytes 8 w.1.toNat ++ toBytes 8 w.2.toNat) (clkMerge seen r.clk)))) ∧
     (∀ h m args w, r.op = .rocall h m args w → completes i s (fun t => t = s)))) ∧
  (∀ (s : State) (die : Nat) (r : Req), s.bankTurn die r = true ↔ ∀ q ∈ (s.pdie die).pend, q.arr = r.arr →
     q.rank die < r.rank die → bankOf (s.locKey q.loc) = bankOf (s.locKey r.loc) → s.serves die q = false)

/-- R198, R239: a pending read is served once its home's frontier covers its clock and no request before it at its bank can be,
with the bytes, the merged stamp of their writes and what the home knows; a BARW whose phase has not changed waits at the
home. An answer takes the request out, changes no byte, and leaves its reply in the cache entry of a request that writes.
R17, R86, R180, R198, R224, R317, R321: the first reply of a tag completes its request and waits until the earlier reads of its
context have merged theirs and the die's frontier covers its stamp; a read that was served before its home knew what those
brought is issued again; then the reply goes to its core, where its destination is written, its status raised, or its trap
taken, for a task that has left its context too; later replies are dropped. The acknowledgement of a request that writes leaves once a
reply names as many copies as its source has sent, and frees the cache entry.
Where the rules are open it rests on the model's choices in logs 11, 21, 23 and 42. -/
def Obligations.HomesServeAndReply : Prop :=
  (∀ (s : State) (die k : Nat) (r : Req) (rep : Reply),
   (let t := answer die k r rep s
    memSame s t ∧ (t.pdie die).pend = (s.pdie die).pend.eraseIdx k ∧
    (r.op.writes = true → ∀ e ∈ (t.pdie die).cache, entryOf r.srcMod r.srcDie r.tag e = true → e.reply.isSome)) ∧
   ((s.pdie die).pend[k]? = some r → r.op.writes = false →
     let key := s.locKey r.loc
     let n := r.op.size
     let u := s.touch (r.agent s) key n false
     let knows := s.frontier r.loc.home
     let gives := fun t => t = answer die k r { replyTo r (s.bytes key n) (s.stampOf key n) 0 0 0 with cover := knows } u
     (s.aged r = true → completes (.readServe die k) s (fun t => memSame s t ∧ (t.pdie die).pend = (s.pdie die).pend.eraseIdx k)) ∧
     (s.aged r = false → (s.covers r.loc.home r.clk = false ∨ s.bankTurn die r = false) →
       completes (.readServe die k) s (fun t => t = s)) ∧
     (s.aged r = false → s.covers r.loc.home r.clk = true → s.bankTurn die r = true →
       (s.poisoned key n = true → completes (.readServe die k) s (fun t => t = answer die k r
         { replyTo r [] [] 0 0x10 (BitVec.ofNat 8 (keyKind key)) with cover := knows } u)) ∧
       (s.poisoned key n = false →
         (∀ m, r.op = .read m → completes (.readServe die k) s gives) ∧
         (∀ ph, r.op = .barw ph →
           let now := (wordAt s key 1).extractLsb' 48 16
           ((∃ p, ph = some p ∧ p ≠ now) → completes (.readServe die k) s gives) ∧
           ((ph = none ∨ ph = some now) → completes (.readServe die k) s (fun t => t = u.modPdie die fun p =>
             { p with pend := p.pend.eraseIdx k, barWaits := p.barWaits ++ [(r, now)] }))))))) ∧
  (∀ (s : State) (die k : Nat),
   (∀ m rep q, (s.pdie die).rinbox[k]? = some m → m.body = .reply rep → (∀ x ∈ (s.pdie die).sent, x.sends = 0 → x.req.tag < 65536) →
     (s.pdie die).sent.find? (fun q => q.req.tag = rep.tag) = some q → completes (.replyReceive die k) s (fun t => memSame s t ∧
       (t.pdie die).waitRep = (if q.replied then (s.pdie die).waitRep else (s.pdie die).waitRep ++ [rep]) ∧
       (∀ x ∈ (t.pdie die).sent, x.req.tag = rep.tag → x.replied = true ∧ x.done = true) ∧
       ∃ v, memSame s v ∧ t = releaseHeld die (tryAck die rep.tag v) ∧ (v.pdie die).sent.find? (fun q => q.req.tag = rep.tag) =
         some { q with replied := true, done := true, copies := max q.copies rep.copies, failed := false })) ∧
   (∀ tag q, (s.pdie die).sent.find? (fun q => q.req.tag = tag) = some q → q.req.op.writes = true → q.replied = true →
     q.acked = false →
     (q.copies ≠ q.sends → tryAck die tag s = s) ∧
     (q.copies = q.sends → let t := tryAck die tag s
       memSame s t ∧ (∀ x ∈ (t.pdie die).sent, x.req.tag = tag → x.acked = true) ∧
       ∃ m : Msg, m.body = .ack q.req.srcMod q.req.srcDie q.req.tag ∧ m.toMod = q.req.loc.other ∧
         (q.req.loc.other = none → m.dst = s.phys q.req.loc.home) ∧ t.links = (route q.req.srcDie m s).links)) ∧
   (∀ m rep, (s.pdie die).rinbox[k]? = some m → m.body = .reply rep → (∀ q ∈ (s.pdie die).sent, q.req.tag ≠ rep.tag) →
     completes (.replyReceive die k) s (fun t => t = s.modPdie die fun p => { p with rinbox := p.rinbox.eraseIdx k })) ∧
   (∀ rep q, (s.pdie die).waitRep[k]? = some rep → (s.pdie die).sent.find? (fun q => q.req.tag = rep.tag) = some q →
     ((s.early q.req = true ∨ s.covers q.req.vdie rep.stamp = false) → completes (.replyClockMerge die k) s (fun t => t = s)) ∧
     (s.early q.req = false → s.covers q.req.vdie rep.stamp = true → s.stale q.req rep = true →
       completes (.replyClockMerge die k) s (fun t => memSame s t ∧ ∀ i, q.req.cx = some i → (t.ctx i).regs = (s.ctx i).regs)) ∧
     (s.early q.req = false → s.covers q.req.vdie rep.stamp = true → s.stale q.req rep = false → ∀ i, q.req.cx = some i →
       ∃ u, memSame s u ∧ (∀ j, u.ctx j = { s.ctx j with seen := (u.ctx j).seen }) ∧
         (u.pdie die).waitRep = (s.pdie die).waitRep.eraseIdx k ∧ (u.pdie die).rides = (s.pdie die).rides ∧
         (((∃ v a, q.req.loc = .near v a) ∨ i / 4 % 16 = 0) → completes (.replyClockMerge die k) s (fun t => t = give q.req rep u)) ∧
         ((∀ v a, q.req.loc ≠ .near v a) → i / 4 % 16 ≠ 0 → completes (.replyClockMerge die k) s (fun t =>
           ∃ m : Msg, m.body = .reply rep ∧ t = u.modPdie q.req.srcDie fun p =>
             { p with rides := p.rides ++ [{ pos := 0, dst := i / 4 % 16, leaves := false, msg := m }] })))) ∧
   (∀ x rep q, (s.pdie die).rides[k]? = some x → x.pos = x.dst → x.leaves = false → x.msg.body = .reply rep →
     (∀ y ∈ (s.pdie die).rides.take k, y.msg.body.isResponse = true → y.dst = x.dst → y.pos = x.pos → y.leaves = true) →
     (s.pdie die).sent.find? (fun q => q.req.tag = rep.tag) = some q →
     rideStep die k s = give q.req rep (s.modPdie die fun p => { p with rides := p.rides.eraseIdx k })) ∧
   (∀ m a b g, (s.pdie die).rinbox[k]? = some m → m.body = .ack a b g → completes (.acknowledgementReceive die k) s (fun t =>
     t = { s with pdies := t.pdies } ∧ (∀ e ∈ (t.pdie die).cache, entryOf a b g e = false) ∧
     (t.pdie die).rinbox = (s.pdie die).rinbox.eraseIdx k))) ∧
  (∀ (s : State) (r : Req) (rep : Reply) (i : Nat), r.cx = some i →
   let c := s.ctx i
   let t := give r rep s
   let st := if r.dest = .none then 0 else rep.status
   (s.alive i r.serial = false → rep.trap = 0 → memSame s t ∧ ∀ j, t.ctx j = s.ctx j) ∧
   (rep.trap ≠ 0 → (c.serial ≠ r.serial ∨ c.task = none) → ∃ u, memSame s u ∧ (∀ j, u.ctx j = s.ctx j) ∧
     t = lateTrap i r rep.trap rep.detail u) ∧
   (s.alive i r.serial = true →
     (rep.trap ≠ 0 → c.task.isSome = true → ∃ u, memSame s u ∧ u.ctx i = c ∧
       t = trapAt i r.pc (slotBit r.slot) rep.trap rep.detail r.addr (u.nextPc i) u) ∧
     (rep.trap = 0 → st &&& atrapMask { s with cur := i } = 0 → c.region = .none →
       let does := fun (P : Ctx → Prop) => P (t.ctx i) ∧ memSame s t ∧ (∀ j, j ≠ i → t.ctx j = s.ctx j) ∧
         (t.ctx i).astat = c.astat ||| st.setWidth 64
       (r.dest = .none → does (fun c' => c'.regs = c.regs)) ∧
       (∀ d : BitVec 6, ∀ z, r.dest = .sload d.toNat z → does (fun c' =>
         ∃ m, c'.regs = { c.regs with s := m } ∧ putsS s i d (loadVal z (rep.data.take (ldSize z))) m)) ∧
       (∀ d : BitVec 6, (r.dest = .old d.toNat ∨ r.dest = .call d.toNat) → does (fun c' =>
         ∃ m, c'.regs = { c.regs with s := m } ∧ putsS s i d (BitVec.ofNat 64 (ofBytes rep.data)) m)) ∧
       (∀ d w, r.dest = .vload d w → d < 32 → does (fun c' =>
         (rd 0 c'.regs.v d).toNat % 2 ^ widthBits w = ofBytes rep.data % 2 ^ widthBits w ∧ c'.regs.dead.getLsbD d = false ∧
         ∀ n < 32, n ≠ d → rd 0 c'.regs.v n = rd 0 c.regs.v n ∧ c'.regs.dead.getLsbD n = c.regs.dead.getLsbD n)) ∧
       (∀ d e j x left, r.dest = .velem d e j → d < 32 → e * (j + 1) ≤ 1024 → look c.vparts d = some (x, left) →
         let y := setElem x j e (ofBytes rep.data)
         elem y j e = ofBytes rep.data % 2 ^ e ∧
         (1 < left → does (fun c' => c'.regs = c.regs ∧ look c'.vparts d = some (y, left - 1))) ∧
         (left ≤ 1 → does (fun c' => rd 0 c'.regs.v d = y ∧ c'.regs.dead.getLsbD d = false ∧ look c'.vparts d = none))) ∧
       (∀ n l, r.dest = .land n → look c.landings n = some l → (s.pdie (i / 64)).cycle < l.due → does (fun c' => c'.regs = c.regs ∧
         look c'.landings n = some { l with data := some (BitVec.ofNat 1024 (ofBytes rep.data)) })))))

/-- R193, R236, R317, R318, R320, R321: a timer sends a copy again under the same tag, once inside the module and seven times on
the fabric, never for a frozen function and no FABRIC copy later than 14,336 hub cycles after the first; a FABRIC request without a reply fails after 22,528 hub cycles, with zero in its
destination and its module's bit in the failure map, and one that writes keeps its tag until no copy of it can be left and its
acknowledgement has been sent; an old FABRIC cache entry is freed.
R192, R197, R294: a beacon carries its die's frontiers, its last number and the last write to each home; its receiver
holds them; an exit report releases the tags of its task once no reduce-store of it is left at the home.
Where the rules are open it rests on the model's choices in logs 21, 32 and 42. -/
def Obligations.FrontiersAndFailures : Prop :=
  (∀ (s : State) (die k : Nat) (tag : BitVec 16) (q : Sent),
   ((s.pdie die).sent.find? (fun x => x.req.tag = tag.toNat) = some q → q.failed = false →
     let far := q.req.loc.other.isSome
     let limit := if far then 8 else 2
     let late := far = true ∧ q.firstAt + 14336 < s.cycleG
     (q.replied = false → q.sends ≠ 0 → (s.fn q.req.fn).frozen = false → (s.fn q.req.fn).resetting = false → q.sends < limit → ¬ late →
       completes (.requestTimerExpire die tag) s (fun t => ∃ u, u.cycleG = max s.cycleG (q.lastAt + 2048) ∧ memSame s u ∧
         (u.pdie die).sent = (s.pdie die).sent.map (fun x => if x.req.tag = tag.toNat then
           { x with sends := x.sends + 1, lastAt := u.cycleG } else x) ∧ t = sendReq q.req u)) ∧
     (q.replied = false → q.sends ≠ 0 → ((s.fn q.req.fn).frozen = true ∨ (s.fn q.req.fn).resetting = true ∨ limit ≤ q.sends ∨ late) →
       completes (.requestTimerExpire die tag) s (fun t => t = s)) ∧
     (q.replied = true → q.sends ≠ 0 → far = true → q.req.op.writes = true → q.acked = false →
       completes (.requestTimerExpire die tag) s (fun t => memSame s t ∧ q.lastAt + 8192 ≤ t.cycleG ∧
         ∀ x ∈ (t.pdie die).sent, x.req.tag = tag.toNat → x.acked = true)) ∧
     (∀ m i, q.req.loc.other = some m → m < 2048 → q.replied = false → q.sends ≠ 0 → q.req.cx = some i →
       (∀ x ∈ (s.pdie die).sent, x.sends = 0 → x.req.tag < 65536) → (s.ctx i).region = .none →
       completes (.fabricRequestFail die tag) s (fun t => memSame s t ∧ (t.ctx i).failMap.getLsbD m = true ∧
         q.firstAt + 22528 ≤ t.cycleG ∧
         (∀ x ∈ (t.pdie die).sent, x.req.tag = tag.toNat → x.req.op.writes = true ∧ x.failed = true) ∧
         (s.alive i q.req.serial = true →
         ∀ d : BitVec 6, ∀ z, (q.req.dest = .sload d.toNat z ∨ q.req.dest = .old d.toNat) →
           ∃ r, (t.ctx i).regs = { (s.ctx i).regs with s := r } ∧ putsS s i d 0 r)))) ∧
   ((s.pdie die).sent.find? (fun x => x.req.tag = tag.toNat) = some q → q.failed = true → q.sends ≠ 0 →
     (∀ x ∈ (s.pdie die).sent, x.sends = 0 → x.req.tag < 65536) →
     completes (.requestTimerExpire die tag) s (fun t => memSame s t ∧ q.lastAt + 40960 ≤ t.cycleG ∧
       (∀ x ∈ (t.pdie die).sent, x.req.tag ≠ tag.toNat) ∧ ∃ v, memSame s v ∧ v.cycleG = max s.cycleG (q.lastAt + 40960) ∧
         t = releaseHeld die ((sendAck q.req v).modPdie die fun p =>
           { p with sent := p.sent.filter fun x => decide (x.req.tag ≠ tag.toNat) }))) ∧
   (∀ e, (s.pdie die).cache[k]? = some e → e.fabric = true → completes (.replyCacheEntryExpire die k) s (fun t =>
     e.madeAt + 32768 ≤ t.cycleG ∧ (t.pdie die).cache = (s.pdie die).cache.eraseIdx k ∧
     t = { s with cycleG := t.cycleG, pdies := t.pdies }))) ∧
  (∀ (s : State) (die k : Nat) (m : Msg),
   (let v := s.virt die
    let b := s.beacon v
    b.from_ = v ∧ (∀ f < 8, clkGet b.front f = s.front v f) ∧ b.hi = clkGet (s.vdie v).clock v ∧ b.lastTo = (s.vdie v).lastTo ∧
    completes (.beaconSend die) s (fun t => memSame s t ∧ ∃ d ds, d :: ds = (List.range 9).filter (· ≠ die) ∧
      t = route die { dst := d, more := ds, body := .beacon b, born := s.cycleG } s)) ∧
   (∀ b, (s.pdie die).rinbox[k]? = some m → m.body = .beacon b → completes (.beaconReceive die k) s (fun t =>
     let h := s.virt die
     (t.pdie die).rinbox = (s.pdie die).rinbox.eraseIdx k ∧ memSame s t ∧
     (∀ f < 8, rd 0 (t.vdie h).frontOf (8 * b.from_ + f) = clkGet b.front f) ∧
     rd 0 (t.vdie h).beacHi b.from_ = b.hi ∧ rd 0 (t.vdie h).beacLast b.from_ = rd 0 b.lastTo h)) ∧
   (∀ f n x, (s.pdie die).inbox[k]? = some m → m.body = .exit f n x →
     let mine := fun (r : Req) => r.fn = f ∧ ∃ fl y g, r.op = .rred fl y n x g
     let left := (∃ r ∈ (s.pdie die).pend, mine r) ∨ ∃ w ∈ (s.pdie die).inbox, ∃ r, w.body = .req r ∧ mine r
     (left → completes (.exitReportArrive die k) s (fun t => t = s)) ∧
     (¬ left → completes (.exitReportArrive die k) s (fun t =>
     t = { s with pdies := t.pdies } ∧ (t.pdie die).inbox = (s.pdie die).inbox.eraseIdx k ∧
     ∀ g, g ∈ (t.pdie die).rtags ↔ g ∈ (s.pdie die).rtags ∧ ¬ (g.1 = f ∧ g.2.1 = n ∧ g.2.2.1 = x)))))

/-- R175 to R177, R185, R186, R344: a finished walk, which reads the tables from the root as it was when the walk started, sends
its access to the location that the leaf gives, or takes the trap of its fault, and a write then goes to its home without effect; it
waits while a link to the tables is down. A landing slot is delivered in its arrival cycle.
Where the rules are open it rests on the model's choices in logs 11 and 14. -/
def Obligations.WalksAndLandings : Prop := ∀ (s : State) (die k cx slot : Nat),
  (∀ w, (s.pdie die).walks[k]? = some w → (s.walkDies w.root w.fn w.va).all (s.linked die) = false →
    completes (.translationWalkDone die k) s (fun t => t = s)) ∧
  (∀ w i, (s.pdie die).walks[k]? = some w → k < 64 → w.req.cx = some i → s.alive i w.req.serial = true →
    (s.walkDies w.root w.fn w.va).all (s.linked die) = true →
    let acc : Acc := match w.req.op with
      | .read _ | .barw _ => .read
      | .write _ => .write
      | _ => .atomic
    let u := s.modPdie die fun p => { p with walks := p.walks.eraseIdx k }
    let traps := fun (c : BitVec 8) (v : State) =>
      let v := if w.write then launchReq { w.req with op := .write [], dest := .none, park := false } v else v
      exec (.translationWalkDone die k) s = .next (trapAt i w.req.pc (slotBit w.req.slot) c (if c = 0x10 then 3 else 0) w.req.addr
        (v.nextPc i) v)
    (∀ c, s.leafFrom w.root w.core w.fn w.va = .error c → traps c u) ∧
    (∀ leaf block, s.leafFrom w.root w.core w.fn w.va = .ok (leaf, block) →
      let v := u.fillLeaf w.core w.fn w.va (leaf, block)
      (∀ c, s.leafLoc w.fn leaf block w.va acc = .error c → traps c v) ∧
      (∀ l, s.leafLoc w.fn leaf block w.va acc = .ok l →
        ((w.ownDie = true ∧ l.home ≠ w.req.vdie) → traps 0x06 v) ∧
        (¬ (w.ownDie = true ∧ l.home ≠ w.req.vdie) → (w.write = true → l.home = w.req.loc.home) →
          completes (.translationWalkDone die k) s (fun t =>
            t = if w.req.op.writes then launchReq { w.req with loc := l } v else launchLate { w.req with loc := l } v))))) ∧
  (64 ≤ k → completes (.translationWalkDone die k) s (fun t => t = s)) ∧
  (let c := s.ctx cx
   (∀ l, look c.landings slot = some l → l.data = none → completes (.landingDelivery cx slot) s (fun t => t = s)) ∧
   (∀ due po lpc ls z v (d : BitVec 6), c.landings = [(slot, ⟨.scalar d.toNat z, due, some v, po, lpc, ls⟩)] → c.regPoison = [] → c.region = .none →
    c.landed = [] →
    completes (.landingDelivery cx slot) s (fun t => (t.ctx cx).landings = [] ∧ due ≤ (t.pdie (cx / 64)).cycle ∧ memSame s t ∧
      ∃ m, (t.ctx cx).regs = { c.regs with s := m } ∧ putsS s cx d (loadVal z (toBytes (ldSize z) v.toNat)) m)) ∧
   (∀ due po lpc ls w v d, c.landings = [(slot, ⟨.vector d w, due, some v, po, lpc, ls⟩)] → c.regPoison = [] → d < 32 → c.landed = [] →
    completes (.landingDelivery cx slot) s (fun t => (t.ctx cx).landings = [] ∧ due ≤ (t.pdie (cx / 64)).cycle ∧ memSame s t ∧
      (rd 0 (t.ctx cx).regs.v d).toNat % 2 ^ widthBits w = v.toNat % 2 ^ widthBits w ∧ (t.ctx cx).regs.dead.getLsbD d = false)))

/-- R308 to R310, R323: a flit in order goes on to its router, one that fails its CRC is counted at the receiving end and asked
for again, and a second failure retrains the link at both ends; a NAK sends the buffered flits again in order, an
acknowledgement frees those passed; training ends at full or half width, and back at the full one only where firmware
ordered it, or with the link down, of which firmware is told; a transmitter loses no message, sends responses before requests,
and sends none while the link is down.
R16, R17: among the core routers of a die a message goes first in x and then in y, by the shorter way, until it is at its
router.
R313, R314, R320: the first message of its class leaves on a candidate port of its route entry that is up and within the four
hops, in the virtual channel of its hop, or is discarded; a port counts while it is up; a copy between modules older than 8,192
hub cycles is discarded unapplied.
R338: a request with the partition tag that no master has is discarded where it comes in.
Where the rules are open it rests on the model's choices in log 22. -/
def Obligations.LinksAndPorts : Prop :=
  (∀ (s : State) (link : Nat) (ok lo hi : Bool) (n : BitVec 10),
   let l := s.link link
   let trains := fun (fresh : Bool) (u : State) =>
     let go := fun (l : Link) =>
       { l with state := 1, rtrn := satInc l.rtrn, wire := [], naks := [], lastFail := [], trainAt := s.cycleG, fresh := fresh }
     (u.modLink link go).modLink (backLink link) go
   let counted := s.modLink (backLink link) fun l => { l with crce := satInc l.crce }
   (∀ x m ws, l.wire = (x, m) :: ws → l.state = 2 →
     (ok = true → x = l.rxExp → completes (.flitReceive link ok) s (fun t => ∃ u, t = route (linkEnd link) m u ∧
       u = s.modLink link fun l => { l with wire := ws, rxExp := l.rxExp + 1, lastFail := l.lastFail.filter (· ≠ x) })) ∧
     (ok = true → x ≠ l.rxExp → completes (.flitReceive link ok) s (fun t => t = s.modLink link fun l =>
       { l with wire := ws, lastFail := l.lastFail.filter (· ≠ x), naks := l.naks ++ [l.rxExp] })) ∧
     (ok = false → x ∉ l.lastFail → completes (.flitReceive link ok) s (fun t => t = counted.modLink link fun l =>
       { l with wire := ws, lastFail := l.lastFail ++ [x], naks := l.naks ++ [l.rxExp] })) ∧
     (ok = false → x ∈ l.lastFail → completes (.flitReceive link ok) s (fun t => t = trains false counted))) ∧
   (l.state = 2 → n ∈ l.naks → completes (.nakReceive link n) s (fun t => t = s.modLink link fun l =>
     { l with naks := l.naks.erase n, rply := satInc l.rply, wire := l.wire ++ l.buf.filter fun p => decide ((p.1 - n).toNat < 512) })) ∧
   (l.state = 2 → (l.rxExp - 1 - n).toNat < 512 → (∃ m, (n, m) ∈ l.buf) → completes (.flitAckReceive link n) s (fun t =>
     t = s.modLink link fun l => { l with buf := l.buf.filter fun p => decide ((p.1 - (n + 1)).toNat < 512) })) ∧
   (l.state = 1 →
     let ends := fun (l : Link) => if lo && hi then { l with state := 0, half := 0 }
       else { l with state := 2, half := if hi then 1 else if lo then 2 else if l.fresh then 0 else l.half, wire := l.buf }
     completes (.linkTrainDone link lo hi) s (fun t => ∃ u,
       u = ({ s with cycleG := max s.cycleG (l.trainAt + 4096) }.modLink link ends).modLink (backLink link) ends ∧
       t = if lo && hi then u.send [.linkDown link] else u)) ∧
   (bonded link = true → completes (.firmwareOrderedRetrain link) s (fun t => t = trains true s)) ∧
   (∀ x : Link, let t := pump x
     ∃ rs qs, x.respQ = rs ++ t.respQ ∧ x.sendQ = qs ++ t.sendQ ∧ t.buf.map Prod.snd = x.buf.map Prod.snd ++ rs ++ qs ∧
       (t.respQ ≠ [] → qs = []) ∧ t.buf.length ≤ max 512 x.buf.length ∧ (x.state ≠ 2 → t = x)) ∧
   (∀ r : Ride, r.pos < 16 → r.dst < 16 → r.pos ≠ r.dst →
     let far := fun (a b : Nat) => min ((b + 4 - a) % 4) ((a + 4 - b) % 4)
     let t := rideNext r
     t.pos < 16 ∧ t = { r with pos := t.pos, ch := t.ch } ∧
     (r.pos % 4 ≠ r.dst % 4 → t.pos / 4 = r.pos / 4 ∧ far (t.pos % 4) (r.dst % 4) + 1 = far (r.pos % 4) (r.dst % 4)) ∧
     (r.pos % 4 = r.dst % 4 → t.pos % 4 = r.pos % 4 ∧ far (t.pos / 4) (r.dst / 4) + 1 = far (r.pos / 4) (r.dst / 4)))) ∧
  (∀ (s : State) (k port die : Nat) (m : Msg),
   (∀ x, s.hub.fabQ[k]? = some m → m.toMod = some x →
     let cs := candidates (rd 0 s.hub.route x) s.hub.portsDown m.hops
     let u := { s with hub := { s.hub with fabQ := s.hub.fabQ.eraseIdx k } }
     let first := ∀ y ∈ s.hub.fabQ.take k, y.body.isResponse ≠ m.body.isResponse
     let old := isFabricCopy s m = true ∧ m.born + 8192 < s.cycleG
     (∀ p, p ∈ cs ↔ ∃ c < 4, (rd 0 s.hub.route x).getLsbD (60 + c) = true ∧ p = ((rd 0 s.hub.route x).extractLsb' (6 * c + 2) 4).toNat ∧
       p ∉ s.hub.portsDown ∧ ((rd 0 s.hub.route x).extractLsb' (6 * c) 2).toNat + 1 ≤ 4 - m.hops) ∧
     (¬ first → completes (.fabricForward k) s (fun t => t = s)) ∧
     (first → (old ∨ cs = []) → completes (.fabricForward k) s (fun t => t = u)) ∧
     (first → ¬ old → cs ≠ [] → completes (.fabricForward k) s (fun t => ∃ p, cs[hashK m % cs.length]? = some p ∧
       t = u.send [.fabric p m.hops { m with hops := m.hops + 1 }]))) ∧
   (∀ r, m.body = .req r → 7 ≤ r.fn → arriveMsg m s = s) ∧
   completes (.fabricPortDown port) s (fun t => ∃ ps, t = { s with hub := { s.hub with portsDown := ps } } ∧
     ∀ p, p ∈ ps ↔ p ∈ s.hub.portsDown ∨ p = port) ∧
   completes (.fabricPortUp port) s (fun t => ∃ ps, t = { s with hub := { s.hub with portsDown := ps } } ∧
     ∀ p, p ∈ ps ↔ p ∈ s.hub.portsDown ∧ p ≠ port) ∧
   (isFabricCopy s m = true →
     ((s.pdie die).inbox[k]? = some m → die ≠ 8 → completes (.copyAgeDiscard die k) s (fun t =>
       m.born + 8192 < t.cycleG ∧ t = { s with cycleG := t.cycleG, pdies := t.pdies } ∧
       (t.pdie die).inbox = (s.pdie die).inbox.eraseIdx k)) ∧
     (s.hub.fabQ[k]? = some m → completes (.copyAgeDiscard 8 k) s (fun t =>
       m.born + 8192 < t.cycleG ∧ t = { s with cycleG := t.cycleG, hub := { s.hub with fabQ := s.hub.fabQ.eraseIdx k } }))))

/-! ### The task graph (14 R246 to R266, 20 R334) -/

/-- R246 to R250, R257, R258: LNCH and LNCHI read a record and give its id, or zero for one that R248 refuses; the new node
waits for the unretired nodes of its function whose footprints meet its own, its copies go to the other dies of the mask,
and an indirect count is read at once when no earlier unretired node writes it. A full scheduler holds the form back, and so
does a bank of the record that another context holds (12 R231); reading the record aborts elided regions that wrote it (12
R234).
R251 to R256, R260, R261: a node starts when its predecessors have retired and nothing holds it; a launch's walkers
share out every coordinate once; a free context whose turn it is takes the next coordinate of its core's walker, one of a
walker in a cycle, and starts its task with a0 alone set and its last trap still readable, once no reply of its last task is left to
write a register; a format image gives its format registers, with the default and rcd for an invalid entry, and its fault is the
task's (05 R89); WSPLIT moves half of the largest
remainder; a retired node leaves its die.
Where the rules are open it rests on the model's choices in logs 14, 36, 44, 45 and 46. -/
def Obligations.LaunchesAndWalkers : Prop :=
  (∀ (s u : State) (a : Word) (al n : Nat) (ws : List Word), recordAt s a al n ws u → memSame s u ∧ u.me = s.me ∧
    u = { s with ctxs := u.ctxs, vdies := u.vdies } ∧ othersAbort s u) ∧
  (∀ (s : State) (d aa : BitVec 6) (ks : List Nat), s.inElided = false → recordKeys s (rA s aa.toNat) 64 128 ks →
    (∃ k ∈ ks, s.barred k 1 = true) → ∀ i ∈ [Instr.lnch d aa, .lnchi d aa, .cpy d aa, .gath d aa, .scat d aa, .clnest d aa],
    exec i s = waitFor i s) ∧
  (∀ (s u : State) (d aa : BitVec 6) (ws : List Word),
   let v := s.myVdie
   let f := s.myFn
   let a := rA s aa.toNat
   let id := BitVec.ofNat 32 (v * 2 ^ 29 + seqNext (s.vdie v).nodeSeq)
   let old := (s.vdie v).nodes
   s.inElided = false →
   (64 ≤ (old.filter fun n => n.fn = f).length → exec (.lnch d aa) s = waitFor (.lnch d aa) s ∧
     exec (.lnchi d aa) s = waitFor (.lnchi d aa) s) ∧
   ((old.filter fun n => n.fn = f).length < 64 → recordAt s a 64 128 ws u →
     let takes := fun (n : Node) (t : State) => sReg t d = (if d = 0 then 0 else id.setWidth 64) ∧
       (∀ r, r ≠ d → sReg t r = sReg s r) ∧ memSame s t ∧ (t.vdie v).nodes = old ++ [n] ∧
       n.id = id ∧ n.fn = f ∧ n.kind = .launch ∧ n.held = (ws.getD 4 0).getLsbD 29 ∧ n.started = false ∧
       n.preds = (old.filter fun e => decide (e.fn = f) && conflict e.words ws).map (·.id) ∧
       ∀ x < 8, lDies ws / 2 ^ x % 2 = 1 → x ≠ v →
         (x, ws, id) ∈ (t.fn f).coming ∨ (x, .launch, ws, some id) ∈ (rd {} (t.fn f).queues 64).banks
     let counts := (old.any fun e => decide (e.fn = f) && writesAt e.words (lIcnt ws)) ||
       !s.linkedTo (s.phys v) f v ((s.vcorePhys f v 0).getD (16 * s.phys v)) (BitVec.ofNat 64 (lIcnt ws)) .read 4
     (launchOk s f s.myPriv ws = false → completes (.lnch d aa) s (setsS u d 0) ∧ completes (.lnchi d aa) s (setsS u d 0)) ∧
     (launchOk s f s.myPriv ws = true → lIcnt ws = 0 → lCount ws ≠ 0 →
       completes (.lnch d aa) s (fun t => ∃ n, takes n t ∧ n.words = ws ∧ n.count = lCount ws ∧ n.countWait = false) ∧
       completes (.lnchi d aa) s (setsS u d 0)) ∧
     (launchOk s f s.myPriv ws = true → lIcnt ws = 0 → lCount ws = 0 → completes (.lnch d aa) s (fun t =>
       sReg t d = (if d = 0 then 0 else id.setWidth 64) ∧ (t.vdie v).nodes = old)) ∧
     (launchOk s f s.myPriv ws = true → lIcnt ws ≠ 0 → idDie id = v → (∀ e ∈ old, e.id ≠ id) →
       completes (.lnch d aa) s (setsS u d 0) ∧
       (counts = true → completes (.lnchi d aa) s (fun t => ∃ n, takes n t ∧ n.words = ws ∧ n.countWait = true)) ∧
       (∀ cs, counts = false → s.agentRead f v ((s.vcorePhys f v 0).getD (16 * s.phys v)) (BitVec.ofNat 64 (lIcnt ws)) 4 = .ok cs →
         let ws' := withCount ws (ofBytes cs)
         lCount ws' ≤ 2 ^ 32 - 1 → completes (.lnchi d aa) s (fun t => ∃ n, takes n t ∧ n.words = ws' ∧ n.count = lCount ws' ∧
           n.countWait = false))))) ∧
  (∀ (s : State) (vdie cx : Nat) (id : BitVec 32) (n : Node) (d : BitVec 6),
   (s.node vdie id = some n →
     (startable s vdie n = false → completes (.nodeStart vdie id) s (fun t => t = s)) ∧
     (startable s vdie n = true → n.kind = .launch → walkersUsed (s.vdie vdie) + (cutRanges vdie n.fn n).length ≤ 32 →
       completes (.nodeStart vdie id) s (fun t => memSame s t ∧
         (t.vdie vdie).walkers = (s.vdie vdie).walkers ++ cutRanges vdie n.fn n ∧
         ∀ m ∈ (t.vdie vdie).nodes, m.id = id → m.started = true)) ∧
     ((retirable s id = false ∨ (n.stopped = true ∧ (s.fn n.fn).halted = true) ∨ s.knows vdie (nodeClk s id) = false) →
       completes (.nodeRetire vdie id) s (fun t => t = s)) ∧
     (retirable s id = true → ¬ (n.stopped = true ∧ (s.fn n.fn).halted = true) → s.knows vdie (nodeClk s id) = true →
      completes (.nodeRetire vdie id) s (fun t =>
       memSame s t ∧ (∀ m ∈ (t.vdie vdie).nodes, m.id ≠ id) ∧ (∀ w ∈ (t.vdie vdie).walkers, w.lnch ≠ id) ∧
       (t.vdie vdie).clock = ((mergeClock vdie (nodeClk s id) s).vdie vdie).clock))) ∧
   (0 < lGran n.words → placed n.words ≠ [] → ∀ i < n.count,
     (∃ p ∈ placed n.words, ∃ w ∈ cutRanges p.1 n.fn n, w.next ≤ i ∧ i < w.end_) ∧
     ∀ v v' w w', w ∈ cutRanges v n.fn n → w' ∈ cutRanges v' n.fn n → w.next ≤ i → i < w.end_ → w'.next ≤ i → i < w'.end_ →
       w.ordinal = w'.ordinal) ∧
   (let v := s.virt (cx / 64)
    ∀ w, (s.ctx cx).mode = .free → cx < 512 → walkersOf s v (cx / 4) = [(n, w)] → mayIssue s n = true →
     w.away = false → w.again = [] → w.next < w.end_ →
     let img := lFmtimg n.words
     let reads := img = 0 ∨ s.settled v = true ∧ s.linkedTo (cx / 64) n.fn v (cx / 4) img .read 128 = true
     let enters := fun (c : Ctx) =>
        c.trapPC = (s.ctx cx).trapPC ∧ c.trapCode = (s.ctx cx).trapCode ∧ c.trapMask = (s.ctx cx).trapMask ∧
        c.mode = .run ∧ c.pc = n.words.getD 0 0 ∧ c.regs.s = [] ∧ c.regs.p = [] ∧ c.regs.v = [] ∧ c.regs.dead = 0 ∧
        (∀ r, rd 0 c.regs.a r = if r = 0 then n.words.getD 1 0 else 0) ∧ c.loops = [] ∧ c.mat.tiles = [] ∧
        c.regs.k = [] ∧ c.regs.lc = [] ∧ c.mat.depth = 0 ∧ c.mat.bBind = none ∧ c.mat.armed = none ∧ c.mat.running = none ∧
        c.mat.bind = none ∧ c.mat.fmtIdx = 0 ∧ c.mat.main = [] ∧ c.landings = [] ∧ c.pbank = false ∧ c.slackLeft = 0 ∧ c.barRec = none ∧
        c.aborts = 0 ∧ c.rredSeg = 0 ∧
        ∃ k, c.task = some k ∧ k.fn = n.fn ∧ k.lnch = n.id ∧ k.n = w.next ∧ k.vdie = v ∧ k.vcore = w.vcore ∧
          (k.x, k.y, k.z) = coordOf n.words w.next ∧ k.priv = (n.words.getD 4 0).getLsbD 30 ∧ k.mwin = lMwin n.words ∧
          k.zacc = lZacc n.words ∧ k.lslots = lSlots n.words
     ((w.handed = some (s.pdie (cx / 64)).cycle ∨ ¬ reads ∨ replyOwed s cx = true) →
       completes (.contextWorkRequest cx) s (fun t => t = s)) ∧
     (w.handed ≠ some (s.pdie (cx / 64)).cycle → coreFits s (cx / 4) n.words = true → firstWork s (cx / 64) = some w.ordinal →
      reads → replyOwed s cx = false →
      let does := fun (astat : Word) (ft : Nat → Word) => completes (.contextWorkRequest cx) s (fun t =>
        memSame s t ∧ (∀ j, j ≠ cx → t.ctx j = s.ctx j) ∧ enters (t.ctx cx) ∧ (t.ctx cx).astat = astat ∧
        ∀ j < 16, rd 0x2011 (t.ctx cx).mat.ft j = ft j)
      (img = 0 → does 0 fun _ => 0x2011) ∧
      (∀ ws, img ≠ 0 → s.agentWords n.fn v (cx / 4) img 16 = .ok ws →
        does (if ∀ x ∈ ws, fValid x = true then 0 else stRcd.setWidth 64)
          (fun j => if fValid (ws.getD j 0) then ws.getD j 0 else 0x2011)) ∧
      (∀ e a, img ≠ 0 → s.agentWords n.fn v (cx / 4) img 16 = .error (e, a) →
        completes (.contextWorkRequest cx) s (fun t => ∃ u, memSame s u ∧ enters (u.ctx cx) ∧
          t = trapAt cx (n.words.getD 0 0) 0 e (if e = 0x10 then 3 else 0) a (n.words.getD 0 0) u)))) ∧
   (∀ k w, s.inElided = false → s.me.task = some k → s.node s.myVdie k.lnch = some n →
     (s.vdie s.myVdie).walkers.find? (fun w => w.lnch = k.lnch ∧ w.vcore = k.vcore) = some w →
     ((w.away = true ∨ w.qnext < w.qend) → completes (.wsplit d) s (setsS s d 0)) ∧
     (w.away = false → w.qend ≤ w.qnext → splitFor s.myVdie n w.ordinal s = none → completes (.wsplit d) s (setsS s d 0)) ∧
     (∀ x, w.away = false → w.qend ≤ w.qnext → lFlag n.words 24 = false →
       victim (s.vdie s.myVdie).walkers n.id w.ordinal (lGran n.words) = some x →
       completes (.wsplit d) s (fun t => memSame s t ∧ (∀ r, r ≠ d → sReg t r = sReg s r) ∧ sReg t d = (if d = 0 then 0 else
         BitVec.ofNat 64 (x.end_ - (x.end_ - (x.end_ - x.next) / 2 / lGran n.words * lGran n.words)))))))

/-- R257, R258, R260, R334: TGDEP adds an edge to a held node of the die and function, or releases it, and has no effect in any
other case; a 17th edge makes the node wait for every older one; TGWAIT waits for an unretired node, and then
merges the clock of the die that gave its id (11 R199); a shadow
bank gives its next record to the scheduler once the record that last used the bank has retired.
Where the rules are open it rests on the model's choices in logs 19, 44 and 46. -/
def Obligations.TaskGraph : Prop := ∀ (s : State) (l e : BitVec 6) (n : Node) (vdie fn q : Nat), s.inElided = false →
  let v := s.myVdie
  let sl : BitVec 32 := (rS s l).setWidth 32
  let se : BitVec 32 := (rS s e).setWidth 32
  let renode := fun (f : Node → Node) => completes (.tgdep l e) s (fun t => t = s.modVdie v fun d =>
    { d with nodes := d.nodes.map fun m => if m.id = sl then f m else m })
  (s.node v sl = none → completes (.tgdep l e) s (fun t => t = s)) ∧
  (s.node v sl = some n → n.fn = s.myFn → n.held = true → rS s l = sl.setWidth 64 →
    (rS s e = 0 → renode fun m => { m with held := false }) ∧
    (rS s e ≠ 0 → rS s e = se.setWidth 64 → idDie se = v → seqBelow (idSeq se) (idSeq sl) = true → n.edges < 16 →
      renode fun m => { m with edges := m.edges + 1, preds := m.preds ++ [se] }) ∧
    (rS s e ≠ 0 → rS s e = se.setWidth 64 → idDie se = v → seqBelow (idSeq se) (idSeq sl) = true → 16 ≤ n.edges →
      let older := ((s.vdie v).nodes.filter fun m => decide (m.fn = n.fn) && seqBelow (idSeq m.id) (idSeq sl)).map (·.id)
      renode fun m => { m with edges := 17, preds := m.preds ++ older.filter fun x => !m.preds.contains x }) ∧
    ((rS s e ≠ 0 ∧ (rS s e ≠ se.setWidth 64 ∨ idDie se ≠ v ∨ seqBelow (idSeq se) (idSeq sl) = false)) →
      completes (.tgdep l e) s (fun t => t = s))) ∧
  (s.node v sl = some n → (n.fn ≠ s.myFn ∨ n.held = false ∨ rS s l ≠ sl.setWidth 64) → completes (.tgdep l e) s (fun t => t = s)) ∧
  (rS s l = sl.setWidth 64 → (∀ x < 8, ∀ m, s.node x sl = some m → m.fn ≠ s.myFn) →
    (∀ y ∈ (s.fn s.myFn).queues, ∀ b ∈ y.2.banks, b.2.2.2 ≠ some sl) → (∀ x ∈ (s.fn s.myFn).coming, x.2.2 ≠ sl) →
    ((idDie sl = v ∨ s.wasGiven sl = false) → completes (.tgwait l) s (fun t => t = s)) ∧
    (idDie sl ≠ v → s.wasGiven sl = true →
     let c := s.me.syncClk.getD (s.vdie (idDie sl)).clock
     (s.covers v c = true → completes (.tgwait l) s (fun t => t = (mergeClock v c s).mod fun x => { x with syncClk := none })) ∧
     (s.covers v c = false → exec (.tgwait l) s = waitFor (.tgwait l) (s.mod fun x => { x with syncClk := some c })))) ∧
  (rS s l ≠ sl.setWidth 64 → completes (.tgwait l) s (fun t => t = s)) ∧
  (rS s l = sl.setWidth 64 → (∃ x < 8, ∃ m, s.node x sl = some m ∧ m.fn = s.myFn) → exec (.tgwait l) s = waitFor (.tgwait l) s) ∧
  (let x := rd {} (s.fn fn).queues q
   let bank := rd 0 x.bankNext vdie
   let old := (s.vdie vdie).nodes
   let i : Instr := .shadowBankSwap vdie fn q
   (bankHead x vdie = none → completes i s (fun t => t = s)) ∧
   (∀ k ws id, bankHead x vdie = some (k, ws, id) → q < 64 → (∃ m ∈ old, m.fn = fn ∧ m.queue = some (2 * q + bank)) →
    completes i s (fun t => t = s)) ∧
   (∀ j ws, bankHead x vdie = some (.job j, ws, none) → q < 64 → (∀ m ∈ old, ¬ (m.fn = fn ∧ m.queue = some (2 * q + bank))) →
    (old.filter fun m => m.fn = fn).length < 64 → s.settled vdie = true → jobEmpty (.job j) ws = false →
    completes i s (fun t => (∃ m, (t.vdie vdie).nodes = old ++ [m] ∧ m.id = BitVec.ofNat 32 (vdie * 2 ^ 29 + seqNext (s.vdie vdie).nodeSeq) ∧
      m.kind = .job j ∧ m.fn = fn ∧ m.words = ws ∧ m.queue = some (2 * q + bank) ∧
      m.preds = (old.filter fun e => decide (e.fn = fn) && conflict e.words ws).map (·.id)) ∧ memSame s t ∧
      rd 0 (rd {} (t.fn fn).queues q).bankNext vdie = 1 - bank)) ∧
   (∀ ws, bankHead x vdie = some (.launch, ws, none) → lowestDie ws ≠ vdie → completes i s (fun t => t = s)) ∧
   (∀ ws id, bankHead x vdie = some (.launch, ws, id) → (q = 64 ∨ ∀ m ∈ old, ¬ (m.fn = fn ∧ m.queue = some (2 * q + bank))) →
    (old.filter fun m => m.fn = fn).length < 64 → s.settled vdie = true → lIcnt ws = 0 → lCount ws ≠ 0 →
    (id = none → lowestDie ws = vdie) → (∀ m, id = some m → ∀ y, s.node y m = none) →
    completes i s (fun t => (∃ m, (t.vdie vdie).nodes = old ++ [m] ∧
      m.id = id.getD (BitVec.ofNat 32 (vdie * 2 ^ 29 + seqNext (s.vdie vdie).nodeSeq)) ∧
      m.kind = .launch ∧ m.fn = fn ∧ m.words = ws ∧ m.count = lCount ws ∧ m.countWait = false ∧
      m.queue = (if q = 64 then none else some (2 * q + bank)) ∧
      m.preds = (old.filter fun e => decide (e.fn = fn) && conflict e.words ws).map (·.id)) ∧ memSame s t)))

/-- R262, R265, R266: BREL releases claimed banks once the earlier reads of its context and those of its launch on the core are over
(11 R205), BOWN waits for banks that older claims still own, SLACK sets the remaining slack, tokens are released at their rate,
the one that is held goes to the earliest request, and a core idle for 256 cycles gives its columns back.
Where the rules are open it rests on the model's choices in logs 17 and 23. -/
def Obligations.BanksAndTokens : Prop := ∀ (s : State) (a : BitVec 6) (n : BitVec 14) (core die : Nat) (t0 : Task),
  completes (.slack n) s (fun t => t = s.mod fun c => { c with slackLeft := n.toNat }) ∧
  (s.inElided = false → s.me.task = some t0 →
    let open_ := s.readsOpen || s.readsLeft (s.cur / 64) fun r => decide (r.node = t0.lnch) && match r.cx with
      | some i => decide (i / 4 = s.cur / 4) && r.awaited i
      | none => false
    (open_ = false → completes (.brel a) s (fun t => t = s.modCore (s.cur / 4) fun k => { k with claims := k.claims.map fun c =>
      if c.1 = t0.lnch then (c.1, c.2.1, c.2.2 ||| (rS s a &&& c.2.1)) else c })) ∧
    (open_ = true → exec (.brel a) s = waitFor (.brel a) s) ∧
    (let cs := (s.core (s.cur / 4)).claims
     (∀ b rel, cs.find? (fun c => c.1 = t0.lnch) = some (t0.lnch, b, rel) →
      let want := rS s a &&& b &&& ~~~ rel
      let older := cs.takeWhile fun c => c.1 ≠ t0.lnch
      ((∀ c ∈ older, want &&& c.2.1 &&& ~~~ c.2.2 = 0) → completes (.bown a) s (fun t => t = s)) ∧
      ((∃ c ∈ older, want &&& c.2.1 &&& ~~~ c.2.2 ≠ 0) → exec (.bown a) s = waitFor (.bown a) s)) ∧
     ((∀ c ∈ cs, c.1 ≠ t0.lnch) → completes (.bown a) s (fun t => t = s)))) ∧
  (let p := s.pdie die
   let gap := (4000 + p.pwrLim.toNat % 256 - 1) / (p.pwrLim.toNat % 256)
   die < 8 → 0 < p.pwrLim.toNat % 256 →
   let waits := p.tokenHeld = false ∧ s.cycleG < p.lastToken + gap
   (firstRequest die s = none → completes (.startTokenRelease die) s (fun t => (t.pdie die).tokenHeld = true ∧
     t.cycleG = (if p.tokenHeld then s.cycleG else max s.cycleG (p.lastToken + gap)) ∧
     (p.tokenHeld = false → ∃ k, (t.pdie die).lastToken = p.lastToken + gap * k ∧ (t.pdie die).lastToken ≤ t.cycleG ∧
       t.cycleG < (t.pdie die).lastToken + gap) ∧
     t = { s with cycleG := t.cycleG, pdies := t.pdies })) ∧
   (∀ c, firstRequest die s = some c → (s.core c).cols = 0 → (s.core c).tokens = 0 →
     completes (.startTokenRelease die) s (fun t => (t.core c).cols = 16 ∧ (t.pdie die).tokenHeld = false ∧ memSame s t ∧
       (¬ waits → t.cycleG = s.cycleG) ∧ (waits → t.cycleG = p.lastToken + gap)))) ∧
  (completes (.arrayIdleTimeout core) s (fun t => (t.core core).cols = 0 ∧ memSame s t ∧
    ((s.core core).cols ≠ 0 → (s.core core).lastBeat + 256 ≤ (t.pdie (core / 16)).cycle ∧ (t.core core).tokenReq = none)))

/-! ### Engines (15 R267 to R272, 10 R194) -/

/-- R194, R267 to R270, R272: JOBW writes a field of its shadow set; JOBGO, CPY, GATH and SCAT give the id of the job that
the engine takes, or zero for a card that R270 refuses; a job without work is over at once, with the BARA of its 0 bytes and its event.
JOBWAIT waits
while its job is open and then merges the clock of the job's die (11 R199); a drain waits for the jobs that were submitted
before its bundle.
R269 to R271: a ready job takes one access a step. It completes with its BARA and its event once its writes have been
applied, and a fault is charged to the submitting context while it runs the submitting task, else by the engine's own record. The
blocks of a copy follow
each other to its length; each is read whole, then written, to B-slices in each named column; a gather or scatter reads an index,
then the element, then writes it; a collective job posts a segment of its tree a step. An address in FABRIC or in no window faults
with 0x06. A write that another die or the hub homes goes there as a request (01 R11).
Where the rules are open it rests on the model's choices in logs 14, 21, 23 and 44. -/
def Obligations.Jobs : Prop :=
  (∀ (s : State) (eng : Eng) (f a d aa : BitVec 6), s.inElided = false →
   let nodes := (s.vdie s.myVdie).nodes
   let upTo := s.me.waitKey.getD (s.vdie s.myVdie).nodeSeq
   let submits := fun (u : State) (i : Instr) (e : Eng) (ws : List Word) => (nodes.filter fun n => n.fn = s.myFn).length < 64 →
     (cardOk e ws = false → completes i s (setsS u d 0)) ∧
     (cardOk e ws = true → jobEmpty (.job e) ws = false → completes i s (takesNode u d (.job e) ws)) ∧
     (∀ b p, cardOk e ws = true → jobEmpty (.job e) ws = true → s.poison = [] → (∀ j, (s.ctx j).hold = none) →
       window (ws.getD 6 0) = some (.local_, b) → b + 16 ≤ 2 ^ 23 →
       s.vcorePhys s.myFn ((16 * s.myVdie + s.myCore) / 16) ((16 * s.myVdie + s.myCore) % 16) = some p →
       completes i s (fun t => givesS s d ((nextId s).setWidth 64) t ∧ (t.vdie s.myVdie).nodes = nodes ∧
         let k := keyScratch p b
         ∀ x, t.byte x = if k ≤ x ∧ x < k + 16 then (barStep false 0 (s.bytes k 16)).getD (x - k) 0 else s.byte x)) ∧
     (cardOk e ws = true → jobEmpty (.job e) ws = true → ws.getD 6 0 = 0 → completes i s (fun t => givesS s d ((nextId s).setWidth 64) t ∧
       memSame s t ∧ (t.vdie s.myVdie).nodes = nodes ∧
       ∀ k, rd 0 (t.fn s.myFn).events k = if (ws.getD 5 0).getLsbD 63 = true ∧
         k = evKey ((16 * s.myVdie + s.myCore) / 16) ((16 * s.myVdie + s.myCore) % 16) ((ws.getD 5 0).extractLsb' 56 6).toNat
         then satInc (rd 0 (s.fn s.myFn).events k) else rd 0 (s.fn s.myFn).events k))
   completes (.jobw eng f a) s (fun t => ∃ m k, t = s.mod (fun c => { c with shadow := m, colCount := k }) ∧
     (∀ j, rd 0 m j = if j = 16 * engNo eng + f.toNat then rS s a else rd 0 s.me.shadow j) ∧
     k = if eng = .col ∧ (f = 0 ∨ f = 2) then 0 else s.me.colCount) ∧
   (s.quiet = true → submits s (.jobgo eng d) eng ((List.range 16).map fun j => rd 0 s.me.shadow (16 * engNo eng + j))) ∧
   (∀ ws u, recordAt s (rA s aa.toNat) 64 128 ws u →
     submits u (.cpy d aa) .cpy ws ∧ submits u (.gath d aa) .gath ws ∧ submits u (.scat d aa) .scat ws) ∧
   (let id : BitVec 32 := (rS s a).setWidth 32
    rS s a = id.setWidth 64 →
     ((∃ v < 8, ∃ n, s.node v id = some n ∧ n.fn = s.myFn ∧ n.stopped = false) → exec (.jobwait a) s = waitFor (.jobwait a) s) ∧
     ((∀ v < 8, ∀ n, s.node v id = some n → n.fn ≠ s.myFn ∨ n.stopped = true) →
       ((idDie id = s.myVdie ∨ s.wasGiven id = false) → completes (.jobwait a) s (fun t => t = s)) ∧
       (idDie id ≠ s.myVdie → s.wasGiven id = true →
         let c := s.me.syncClk.getD (s.vdie (idDie id)).clock
         (s.covers s.myVdie c = true → completes (.jobwait a) s (fun t =>
           t = (mergeClock s.myVdie c s).mod fun x => { x with syncClk := none })) ∧
         (s.covers s.myVdie c = false → exec (.jobwait a) s =
           waitFor (.jobwait a) (s.mod fun x => { x with syncClk := some c }))))) ∧
   (let before := fun (p : Node → Prop) => ∃ v < 8, ∃ n ∈ (s.vdie v).nodes, n.fn = s.myFn ∧ n.vcore = 16 * s.myVdie + s.myCore ∧
      n.done = false ∧ p n ∧ (v = s.myVdie → seqBelow upTo (idSeq n.id) = false)
    let drains := fun (i : Instr) (p : Node → Prop) =>
     (¬ before p → completes i s (fun t => t = s.mod fun c => { c with waitKey := none })) ∧
     (before p → exec i s = waitFor i (s.mod fun c => { c with waitKey := some upTo }))
    let move := fun (cls : Bool) (n : Node) => (n.kind = .job .cpy ∨ n.kind = .job .scat) ∧ drainClass n.words = some cls
    drains .drainCpl (move true) ∧ drains .drainCpsh (move false) ∧ drains .drainGath (fun n => n.kind = .job .gath) ∧
    (let k := s.core (s.cur / 4)
     let snap := s.me.drainSnap.getD (k.drainNo, openPosts s, openNests s)
     let queued := ∃ x ∈ (s.fn s.myFn).trees, x.2.valid = true ∧ ∃ e ∈ x.2.segs, e.localdone = false ∧
       e.code = 128 * s.hub.modid.toNat + (16 * s.myVdie + s.myCore) ∧ ∃ m, e.entry = some m ∧ m < snap.1
     let busy := (∃ e ∈ k.drainQ, e.no < snap.1) ∨ queued ∨ (∃ x ∈ openPosts s, x ∈ snap.2.1) ∨ (∃ x ∈ openNests s, x ∈ snap.2.2) ∨
       before fun n => n.kind = .job .col
     (∀ t seg, (t, seg) ∈ openPosts s → ∃ r, (t, r) ∈ (s.fn s.myFn).trees ∧ ∃ e ∈ r.segs,
       e.code = 128 * s.hub.modid.toNat + (16 * s.myVdie + s.myCore) ∧ e.seg = seg ∧ e.localdone = false) ∧
     (∀ x ∈ openNests s, ∃ c ∈ k.cls, c.n = x ∧ c.fn = s.myFn ∧ c.accepted = true ∧ c.localdone = false ∧ c.cancelled = false) ∧
     (¬ busy → completes .drainCol s (fun t => t = s.mod fun c => { c with waitKey := none, drainSnap := none })) ∧
     (busy → exec .drainCol s = waitFor .drainCol (s.mod fun c => { c with waitKey := some upTo, drainSnap := some snap }))))) ∧
  (∀ (s : State) (v : Nat) (id : BitVec 32) (n : Node),
   s.node v id = some n →
     let done : Instr := .engineJobComplete v id
     let bad : Instr := .engineJobFault v id
     (jobReady s n = false → completes done s (fun t => t = s) ∧ completes bad s (fun t => t = s)) ∧
     (jobReady s n = true →
       (∀ u, nodeMove v n s = .ok u → completes done s (fun t => t = u) ∧ completes bad s (fun t => t = s)) ∧
       (∀ c dt a, nodeMove v n s = .error (c, dt, a) → completes done s (fun t => t = s) ∧
         (c = 0 → completes bad s (fun t => t = s)) ∧ (c ≠ 0 → completes bad s (fun t => t = chargeJob v n c dt a s))))) ∧
  (∀ (s : State) (v : Nat) (n : Node) (c dt : BitVec 8) (a : Word),
    (∀ i, n.cx = some i → s.runs i n.serial = true → ∃ w, memSame s w ∧ w.ctx i = s.ctx i ∧
      (∀ m ∈ (w.vdie v).nodes, m.id = n.id → m.done = true ∧ m.stopped = true) ∧
      chargeJob v n c dt a s = trapAt i n.pc (slotBit n.slot) c dt a (w.nextPc i) w) ∧
    ((∀ i, n.cx = some i → s.runs i n.serial = false) → ∃ w, memSame s w ∧ (∀ j, w.ctx j = s.ctx j) ∧
      (∀ m ∈ (w.vdie v).nodes, m.id = n.id → m.done = true ∧ m.stopped = true) ∧
      let u := raiseHalt n.fn (!freezing c) (w.modFn n.fn (addRec (engRec w v n c dt a)))
      chargeJob v n c dt a s = if freezing c then freezeFn n.fn (fcauseOf c v 0 0 true) true u else u)) ∧
  (∀ dst len, 0 < len → (copyBlock dst len 0).1 = 0 ∧
     (∀ j, j + 1 < copyBlocks dst len → (copyBlock dst len (j + 1)).1 = (copyBlock dst len j).1 + (copyBlock dst len j).2 ∧
       (dst + (copyBlock dst len (j + 1)).1) % 64 = 0) ∧
     (let j := copyBlocks dst len - 1
      (copyBlock dst len j).1 + (copyBlock dst len j).2 = len)) ∧
  (∀ (s : State) (v : Nat) (n : Node) (core : Nat) (e : Eng),
   s.subCore n = some core → n.vcore / 16 = v → s.poison = [] → (∀ i, (s.ctx i).hold = none) → n.kind = .job e → e ≠ .col →
     let at_ := fun (a : Word) (m o : Nat) => window a = some (.local_, o) ∧ o + m ≤ 2 ^ 23
     let moved := fun (u : State) => ∀ m ∈ (u.vdie v).nodes, m.id = n.id → m.data = [] ∧ ∃ m' ∈ (s.vdie v).nodes,
       m'.id = n.id ∧ m.posted = m'.posted + 1
     let writes := fun (u : State) (k : Nat) (bs : List Byte) => ∀ x, u.byte x = if k ≤ x ∧ x < k + bs.length then
       bs.getD (x - k) 0 else s.byte x
     let reads := fun (a : Word) (m o : Nat) (r : Except JobErr State) => at_ a m o → 0 < m →
       let held := s.linkedTo (s.phys v) n.fn v core a .read m = false ∨ ∃ x < m, bankBusy s (keyScratch core (o + x)) = true
       (held → r = .error (0, 0, a)) ∧
       (¬ held → ∃ u, memSame s u ∧ r = .ok (keepRead v n (s.bytes (keyScratch core o) m) u))
     (∀ (a : Word) (acc : Acc) (m : Nat), 0 < m → (window a = none ∨ ∃ o, window a = some (.fabric, o)) →
       jobKeys n a acc m s = .error (0x06, 0, a)) ∧
     (n.posted < jobLen e n.words →
       (e = .cpy → (n.words.getD 5 0).getLsbD 62 = true →
         let dst := (n.words.getD 2 0).toNat
         let o := (copyBlock dst (n.words.getD 0 0).toNat n.posted).1
         let first := (n.words.getD 3 0).toNat % 256
         let last := (n.words.getD 3 0).toNat / 256
         let out := dst + (n.words.getD 0 0).toNat > 131072 ∨ first > last ∨ last > 191
         ∀ bs r, n.data = bs :: r →
           (out → nodeMove v n s = .error (0x06, 0, n.words.getD 2 0)) ∧
           (¬ out → bs.length = (copyBlock dst (n.words.getD 0 0).toNat n.posted).2 → ∃ u, nodeMove v n s = .ok u ∧ moved u ∧
             (∀ c j, first ≤ c → c ≤ last → j < bs.length → u.byte (keyBslice core c (dst + o) + j) = bs.getD j 0) ∧
             (∀ x, (∀ c j, first ≤ c → c ≤ last → j < bs.length → x ≠ keyBslice core c (dst + o) + j) → u.byte x = s.byte x))) ∧
       (e = .cpy → (n.words.getD 5 0).getLsbD 62 = false →
         let o := (copyBlock (n.words.getD 2 0).toNat (n.words.getD 0 0).toNat n.posted).1
         let m := (copyBlock (n.words.getD 2 0).toNat (n.words.getD 0 0).toNat n.posted).2
         (∀ src, n.data = [] → reads (n.words.getD 1 0 + BitVec.ofNat 64 o) m src (nodeMove v n s)) ∧
         (∀ bs r q, n.data = bs :: r → bs ≠ [] → window (n.words.getD 2 0 + BitVec.ofNat 64 o) = some (.fabric, q) →
           nodeMove v n s = .error (0x06, 0, n.words.getD 2 0 + BitVec.ofNat 64 o)) ∧
         (∀ bs r dst, n.data = bs :: r → at_ (n.words.getD 2 0 + BitVec.ofNat 64 o) bs.length dst →
           ∃ u, nodeMove v n s = .ok u ∧ moved u ∧ writes u (keyScratch core dst) bs) ∧
         (∀ bs r l ks, n.data = bs :: r → bs ≠ [] →
           s.agentKeys n.fn v core (n.words.getD 2 0 + BitVec.ofNat 64 o) .write bs.length = .ok ks →
           s.agentLoc n.fn v core (n.words.getD 2 0 + BitVec.ofNat 64 o) .write = .ok l → (∀ d k, l ≠ .near d k) →
           ∃ u q, nodeMove v n s = .ok u ∧ moved u ∧ memSame s u ∧ (u.pdie (s.phys v)).sent = (s.pdie (s.phys v)).sent ++ [q] ∧
             q.req.op = .write bs ∧ q.req.loc = l ∧ q.req.node = n.id ∧ q.req.vdie = v)) ∧
       (e = .gath ∨ e = .scat →
         let sz := 2 ^ (n.words.getD 4 0).toNat
         let ia := n.words.getD 3 0 + BitVec.ofNat 64 (4 * n.posted)
         (∀ ix, n.data = [] → (ia.toNat % 4 ≠ 0 → nodeMove v n s = .error (0x05, 0, ia)) ∧
           (ia.toNat % 4 = 0 → reads ia 4 ix (nodeMove v n s))) ∧
         (∀ ib r, n.data = ib :: r →
           let far := fun (b : Word) => b + BitVec.ofNat 64 (ofBytes ib * sz)
           let near := fun (b : Word) => b + BitVec.ofNat 64 (n.posted * sz)
           let src := if e = .scat then near (n.words.getD 1 0) else far (n.words.getD 1 0)
           let dst := if e = .scat then far (n.words.getD 2 0) else near (n.words.getD 2 0)
           (∀ so, r = [] → src.toNat % sz = 0 → dst.toNat % sz = 0 → reads src sz so (nodeMove v n s)) ∧
           (∀ bs r' d, r = bs :: r' → at_ dst bs.length d →
             ∃ u, nodeMove v n s = .ok u ∧ moved u ∧ writes u (keyScratch core d) bs)))) ∧
     (jobLen e n.words ≤ n.posted →
       (writesApplied s n.id = false → nodeMove v n s = .error (0, 0, 0)) ∧
       (writesApplied s n.id = true →
         (n.words.getD 6 0 = 0 → ∃ u, nodeMove v n s = .ok u ∧ memSame s u ∧ ∀ m ∈ (u.vdie v).nodes, m.id = n.id → m.done = true) ∧
         (∀ b, n.words.getD 6 0 ≠ 0 → at_ (n.words.getD 6 0) 16 b → ∃ u, nodeMove v n s = .ok u ∧
           writes u (keyScratch core b) (barStep false (jobBytes e n.words) (s.bytes (keyScratch core b) 16)) ∧
           ∀ m ∈ (u.vdie v).nodes, m.id = n.id → m.done = true)))) ∧
  (∀ (s : State) (v : Nat) (n : Node), n.kind = .job .col →
   let h := n.words.getD 0 0
   (treeOf s n.fn h = none → nodeMove v n s = .error (0x0B, 0, 0)) ∧
   (∀ i t, treeOf s n.fn h = some (i, t) →
     let code := 128 * s.hub.modid.toNat + n.vcore
     let src := n.words.getD 1 0 + BitVec.ofNat 64 (n.posted * segSize t)
     let dst := n.words.getD 2 0 + BitVec.ofNat 64 (n.posted * segSize t)
     let mine := (membersAt t (nextSeg t code)).any fun m => decide (m.code = code)
     (n.posted < (n.words.getD 3 0).toNat →
       ((∀ o o', ¬ (window src = some (.local_, o) ∧ window dst = some (.local_, o'))) → nodeMove v n s = .error (0x06, 0, src)) ∧
       (∀ o o', window src = some (.local_, o) → window dst = some (.local_, o') →
         (src.toNat % 256 ≠ 0 → nodeMove v n s = .error (0x05, 0, src)) ∧
         (src.toNat % 256 = 0 → o + segSize t ≤ 2 ^ 23 → o' + segSize t ≤ 2 ^ 23 →
           (mine = false → nodeMove v n s = .error (0x0B, 0, 0)) ∧
           (mine = true → postsFull t code = true → nodeMove v n s = .ok s) ∧
           (mine = true → postsFull t code = false → ∃ ev : SegEv, ev.code = code ∧ ev.seg = nextSeg t code ∧ ev.res = some o' ∧
             ev.cx = n.cx ∧ ev.serial = n.serial ∧ ev.pc = n.pc ∧ ev.slot = n.slot ∧ nodeMove v n s = .ok (postLocal n.fn i n.vcore o ev
               (s.modNode v n.id fun m => { m with posted := n.posted + 1 })))))) ∧
     ((n.words.getD 3 0).toNat ≤ n.posted →
       ((∃ e ∈ t.segs, e.code = code ∧ e.localdone = false) → nodeMove v n s = .ok s) ∧
       ((∀ e ∈ t.segs, e.code = code → e.localdone = true) → n.words.getD 6 0 = 0 → ∃ u, nodeMove v n s = .ok u ∧ memSame s u ∧
         ∀ m ∈ (u.vdie v).nodes, m.id = n.id → m.done = true))))

/-! ### Trees (15 R273 to R283, 24 R381 to R386) -/

/-- R273 to R275, R278, R280 to R282: a bad handle takes trap 0x0B; TRMK makes an ACTIVE tree with the next generation or
gives 0; TRQ tells its state; TRFRZ freezes it; TRFREE frees it and charges open posts; TRWAIT waits for the event and, at
ALLDONE, merges what the posts brought (11 R199); TRPOST posts the core's next segment, or leaves it at its router while the
tree is frozen or saved; TREDIT queues an edit, which an ACTIVE tree applies at its boundary and any other one after TRLOAD (24
R386). TRFRZ, TRFREE and TREDIT of a tree with members on other modules ask those once and go on when all have answered; what the
context of a form that is gone has asked for holds no later one back.
Where the rules are open it rests on the model's choices in log 27. -/
def Obligations.TreeForms : Prop := ∀ (s : State) (seg a d aa : BitVec 6) (ev : TrEv) (i : Nat) (t : Tree), s.inElided = false →
  let f := s.myFn
  let h := rS s a
  let code := myCode s
  (treeOf s f h = none → ∀ j ∈ [Instr.trfree a, .trfrz a, .trwait a ev, .trload seg a], exec j s = .next (trap 0x0B 0 0 s)) ∧
  (∀ ws r, s.myPriv = true → recordAt s (rA s aa.toNat) 8 32 ws r → descOk ws = false → completes (.trmk d aa) s (setsS r d 0)) ∧
  (∀ ws es r w, s.myPriv = true → recordAt s (rA s aa.toNat) 8 32 ws r → descOk ws = true →
    recordAt r (ws.getD 1 0) 8 (8 * ((ws.getD 0 0).extractLsb' 32 16).toNat) es w →
    (treeOk s f ws es = false → completes (.trmk d aa) s (setsS w d 0)) ∧
    (treeOk s f ws es = true → freeTree (s.fn f) 16384 0 = some i → completes (.trmk d aa) s (fun u => ∃ n : Tree,
      u.tree f i = n ∧ givesS s d ((handleOf i n).setWidth 64) u ∧ memSame s u ∧ n.valid = true ∧ n.state = 0 ∧ n.seq = 0 ∧
      n.gen = ((s.tree f i).gen + 1) % 2 ^ 16 ∧ n.members = es.map memberOf ∧ n.kind = ((ws.getD 0 0).extractLsb' 62 2).toNat ∧
      n.op = ((ws.getD 0 0).extractLsb' 59 3).toNat ∧ n.fmt = ((ws.getD 0 0).extractLsb' 56 3).toNat ∧ n.posts = [] ∧ n.segs = []))) ∧
  (s.myPriv = false → exec (.trmk d aa) s = .next (trap 0x02 0 0 s)) ∧
  completes (.trq d a) s (setsS s d (if h.toNat < 2 ^ 32 ∧ h.extractLsb' 30 2 ≠ 0 ∧ (s.tree f (hIdx h)).valid = true ∧
    (h.extractLsb' 0 16).toNat = (s.tree f (hIdx h)).gen then treeWord (s.tree f (hIdx h)) else 3)) ∧
  (treeOf s f h = some (i, t) →
    (asking s t = false → t.state ≠ 0 → completes (.trfrz a) s (fun u => u = s.modTree f i fun t =>
      if t.state = 1 ∧ t.byStall ∧ t.stallAt = s.cycleG then { t with byStall := false, byHalt := false } else t)) ∧
    (let fresh := t.ask = none ∨ ∃ q, t.ask = some q ∧ q.cx = none ∧ q.owed = []
     let back := ∃ q, t.ask = some q ∧ q.cx = some s.cur ∧ q.owed = []
     (fresh → otherMods s t ≠ [] →
      let asks := fun (j : Instr) (c : TreeCmd) => exec j s = waitFor j ((sayMods f (handleOf i t) c (otherMods s t) s).modTree f i
        fun t => { t with ask := some { cx := some s.cur, owed := otherMods s t } })
      (t.state = 0 → asks (.trfrz a) (.freeze false)) ∧ asks (.trfree a) .free) ∧
     (¬ fresh → ¬ back →
      (t.state = 0 → exec (.trfrz a) s = waitFor (.trfrz a) s) ∧ exec (.trfree a) s = waitFor (.trfree a) s) ∧
     (∀ x, (fresh ∧ otherMods s t = [] ∧ x = s) ∨ (back ∧ x = s.modTree f i fun t => { t with ask := none }) →
      (t.state = 0 → completes (.trfrz a) s (fun u => u = x.modTree f i fun t =>
        { t with state := 1, byStall := false, byHalt := false })) ∧
      (t.segs = [] → completes (.trfree a) s (fun u => u = x.modTree f i fun t => { gen := t.gen })) ∧
      (∀ e c, t.segs = [e] → e.cx = some c → s.alive c e.serial = true → ∃ u, u = x.modTree f i (fun t => { gen := t.gen }) ∧
        exec (.trfree a) s = .next (trapAt c e.pc (slotBit e.slot) 0x0B 0 0 (u.nextPc c) u)))) ∧
    (nextSeg t code = 0 → completes (.trwait a ev) s (fun u => u = s)) ∧
    (0 < nextSeg t code → nextSeg t code ≤ t.seq →
      (ev ≠ .alldone → completes (.trwait a ev) s (fun u => u = s)) ∧
      (ev = .alldone → (s.covers s.myVdie t.doneClk = true → completes (.trwait a ev) s (fun u => u = mergeClock s.myVdie t.doneClk s)) ∧
        (s.covers s.myVdie t.doneClk = false → exec (.trwait a ev) s = waitFor (.trwait a ev) s))) ∧
    (∀ e, t.seq < nextSeg t code → t.segs.find? (fun e => e.code = code ∧ e.seg = nextSeg t code - 1) = some e →
      let there := match ev with | .srcfree => e.srcfree | .localdone => e.localdone | .alldone => false
      (there = true → completes (.trwait a ev) s (fun u => u = s)) ∧
      (there = false → exec (.trwait a ev) s = waitFor (.trwait a ev) s)) ∧
    (∀ ws r, recordAt s (rA s seg.toNat) 8 16 ws r →
      (editOk t (ws.getD 0 0) (ws.getD 1 0) = false → exec (.tredit seg a) s = .next (trap 0x0B 0 0 r)) ∧
      (editOk t (ws.getD 0 0) (ws.getD 1 0) = true → 8 ≤ t.edits.length → exec (.tredit seg a) s = waitFor (.tredit seg a) r) ∧
      (editOk t (ws.getD 0 0) (ws.getD 1 0) = true → t.edits.length < 8 →
        (t.ask = none → otherMods s t = [] → completes (.tredit seg a) s (fun u =>
          u = r.modTree f i fun t => Tree.passNow (queueEdit (ws.getD 0 0) (ws.getD 1 0) (boundOf t) t))) ∧
        (t.ask = none → otherMods s t ≠ [] → exec (.tredit seg a) s = waitFor (.tredit seg a)
          ((sayMods f (handleOf i t) .count (otherMods s t) r).modTree f i
            fun t => { t with ask := some { cx := some s.cur, owed := otherMods s t } })) ∧
        (∀ q, t.ask = some q → q.cx = some s.cur → q.owed ≠ [] → exec (.tredit seg a) s = waitFor (.tredit seg a) r) ∧
        (∀ q, t.ask = some q → q.cx = some s.cur → q.owed = [] → completes (.tredit seg a) s (fun u =>
          let b := max (boundOf t) q.count
          u = sayMods f (handleOf i t) (.edit ⟨ws.getD 0 0, ws.getD 1 0, b⟩) (otherMods s t)
            ((r.modTree f i fun t => { t with ask := none }).modTree f i fun t =>
              Tree.passNow (queueEdit (ws.getD 0 0) (ws.getD 1 0) b t)))))) ∧
    (∀ off core, window (rA s seg.toNat) = some (.local_, off) → (rA s seg.toNat).toNat % 256 = 0 → off + 2 * segSize t ≤ 2 ^ 23 →
      (membersAt t (nextSeg t code)).any (fun m => m.code = code) = true → postsFull t code = false →
      ((s.vdie s.myVdie).nodes.filter fun n => n.fn = f).length < 64 → s.quiet = true →
      s.vcorePhys f s.myVdie s.myCore = some core → s.myVdie < 8 → s.myCore < 16 → s.poisoned (keyScratch core off) (segSize t) = false →
      (∀ j, (s.ctx j).hold = none) → (∀ p ∈ t.held, p.code ≠ code) →
      completes (.trpost seg a) s (fun u => memSame s u ∧ rd 0 (u.tree f i).posts code = nextSeg t code + 1 ∧
        (∃ n, (u.vdie s.myVdie).nodes = (s.vdie s.myVdie).nodes ++ [n] ∧ n.id = nextId s ∧ n.kind = .treeOp ∧ n.started = true) ∧
        (t.state = 0 → t.kind ≠ 2 → (u.tree f i).flits = t.flits ++
          [{ flitTo ⟨1, s.hub.modid.toNat, s.myVdie, s.myCore⟩ (nextSeg t code) (some 0) (s.bytes (keyScratch core off) (segSize t)) with
             clk := (s.vdie s.myVdie).clock }]) ∧
        ((t.state = 2 ∨ (t.state = 1 ∧ t.byStall = false)) → (u.tree f i).held = t.held ++
          [⟨code, 16 * s.myVdie + s.myCore, nextSeg t code, off⟩]))))

/-- R276, R277, R279, R283, 24 R381 to R385: children fold in their order; a flit at a router with a slot folds or lands;
a router without one takes a slot while it has room, and waits when none can be evicted; a tree without progress freezes;
the oldest drain-queue entry is posted, or dropped with trap 0x0B; TRSAVE waits for flits on their way, writes the block of a
frozen tree and saves it, TRLOAD thaws a frozen tree and loads a saved one from a block of its own.
Where the rules are open it rests on the model's choices in logs 7, 14, 27 and 41. -/
def Obligations.TreeTransport : Prop := ∀ (s : State) (f i k : Nat) (fl : TFlit) (seg a : BitVec 6) (t : Tree) (core : Nat),
  (∀ op fmt (x : List Byte) (xs : List (List Byte)) (n : TNode), n.folded = 0 →
    n.kids = (List.range (xs.length + 1)).map (fun j => (j, (x :: xs).getD j [])) →
    (foldKids op fmt (xs.length + 2) n).acc = xs.foldl (combine op fmt) x ∧
    (foldKids op fmt (xs.length + 2) n).folded = xs.length + 1) ∧
  (s.tree f i = t → t.flits[k]? = some fl → t.valid = true → t.state = 0 → fl.level ≠ 0 →
    let u := s.modTree f i fun t => { t with flits := t.flits.eraseIdx k, stallAt := s.cycleG }
    (t.slots.contains fl.rtr.code = false → completes (.treeFlitArrive f i k) s (fun r => r = s)) ∧
    (t.slots.contains fl.rtr.code = true →
      (∀ c, fl.child = some c → completes (.treeFlitArrive f i k) s (fun r => memSame s r ∧
        r = foldIn f i fl.rtr fl.seg c fl.data fl.clk u)) ∧
      (fl.child = none → fl.level ≠ 1 → completes (.treeFlitArrive f i k) s (fun r => memSame s r ∧
        r = sendFlits f i fl.rtr (spread t (membersAt t fl.seg) fl.rtr fl.seg fl.data fl.clk) u)) ∧
      (fl.child = none → fl.level = 1 → fl.vdie < 8 → fl.core < 16 → s.covers fl.vdie fl.clk = false →
        completes (.treeFlitArrive f i k) s (fun r => r = s)) ∧
      (∀ e o p, fl.child = none → fl.level = 1 → fl.vdie < 8 → fl.core < 16 → t.kind ≠ 2 →
        t.segs.find? (fun e => e.code = mcode fl.modid fl.vdie fl.core ∧ e.seg = fl.seg) = some e → e.res = some o →
        (∀ x ∈ t.segs, x.code = e.code → x.seg < fl.seg → x.localdone = true) → s.vcorePhys f fl.vdie fl.core = some p →
        (∀ j, (s.ctx j).hold = none) → s.covers fl.vdie fl.clk = true → completes (.treeFlitArrive f i k) s (fun r =>
          ∀ x, r.byte x = if keyScratch p o ≤ x ∧ x < keyScratch p o + fl.data.length then fl.data.getD (x - keyScratch p o) 0 else s.byte x))) ∧
    (t.slots.contains fl.rtr.code = false →
      ((slotsAt s f fl.rtr).length < slotCap fl.level → fl.rtr.code ∉ t.spilled →
        completes (.treeSlotFault f i k) s (fun r => r = s.modTree f i fun t => { t with slots := t.slots ++ [fl.rtr.code] })) ∧
      (slotCap fl.level ≤ (slotsAt s f fl.rtr).length → evictOne f fl.rtr s = none →
        completes (.treeSlotFault f i k) s (fun r => r = s)))) ∧
  (s.tree f i = t → t.valid = true → t.state = 0 →
    ((topOf t.members t.root).modid = s.hub.modid.toNat → completes (.treeStallTimeout f i) s (fun r =>
      t.stallAt + 1000 * (if t.stall = 0 then 1000 else t.stall) ≤ r.cycleG ∧ memSame s r ∧
      r.tree f i = { t with state := 1, byStall := true, stallAt := r.cycleG })) ∧
    ((topOf t.members t.root).modid ≠ s.hub.modid.toNat → completes (.treeStallTimeout f i) s (fun r => r = s))) ∧
  (∀ e rest, (s.core core).drainQ = e :: rest →
    (treeOf s e.fn (e.handle.setWidth 64) = none → completes (.drainQueuePost core) s (fun r => memSame s r ∧
      (r.core core).drainQ = rest ∧ (s.alive e.cx e.serial = true → ∃ u, (u.ctx e.cx) = s.ctx e.cx ∧
        r = trapAt e.cx e.pc (slotBit e.slot) 0x0B 0 0 (u.nextPc e.cx) u))) ∧
    (∀ j, treeOf s e.fn (e.handle.setWidth 64) = some (j, t) → t.kind = 1 → e.dst = 0 → e.data.length ≤ segSize t →
      let code := mcode s.hub.modid.toNat (e.vcore / 16) (e.vcore % 16)
      (membersAt t (nextSeg t code)).any (fun m => m.code = code) = true → receives t code (nextSeg t code) = false → t.state = 0 →
      postsFull t code = false → (s.fn e.fn).halted = false → e.vcore < 128 → (∀ p ∈ t.held, p.code ≠ code) →
      completes (.drainQueuePost core) s (fun r => memSame s r ∧ (r.core core).drainQ = rest ∧
        rd 0 (r.tree e.fn j).posts code = nextSeg t code + 1 ∧ (r.tree e.fn j).flits = t.flits ++
          [{ flitTo ⟨1, s.hub.modid.toNat, e.vcore / 16, e.vcore % 16⟩ (nextSeg t code) (some 0)
            (e.data ++ List.replicate (segSize t - e.data.length) (0 : Byte)) with clk := (s.vdie (e.vcore / 16)).clock }]))) ∧
  (s.inElided = false → treeOf s s.myFn (rS s a) = some (i, t) →
    let x := rA s seg.toNat
    (t.state = 0 → completes (.trload seg a) s (fun r => r = s)) ∧
    (t.state = 1 → t.held = [] → completes (.trload seg a) s (fun r => memSame s r ∧
      r.tree s.myFn i = Tree.passAll { t with state := 0, byStall := false, byHalt := false, stallAt := s.cycleG })) ∧
    (x.toNat % 4096 ≠ 0 → (t.state = 2 → exec (.trload seg a) s = .next (trap 0x05 0 x s)) ∧
      exec (.trsave seg a) s = .next (trap 0x05 0 x s)) ∧
    (x.toNat % 4096 = 0 → x.toNat < 2 ^ 48 → s.quiet = true →
      (t.state ≠ 1 → exec (.trsave seg a) s = .next (trap 0x0B 0 0 s)) ∧
      (∀ ks, t.state = 1 → t.nodes = [] → t.spilled = [] → t.flits = [] → t.held = [] → t.ask = none → otherMods s t = [] →
        s.mayStore s.myVdie = true → s.linkedTo (s.cur / 64) s.myFn s.myVdie (s.cur / 4) x .write 0x5000 = true →
        flitsRide s s.myFn i = false →
        let bs := blockBytes i t false 2 []
        s.agentKeys s.myFn s.myVdie (s.cur / 4) x .write bs.length = .ok ks → ks.Nodup → completes (.trsave seg a) s (fun r =>
          (r.tree s.myFn i).state = 2 ∧ (r.tree s.myFn i).slots = [] ∧
          (∀ j < bs.length, r.byte (ks.getD j 0) = bs.getD j 0) ∧ ∀ y, y ∉ ks → r.byte y = s.byte y)) ∧
      (t.state = 1 → flitsRide s s.myFn i = true → exec (.trsave seg a) s = waitFor (.trsave seg a) s) ∧
      (∀ hd, t.state = 2 → t.nodes = [] → t.held = [] → t.segs = [] → t.members ≠ [] →
        s.linkedTo (s.cur / 64) s.myFn s.myVdie (s.cur / 4) x .read 0x5000 = true → s.agentRead s.myFn s.myVdie (s.cur / 4) x 0x5000 = .ok hd →
        let w := fun j => (wordsOf 512 hd).getD j 0
        w 0 = 2 ^ 56 ||| (handleOf i t).setWidth 64 → w 1 = entry0 t 2 → (w 2).extractLsb' 0 32 = 0 → w 3 = 0 →
        (∀ j < 512, 4 ≤ j → w j = 0) → t.edits = [] → completes (.trload seg a) s (fun r => memSame s r ∧
          (r.tree s.myFn i).state = 0 ∧ (r.tree s.myFn i).seq = ((w 2).extractLsb' 32 32).toNat ∧
          (r.tree s.myFn i).posts = blockPosts { t with seq := ((w 2).extractLsb' 32 32).toNat } hd))))

/-! ### Loop-nest collectives (15 R284 to R286, 24 R387, R388) -/

/-- R284 to R286, R387, R388: CLNEST numbers an accepted collective and gives it a node, or gives 0; its engine emits one transfer
per iteration, with the peer, source and destination that the sums give; a chunk of the attempt
under way is written and counted, any other is dropped, and one from another die waits as a write does (11 R197); when the
expected bytes have come LOCALDONE occurs with its BARA; CLABORT ends a remembered number at its core and tells its ranks, where
it ends too; CLEV waits for its
event; an abort for rerun starts a new attempt, stopped, and a resume lets it go on. Iterations run in lexicographic
order.
Where the rules are open it rests on the model's choices in logs 14, 23 and 33. -/
def Obligations.LoopNests : Prop := ∀ (s : State) (d aa a : BitVec 6) (ev : TrEv) (core k fn : Nat) (n : BitVec 32),
  let me := s.cur / 4
  let f := s.myFn
  let m := rd 0 (s.core me).clCtr f + 1
  let ended := fun (c : ClState) => c.cancelled = true ∧ c.stopped = true ∧ c.srcfree = true ∧ c.localdone = true ∧ c.alldone = true
  (s.inElided = false → ((s.vdie s.myVdie).nodes.filter fun n => n.fn = f).length < 64 → ∀ ws es,
    ∀ u r, recordAt s (rA s aa.toNat) 64 128 ws u →
    (nestOk ws = false → completes (.clnest d aa) s (setsS u d 0)) ∧
    (nestOk ws = true → recordAt u (ws.getD 1 0) 8 (8 * nGsize ws) es r →
      (groupOk ws es = false → completes (.clnest d aa) s (setsS r d 0)) ∧
      (groupOk ws es = true → (∀ w ∈ es, (memberOf w).code ≠ myCode s) → exec (.clnest d aa) s = .next (trap 0x0B 0 0 r)) ∧
      (groupOk ws es = true → (∃ w ∈ es, (memberOf w).code = myCode s) → (s.core me).nest f m = none → 0 < nExpin ws →
        completes (.clnest d aa) s (fun t => givesS s d (m.setWidth 64) t ∧ memSame s t ∧
          (∃ x, (t.vdie s.myVdie).nodes = (s.vdie s.myVdie).nodes ++ [x] ∧ x.id = nextId s ∧ x.kind = .clnest) ∧
          ∃ c, (t.core me).nest f m = some c ∧ c.rcd = ws ∧ c.group = es ∧ c.accepted = true ∧ c.node = nextId s ∧ c.next = 0 ∧
            c.received = 0 ∧ c.attempt = 0 ∧ c.srcfree = false ∧ c.localdone = false ∧ c.alldone = false)))) ∧
  (s.inElided = false → rS s a = n.setWidth 64 →
    (remembered (s.core me) f n = none → completes (.clabort a) s (fun t => t = s) ∧ completes (.clev a ev) s (fun t => t = s)) ∧
    (∀ c, remembered (s.core me) f n = some c →
      (∀ r, (s.core me).nest f n = some c → r ∈ ranksOf c → s.rankCore f r = some me → completes (.clabort a) s (fun t => memSame s t ∧
        (∃ c', (t.core me).nest f n = some c' ∧ ended c') ∧
        ∀ r' ∈ ranksOf c, ∀ p, s.rankCore f r' = some p → p ≠ me → p / 16 = me / 16 → ∃ x ∈ (t.pdie (me / 16)).rides,
          x.dst = p % 16 ∧ ∃ q, x.msg.body = .nest f n q r' .cancel)) ∧
      (let there := match ev with | .srcfree => c.srcfree | .localdone => c.localdone | .alldone => c.alldone
       (there = true → completes (.clev a ev) s (fun t => t = s)) ∧
       (there = false → exec (.clev a ev) s = waitFor (.clev a ev) s)))) ∧
  (∀ x c, (s.core core).chunks[k]? = some x → (∀ i, (s.ctx i).hold = none) → (s.core core).nest x.fn x.n = some c →
    let h := s.virt (core / 16)
    let u := if x.clk = [] then s else rechain h x.vdie s
    (x.clk ≠ [] → u.mayStamp h x.vdie x.clk = false → completes (.clnestTransferArrive core k) s (fun t => t = u)) ∧
    ((x.clk = [] ∨ u.mayStamp h x.vdie x.clk = true) →
     ((c.cancelled = true ∨ c.attempt ≠ x.attempt) → completes (.clnestTransferArrive core k) s (fun t =>
       t = moveOver x (u.modCore core fun c => { c with chunks := c.chunks.eraseIdx k }))) ∧
     (c.cancelled = false → c.attempt = x.attempt → (c.accepted = false ∨ c.received + x.data.length < nExpin c.rcd) →
       completes (.clnestTransferArrive core k) s (fun t => (t.core core).chunks = (s.core core).chunks.eraseIdx k ∧
         (t.core core).nest x.fn x.n = some { c with received := c.received + x.data.length } ∧
         ∀ y, t.byte y = if keyScratch core x.dst ≤ y ∧ y < keyScratch core x.dst + x.data.length then
           x.data.getD (y - keyScratch core x.dst) 0 else s.byte y)) ∧
     (c.cancelled = false → c.attempt = x.attempt → c.accepted = true → c.localdone = false → nExpin c.rcd ≤ c.received + x.data.length →
       let kb := keyScratch core ((nBar c.rcd).getD 0)
       (∀ o, nBar c.rcd = some o → o + 16 ≤ x.dst ∨ x.dst + x.data.length ≤ o) →
       completes (.clnestTransferArrive core k) s (fun t =>
         (∃ c', (t.core core).nest x.fn x.n = some c' ∧ c'.localdone = true ∧ c'.received = c.received + x.data.length) ∧
         ∀ y, t.byte y = if keyScratch core x.dst ≤ y ∧ y < keyScratch core x.dst + x.data.length then
             x.data.getD (y - keyScratch core x.dst) 0
           else if (nBar c.rcd).isSome = true ∧ kb ≤ y ∧ y < kb + 16 then
             (barStep false (nExpin c.rcd) (s.bytes kb 16)).getD (y - kb) 0 else s.byte y)))) ∧
  (∀ v (x : Node) c, x.kind = .clnest → s.subCore x = some core → (s.core core).cls.find? (fun c => c.node = x.id) = some c →
    c.alldone = false → c.stopped = false → c.next < nTotal c.rcd →
    let ws := c.rcd
    let is := nIndex ws (nLev ws) c.next
    let sum := fun (q : Nat → Int) => (List.range (nLev ws)).foldl (fun (z : Int) l => z + q l * (is.getD l 0 : Nat)) 0
    let peer := ((nBase ws : Int) + sum (nPeer ws)) % (nGsize ws : Int)
    let src := ((ws.getD 0 0).toNat : Int) - winBase .local_ + sum (nSst ws)
    let dst := (nDst ws : Int) + sum (nDstr ws)
    let sa := BitVec.ofInt 64 ((winBase .local_ : Int) + src)
    let inside := 0 ≤ src ∧ src + nChunk ws ≤ 2 ^ 23 ∧ 0 ≤ dst ∧ dst + nChunk ws ≤ 2 ^ 23
    ((src < 0 ∨ 2 ^ 23 < src + nChunk ws) → nodeMove v x s = .error (0x06, 0, sa)) ∧
    (0 ≤ src → src + nChunk ws ≤ 2 ^ 23 → (dst < 0 ∨ 2 ^ 23 < dst + nChunk ws) → nodeMove v x s = .error (0x06, 0, BitVec.ofInt 64 dst)) ∧
    (inside → (∀ w ∈ c.group, ((memberOf w).rank : Int) ≠ peer) → nodeMove v x s = .error (0x04, 0, sa)) ∧
    (∀ w r bs u, inside → c.group.find? (fun w => ((memberOf w).rank : Int) = peer) = some w →
      (memberOf w).code / 128 = s.hub.modid.toNat → s.rankCore c.fn (memberOf w).code = some r → r / 16 = core / 16 →
      jobRead v x sa (nChunk ws) s = .ok (bs, u) → (s.core core).nest c.fn c.n = some c →
      ∃ t q, nodeMove v x s = .ok t ∧ memSame s t ∧ q.fn = c.fn ∧ q.n = c.n ∧ q.attempt = c.attempt ∧ q.rank = (memberOf w).code ∧
        q.src = 128 * s.hub.modid.toNat + x.vcore ∧ (q.dst : Int) = dst ∧ q.data = bs ∧
        (t.core core).nest c.fn c.n = some { c with next := c.next + 1, srcfree := c.srcfree || decide (c.next + 1 = nTotal ws) } ∧
        (r = core → (t.core core).chunks = (s.core core).chunks ++ [q]) ∧
        (r ≠ core → ∃ y ∈ (t.pdie (core / 16)).rides, y.pos = core % 16 ∧ y.dst = r % 16 ∧ y.leaves = false ∧ y.msg.body = .chunk q))) ∧
  (∀ c src dst, (s.core core).nest fn n = some c →
    let one := fun (m : NestCmd) => (s.core core).nestIn = [(fn, n, src, dst, m)]
    (one .rerun → completes (.clnestAbortRerun core fn n) s (fun t => memSame s t ∧
      (s.rankCore fn src ≠ some core → (t.core core).nestIn = []) ∧ (t.core core).nest fn n =
        some { c with stopped := true, received := 0, next := 0, farFull := [], attempt := (c.attempt + 1) % 256 })) ∧
    (one .resume → c.received < nExpin c.rcd → completes (.clnestResume core fn n) s (fun t => memSame s t ∧
      (t.core core).nestIn = [] ∧ (t.core core).nest fn n = some { c with stopped := c.cancelled })) ∧
    (one .cancel → let t := nestStep core 0 s
      memSame s t ∧ (t.core core).nestIn = [] ∧ ∃ c', (t.core core).nest fn n = some c' ∧ ended c')) ∧
  (∀ ws L j, (∀ l < L, 0 < nBound ws l) → j < (List.range L).foldl (fun p l => p * nBound ws l) 1 →
    (nIndex ws L j).length = L ∧ (∀ l < L, (nIndex ws L j).getD l 0 < nBound ws l) ∧
    (List.range L).foldl (fun x l => x * nBound ws l + (nIndex ws L j).getD l 0) 0 = j)

/-! ### Replayed objects (16 R287 to R300) -/

/-- R293 to R297, R300: a call goes to the object's home, which appends it at the next position and answers the position; each
die's engine applies the positions in order to its own copy, and a trap of a method poisons the object at its position;
ROCALL.w takes the result, RORD runs on the copy of its die, if its context still runs and its method is still there and read-only. A
bad handle, method or object takes trap 0x0C.
A call and a read of an object wait for the earlier reads of their context (11 R207). The engine of a die takes the objects in
turn, and the positions of one in order; a position that a soft error poisons takes the dies past it back (R300).
R287 to R290, R298 to R300: ROMK makes an object at the lowest free index with a new generation, or gives 0, and repairs a
poisoned one once every die stands at its position and its callers have their trap; ROFREE frees it
and drops its waiting reads, whose contexts, as those that wait in ROCALL.w, take trap 0x0C; ROTRIM trims what every die has applied; ROQ tells its state; RORET outside an engine takes
trap 0x0C.
Where the rules are open it rests on the model's choices in logs 23 and 32. -/
def Obligations.Objects : Prop :=
  (∀ (s : State) (d a m : BitVec 6) (i : Nat) (o : Obj) (die k : Nat),
   let f := s.myFn
   let args := [rS s d, rS s (d + 1), rS s (d + 2), rS s (d + 3)]
   (s.inElided = false → objOf s f (rS s a) = none →
     let bad := trap 0x0C 0 0 (s.mod fun c => { c with waitKey := none })
     exec (.rocall d a m) s = .next (trap 0x0C 0 0 s) ∧ exec (.rocallW d a m) s = .next bad ∧
     (s.me.waitKey ≠ some 1 → exec (.rord d a m) s = .next bad)) ∧
   (s.inElided = false → objOf s f (rS s a) = some (i, o) →
     let call := fun (w : Bool) (dest : Dest) => request (.object o.home f i) (.rocall ((rS s a).setWidth 32) m.toNat args w) dest 0 false s
     (callOk o m.toNat = false → exec (.rocall d a m) s = .next (trap 0x0C 0 0 s)) ∧
     (callOk o m.toNat = true → s.readsOpen = true → exec (.rocall d a m) s = waitFor (.rocall d a m) s ∧
       (s.me.waitKey = none → exec (.rocallW d a m) s = waitFor (.rocallW d a m) s)) ∧
     (callOk o m.toNat = true → s.readsOpen = false → completes (.rocall d a m) s (fun t => t = call false (.call d.toNat)) ∧
       (s.me.waitKey = none → exec (.rocallW d a m) s = waitFor (.rocallW d a m)
         ((call true (.callW d.toNat)).mod fun c => { c with waitKey := some s.me.po }))) ∧
     (∀ p r st, s.me.waitKey = some (2 ^ 64 + p) → look o.results p = some (r, st) → s.covers s.myVdie st = true →
       completes (.rocallW d a m) s (fun t => givesS s d r t ∧ t.me.waitKey = none ∧ look (t.obj f i).results p = none ∧ memSame s t)) ∧
     (s.me.waitKey = none → (o.method m.toNat).any mRo = false → exec (.rord d a m) s = .next (trap 0x0C 0 0 s)) ∧
     (s.me.waitKey = none → (o.method m.toNat).any mRo = true → s.readsOpen = true → exec (.rord d a m) s = waitFor (.rord d a m) s) ∧
     (s.me.waitKey = none → (o.method m.toNat).any mRo = true → s.readsOpen = false → ∃ u r, exec (.rord d a m) s = waitFor (.rord d a m) u ∧
       (u.vdie s.myVdie).roReads = (s.vdie s.myVdie).roReads ++ [r] ∧ r.args = args ∧ r.m = m.toNat ∧ r.dest = d.toNat ∧
       r.clk = (s.vdie s.myVdie).clock ∧ u.me.waitKey = some 0)) ∧
   (s.inElided = false → s.me.waitKey = some 1 → completes (.rord d a m) s (fun t => t = s.mod fun c => { c with waitKey := none })) ∧
   (∀ r h x args' w g j, (s.pdie die).pend[k]? = some r → r.op = .rocall h x args' w → r.loc = .object r.loc.home g j → s.mayApply r = true →
     (objOf s g (h.setWidth 64) = none → completes (.rocallAppend die k) s (fun t => t = answer die k r (replyTo r [] [] 0 0x0C 0) s)) ∧
     (∀ o', objOf s g (h.setWidth 64) = some (j, o') →
       let u := trimHome r.loc.home s
       let q := u.obj g j
       (callOk q x = false → completes (.rocallAppend die k) s (fun t => t = answer die k r (replyTo r [] [] 0 0x0C 0) s)) ∧
       (k = 0 → callOk q x = true → q.log.length < 2 ^ q.logLog2 → completes (.rocallAppend die k) s (fun t => ∃ c : Call,
         c.m = x ∧ c.args = args' ∧ c.fromDie = r.vdie ∧ c.stamp = r.clk ∧ c.wait = w ∧
         t = answer die k r (replyTo r (toBytes 8 (q.base + q.log.length)) [] 0 0 0)
           (u.modObj g j fun y => { y with log := y.log ++ [c] }))))) ∧
   (∀ g j c, die < 8 →
     let q := s.obj g j
     let p := rd 0 q.applied die
     (nextObj s die ≠ some (g * 1024 + j) → completes (.replayApply die g j) s (fun t => t = s)) ∧
     (nextObj s die = some (g * 1024 + j) → q.poison = none → q.log[p - q.base]? = some c →
     let run := runRepaired (s.modVdie die fun v => { v with engObj := g * 1024 + j + 1 }) g die q ((q.method c.m).getD 0) c.args p
     (∀ y r held, run = (y, .ok (r, held)) → completes (.replayApply die g j) s (fun t => memSame s t ∧
       (∀ v, rd 0 (t.obj g j).applied v = if v = die then p + 1 else rd 0 y.applied v) ∧ (t.obj g j).log = y.log ∧
       (t.obj g j).copies = (if mRo ((q.method c.m).getD 0) then y.copies
         else held.foldl (fun m k => wr 0 m (2 ^ 16 * die + k.1) k.2) y.copies))) ∧
     (∀ y x, run = (y, .error x) → c.wait = true → completes (.replayApply die g j) s (fun t => memSame s t ∧
       t.obj g j = rollBack die p { y with poison := some (p, x, c.m) })))) ∧
   (∀ q p v, die < 8 →
     let y := rollBack die p q
     ((∀ d < 8, rd 0 q.applied d ≤ p) → y.applied = q.applied ∧ y.copies = q.copies ∧ y.bad = q.bad) ∧
     (rd 0 q.applied die = p → v < 8 → p < rd 0 q.applied v → rd 0 y.applied v = p ∧
       ∀ b < q.ssize, q.ssize ≤ 2 ^ 16 → rd 0 y.copies (2 ^ 16 * v + b) = rd 0 q.copies (2 ^ 16 * die + b))) ∧
   (∀ r, (s.vdie die).roReads = [r] → s.runs r.cx r.serial = false → completes (.rordServe die 0) s (fun t =>
     t = s.modVdie die fun d => { d with roReads := [] })) ∧
   (∀ r, (s.vdie die).roReads = [r] → readReady s die r = true → s.runs r.cx r.serial = true →
     objOf s r.fn (r.handle.setWidth 64) = some (i, o) → (o.method r.m).any mRo = false → ∃ u, u = s.modVdie die (fun d => { d with roReads := [] }) ∧
       exec (.rordServe die 0) s = .next (trapAt r.cx r.pc (slotBit r.slot) 0x0C 0 0 (s.nextPc r.cx) u)) ∧
   (∀ r y e x, (s.vdie die).roReads = [r] → readReady s die r = true → s.runs r.cx r.serial = true →
     objOf s r.fn (r.handle.setWidth 64) = some (i, o) → o.method r.m = some e → mRo e = true → r.dest < 64 →
     runRepaired s r.fn die o e r.args (rd 0 o.applied die) = (y, .ok x) → completes (.rordServe die 0) s (fun t => memSame s t ∧
       (t.vdie die).roReads = [] ∧ (t.ctx r.cx).waitKey = some 1 ∧ sOf t r.cx r.dest = (if r.dest = 0 then 0 else x.1)))) ∧
  (∀ (s : State) (d a aa : BitVec 6), s.inElided = false →
   let f := s.myFn
   exec (.roret a) s = .next (trap 0x0C 0 0 s) ∧
   (s.myPriv = false → exec (.romk d aa) s = .next (trap 0x02 0 0 s)) ∧
   (objOf s f (rS s a) = none → completes (.roq d a) s (setsS s d 3) ∧
     ∀ i ∈ [Instr.rofree a, .rotrim a], exec i s = .next (trap 0x0C 0 0 s)) ∧
   (∀ i o, objOf s f (rS s a) = some (i, o) →
     completes (.roq d a) s (setsS s d (match o.poison with
       | none => BitVec.ofNat 64 (rd 0 o.applied s.myVdie % 2 ^ 32 * 2 ^ 32 + o.log.length * 2 ^ 15)
       | some (p, c, m) => BitVec.ofNat 64 (p % 2 ^ 32 * 2 ^ 32 + o.log.length * 2 ^ 15 + c * 2 ^ 10 + m * 2 ^ 4 + 1))) ∧
     completes (.rofree a) s (fun t => t.obj f i = { gen := o.gen } ∧ memSame s t ∧ objOf t f (rS s a) = none ∧
       ∀ v, ∀ r ∈ (t.vdie v).roReads, ¬ (r.fn = f ∧ r.handle = objHandle i o)) ∧
     (o.home < 8 → completes (.rotrim a) s (fun t => memSame s t ∧
       (let n := (List.range 8).foldl (fun m x => min m (rd 0 o.applied x)) (rd 0 o.applied o.home)
        (t.obj f i).base = max o.base n ∧ (t.obj f i).log = o.log.drop (n - o.base) ∧ (t.obj f i).copies = o.copies)))) ∧
   (∀ ws img ms u r w, s.myPriv = true → recordAt s (rA s aa.toNat) 8 32 ws u →
     (objOk ws = false → completes (.romk d aa) s (setsS u d 0)) ∧
     (objOk ws = true → recordAt u (ws.getD 0 0) 64 (oSize ws) img r → recordAt r (ws.getD 2 0) 8 (8 * oMeths ws) ms w → oRepair ws = false →
       ((ms.all methOk = false ∨ freeIdx (s.fn f) 1024 0 = none) → completes (.romk d aa) s (setsS w d 0)) ∧
       (∀ i, ms.all methOk = true → freeIdx (s.fn f) 1024 0 = some i → completes (.romk d aa) s (fun t => ∃ o : Obj, t.obj f i = o ∧
         givesS s d ((objHandle i o).setWidth 64) t ∧ memSame s t ∧ o.live = true ∧ o.gen = ((s.obj f i).gen + 1) % 2 ^ 16 ∧
         o.home = oHome ws ∧ o.ssize = oSize ws ∧ o.logLog2 = oLog ws ∧ o.meths = ms ∧ o.log = [] ∧ o.poison = none ∧
         ∀ v < 8, ∀ j < oSize ws, rd 0 o.copies (2 ^ 16 * v + j) = (bytesOfWords img).getD j 0))) ∧
     (objOk ws = true → recordAt u (ws.getD 0 0) 64 (oSize ws) img r → recordAt r (ws.getD 2 0) 8 (8 * oMeths ws) ms w → oRepair ws = true →
       ((ms.all methOk = false ∨ repairOf w ws = none) → completes (.romk d aa) s (setsS w d 0)) ∧
       (∀ i o p x, ms.all methOk = true → repairOf w ws = some (i, o) → o.poison = some (p, x) →
         let early := (∃ v < 8, rd 0 o.applied v ≠ p) ∨ poisonOwed w o p = true
         (early → exec (.romk d aa) s = waitFor (.romk d aa) w) ∧
         (¬ early → completes (.romk d aa) s (fun t => memSame s t ∧ givesS s d ((objHandle i o).setWidth 64) t ∧
           (t.obj f i).poison = none ∧ (t.obj f i).meths = ms ∧ (t.obj f i).log = o.log ∧
           ∀ v < 8, rd 0 (t.obj f i).applied v = (if oSkip ws then p + 1 else p) ∧
             ∀ j < oSize ws, rd 0 (t.obj f i).copies (2 ^ 16 * v + j) = (bytesOfWords img).getD j 0))))))

/-! ### Traps and recovery (23 R359 to R379, 01 R13, R17) -/

/-- R41, R347, R360, R361, R363: a trap saves the bundle's address, its code and its slot in TRAPPC, TRAPCODE and TRAPMASK and
halts the context with its registers and every byte as they are; its stop record is written, with every field, and the halt line
rises; 0x03,
0x04, 0x06 and 0x10 also freeze the function, with the code in FSTAT. A further code of the bundle keeps the lowest one. A trap of an
access whose task has left its context (10 R184) does the same but for the registers of another task.
Where the rules are open it rests on the model's choices in logs 11 and 40. -/
def Obligations.TakingATrap : Prop := ∀ (s : State) (i : Nat) (pc a stop : Word) (mask code detail : BitVec 8) (k : Task),
  let c := s.ctx i
  let t := trapAt i pc mask code detail a stop s
  c.task = some k →
  (let c' := t.ctx i
   c'.mode = .halted ∧ c'.trapPC = pc ∧ c'.regs = c.regs ∧ c'.mat = c.mat ∧ c'.task = c.task ∧ c'.hold = none ∧ c'.region ≠ .locked ∧
   (c.mode ≠ .halted → c'.trapCode = code ∧ c'.trapMask = mask) ∧
   (c.mode = .halted → c'.trapMask = c.trapMask ||| mask ∧
     c'.trapCode.toNat = min c.trapCode.toNat code.toNat)) ∧
  memSame s t ∧ (∀ j, j ≠ i → t.ctx j = s.ctx j) ∧ (t.fn k.fn).halted = true ∧
  (c.mode ≠ .halted → (s.fn k.fn).recs.length < 1024 → k.vdie < 8 → k.vcore < 16 → k.fn < 8 → k.n < 2 ^ 32 →
    (∀ x, c.mat.running = some x → x.left < 2 ^ 13) →
    (t.fn k.fn).recs.length = (s.fn k.fn).recs.length + 1 ∧ ∃ r ∈ (t.fn k.fn).recs, r.length = 8 ∧
      (let w := r.getD 0 0
       w.extractLsb' 56 8 = code ∧ w.extractLsb' 52 4 = mask.extractLsb' 0 4 ∧ w.extractLsb' 48 4 = mask.extractLsb' 4 4 ∧
       w.extractLsb' 45 3 = 0 ∧ (w.extractLsb' 42 3).toNat = k.vdie ∧ (w.extractLsb' 38 4).toNat = k.vcore ∧
       (w.extractLsb' 36 2).toNat = i % 4 ∧ (w.extractLsb' 33 3).toNat = k.fn ∧
       w.getLsbD 32 = decide ((s.fn k.fn).recs = []) ∧ w.extractLsb' 24 8 = detail ∧ w.extractLsb' 0 24 = 0) ∧
      r.getD 1 0 = pc ∧ r.getD 2 0 = a ∧ ((r.getD 3 0).extractLsb' 32 32).toNat = k.n ∧ (r.getD 3 0).extractLsb' 0 32 = k.lnch ∧
      r.getD 4 0 = stop ∧ (r.getD 5 0).getLsbD 63 = k.lflags.getLsbD 28 ∧
      ((r.getD 5 0).extractLsb' 0 13).toNat = (match c.mat.running with | some x => x.left | none => 0) ∧
      r.getD 6 0 = BitVec.ofNat 64 s.cycleG ∧ r.getD 7 0 = 0 ∧ ((s.fn k.fn).recs = [] → (t.fn k.fn).recs = [r])) ∧
  ((s.fn k.fn).frozen = false → ((t.fn k.fn).frozen = true ↔ code = 0x03 ∨ code = 0x04 ∨ code = 0x06 ∨ code = 0x10) ∧
    ((t.fn k.fn).frozen = true → k.vdie < 8 → k.vcore < 16 → ((t.fn k.fn).fcause.extractLsb' 54 8) = code)) ∧
  (∀ r : Req, let u := lateTrap i r code detail s
   memSame s u ∧ (∀ j, j ≠ i → u.ctx j = s.ctx j) ∧ (u.fn r.fn).halted = true ∧
   u.ctx i = (if c.serial = r.serial then { c with trapPC := r.pc, trapCode := code, trapMask := slotBit r.slot } else c) ∧
   ((s.fn r.fn).recs.length < 1024 → ∃ q ∈ (u.fn r.fn).recs, q.length = 8 ∧ (q.getD 0 0).extractLsb' 56 8 = code ∧
     q.getD 1 0 = r.pc ∧ q.getD 2 0 = r.addr ∧ ((q.getD 3 0).extractLsb' 0 32) = r.node ∧ (r.tile < 2 ^ 32 →
       ((q.getD 3 0).extractLsb' 32 32).toNat = r.tile)) ∧
   ((s.fn r.fn).frozen = false → ((u.fn r.fn).frozen = true ↔ code = 0x03 ∨ code = 0x04 ∨ code = 0x06 ∨ code = 0x10)))

/-- R47, R371 to R374: TRAP takes trap 0x0F with its operand; the services of SYSC answer the version, MODID, an MSI-X vector of
the function and a log entry; STRD reads a word of a stop record; TLBI drops the entries of the issuer's function that it
names on the cores it covers, and completes once the function's walks there that began before it are over. A privileged form without privilege takes trap 0x02.
Where the rules are open it rests on the model's choices in log 16. -/
def Obligations.SystemForms : Prop := ∀ (s : State) (c d a : BitVec 6) (svc : BitVec 14) (all : Bool),
  completes (.trap c) s (fun t => t = trap 0x0F (c.setWidth 8) 0 s) ∧
  (svc ≠ 0 → completes (.syscVersion d a svc) s (setsS s d (BitVec.allOnes 64))) ∧
  completes (.syscVersion d a 0) s (setsS s d (Config.imageVersion (if s.hub.bootB then s.hub.slotB.1 else s.hub.slotA.1))) ∧
  completes (.syscModuleId d a) s (setsS s d (s.hub.modid.setWidth 64)) ∧
  (let v := (rS s a).toNat % 256
   let size := if s.myFn = 0 then 64 else 32
   (v < size → completes (.syscMsix d a) s (setsS (s.send [.msix s.myFn v]) d 0)) ∧
   (size ≤ v → completes (.syscMsix d a) s (setsS s d (BitVec.allOnes 64)))) ∧
  completes (.syscLog d a) s (setsS (s.modFn s.myFn fun g => { g with getlog := g.getlog ++ [rS s a] }) d 0) ∧
  (s.myPriv = true → completes (.strd d a) s (setsS s d
    (((s.fn s.myFn).recs.getD ((rS s a).toNat / 8 % 8192) []).getD ((rS s a).toNat % 8) 0))) ∧
  (let dies := if all then List.range 8 else [s.cur / 64]
   let since := s.me.waitKey.getD s.cycleG
   let open_ := ∃ x ∈ dies, ∃ w ∈ (s.pdie x).walks, w.fn = s.myFn ∧ w.at_ ≤ since
   let v := (rA s a.toNat).toNat
   let form := fun (i : Instr) (gone : TlbEntry → Prop) => ∃ u : State, u = { s with cores := u.cores } ∧
    (∀ k, u.core k = { s.core k with tlb := (u.core k).tlb } ∧ ∀ e,
      e ∈ (u.core k).tlb ↔ e ∈ (s.core k).tlb ∧ ¬ ((all = true ∨ k / 16 = s.cur / 64) ∧ e.fn = s.myFn ∧ gone e)) ∧
    (open_ → exec i s = waitFor i (u.mod fun c => { c with waitKey := some since })) ∧
    (¬ open_ → completes i s (fun t => t = if s.me.waitKey = none then u else u.mod fun c => { c with waitKey := none }))
   s.myPriv = true → form (.tlbiAll a all) (fun _ => True) ∧
    form (.tlbiPage a all) (fun e => v < 2 ^ 48 ∧ if e.block then e.va / 2 ^ 27 = v / 2 ^ 27 else e.va / 2 ^ 16 = v / 2 ^ 16)) ∧
  (s.myPriv = false → (∀ i ∈ [Instr.strd d a, .tlbiPage a all, .tlbiAll a all, .pempt a, .eret, .idle, .srd d .pdie],
    exec i s = .next (trap 0x02 0 0 s)) ∧ (s.inElided = false → ∀ i ∈ [Instr.ctxsv a, .ctxld a, .trmk d a, .romk d a],
    exec i s = .next (trap 0x02 0 0 s)))

/-- R361, R376, R377, 24 R382: where the halt line arrives no task of the function runs any more, and a task that traps there later
ends as well; ERET ends the halt once the line has
reached every die and every halted task has ended, thaws the trees that the halt froze and no others, and gives the issuing context
the state of its staged area.
Where the rules are open it rests on the model's choices in log 30. -/
def Obligations.HaltsEnd : Prop := ∀ (s : State) (v fn : Nat),
  ((s.fn fn).halted = false → completes (.haltLineArrive v fn) s (fun t => t = s)) ∧
  ((s.fn fn).halted = true → v ∉ (s.fn fn).haltDies → completes (.haltLineArrive v fn) s (fun t =>
    ∀ j < 64, ∀ k, (t.ctx (64 * s.phys v + j)).task = some k → k.fn = fn → (t.ctx (64 * s.phys v + j)).mode ≠ .halted)) ∧
  ((s.fn fn).halted = true → v ∈ (s.fn fn).haltDies → completes (.haltLineArrive v fn) s (fun t => v ∉ (t.fn fn).haltDies ∧
    ∀ j < 64, ∀ k, (t.ctx (64 * s.phys v + j)).task = some k → k.fn ≠ fn)) ∧
  (s.myPriv = true →
    (s.me.staged = none → (s.fn s.myFn).halted = false → completes .eret s (fun t => t = s)) ∧
    ((s.fn s.myFn).halted = true → ((s.fn s.myFn).haltDies ≠ [] ∨ haltOpen s s.myFn = true) → exec .eret s = waitFor .eret s) ∧
    (s.me.staged = none → (s.fn s.myFn).halted = true → (s.fn s.myFn).haltDies = [] → haltOpen s s.myFn = false →
      Store.rising (s.fn s.myFn).trees = true → (∀ x ∈ (s.fn s.myFn).trees, x.2.byHalt = true → x.2.held = []) →
      completes .eret s (fun t => (t.fn s.myFn).halted = false ∧
        (t.fn s.myFn).recs = [] ∧ (t.fn s.myFn).frozen = (s.fn s.myFn).frozen ∧ memSame s t ∧
        ∀ j, let x := s.tree s.myFn j
          (x.valid = true ∧ x.state = 1 ∧ x.byHalt = true → (t.tree s.myFn j).state = 0) ∧
          (¬ (x.valid = true ∧ x.state = 1 ∧ x.byHalt = true) → t.tree s.myFn j = x))) ∧
    (∀ a bs, s.me.staged = some (a, bs) → (s.fn s.myFn).halted = false → walkerRoom s bs = true → s.me.preempt = none →
      completes .eret s (fun t => memSame s t ∧ t.me.mode = .run ∧ t.me.iss.target = some (areaW bs 8) ∧ t.me.staged = none ∧
        (∀ n < 64, rd 0 t.me.regs.s n = if n = 0 then 0 else areaW bs (0x100 + 8 * n)) ∧
        (∀ n < 32, rd 0 t.me.regs.a n = areaW bs (0x300 + 8 * n)) ∧
        (∀ n < 32, rd 0 t.me.regs.v n = BitVec.ofNat 1024 (areaN bs (0x3000 + 128 * n) 128) ∧
          t.me.regs.dead.getLsbD n = !(BitVec.ofNat 32 (areaF bs 0x50 0 32)).getLsbD n) ∧
        ∃ k, t.me.task = some k ∧ k.n = areaF bs 0x10 32 32 ∧ k.x = areaF bs 0x18 0 32 ∧ k.lflags = areaW bs 0x28)))

/-- R145, R369: what a save area holds of a context reads back as it was: the pc, every s, a, p, k, lc and live v register, the
active loops, the format table and its binding, ASTAT, the A-stage, the B binding and the armed repeat, the shadow sets, the barrier
record, the RRED count, the trap registers and the failure map.
Where the rules are open it rests on the model's choices in log 30. -/
def Obligations.SaveAreas : Prop := ∀ (c : Ctx) (k : Core) (t : Task) (i reason : Nat) (pc : Word) (wk : List Nat),
  wk.length = 4 → c.mat.depth ≤ 4 → (∀ r, c.mat.bBind = some r → r < 32) → (∀ l b, c.mat.bind = some (l, b) → l < 4 ∧ b < 16) →
  c.aborts ≤ 4 → c.slackLeft < 2 ^ 14 → c.rredSeg < 2 ^ 32 →
  (∀ r, c.mat.armed = some r → r.n < 2 ^ 13 ∧ (∀ x, r.x = some x → x < 32) ∧ ∀ y, r.y = some y → y < 32) →
  (∀ x ∈ c.loops, 1 ≤ x.len ∧ x.len ≤ 64 ∧ x.trip < 2 ^ 32) →
  let bs := areaFixed c t i reason pc wk ++ areaRest k c t
  (areaFixed c t i reason pc wk).length = 0x1000 ∧ areaW bs 8 = pc ∧
  (∀ n < 64, areaW bs (0x100 + 8 * n) = rd 0 c.regs.s n) ∧ (∀ n < 32, areaW bs (0x300 + 8 * n) = rd 0 c.regs.a n) ∧
  (∀ n < 96, 0 < n → (if n < 64 then (areaW bs 0x68).getLsbD n else (areaW bs 0x70).getLsbD (n - 64)) = rd false c.regs.p n) ∧
  (∀ n < 16, BitVec.ofNat 128 (areaN bs (0x400 + 16 * n) 16) = rd 0 c.regs.k n) ∧
  (∀ n < 16, areaW bs (0x500 + 8 * n) = rd 0x2011 c.mat.ft n) ∧
  (∀ n < 4, BitVec.ofNat 1024 (areaN bs (0x600 + 128 * n) 128) = stageAt c.mat n) ∧
  (∀ n < 32, c.regs.dead.getLsbD n = false → BitVec.ofNat 1024 (areaN bs (0x3000 + 128 * n) 128) = rd 0 c.regs.v n) ∧
  ~~~ BitVec.ofNat 32 (areaF bs 0x50 0 32) = c.regs.dead ∧ areaF bs 0x30 0 8 = c.astat.toNat % 256 ∧
  areaF bs 0x30 22 3 = c.mat.depth ∧ areaF bs 0x30 25 3 = c.aborts ∧ areaF bs 0x30 28 14 = c.slackLeft ∧
  BitVec.ofNat 2048 (areaN bs 0xA00 256) = c.failMap ∧
  (∀ l < 4, let o := 0x80 + 32 * l
    areaF bs o 0 32 = (rd 0 c.regs.lc l).toNat ∧
    (c.loops.find? (fun x => x.lc = l) = none → areaF bs o 63 1 = 0) ∧
    (∀ x, c.loops.find? (fun x => x.lc = l) = some x → areaF bs o 63 1 = 1 ∧ areaF bs o 32 6 + 1 = x.len ∧
      areaF bs (o + 8) 0 32 = x.trip ∧ areaW bs (o + 16) = x.body)) ∧
  (∀ n < 64, areaW bs (0x800 + 8 * n) = rd 0 c.shadow n) ∧ areaF bs 0x48 0 32 = c.rredSeg ∧
  (areaF bs 0x48 63 1 = 1 ↔ c.barRec.isSome = true) ∧
  (∀ x p, c.barRec = some (x, p) → areaW bs 0x40 = x ∧ areaF bs 0x48 32 16 = p.toNat) ∧
  (areaF bs 0x38 63 1 = 1 ↔ c.mat.armed.isSome = true) ∧
  (∀ r, c.mat.armed = some r → areaF bs 0x38 48 13 = r.n ∧ areaF bs 0x38 34 2 = r.g.toNat ∧
    (areaF bs 0x38 47 1 = 1 ↔ r.x.isSome = true) ∧ (areaF bs 0x38 41 1 = 1 ↔ r.y.isSome = true) ∧
    (∀ x, r.x = some x → areaF bs 0x38 42 5 = x) ∧ ∀ y, r.y = some y → areaF bs 0x38 36 5 = y) ∧
  (areaF bs 0x30 16 1 = 1 ↔ c.mat.bBind.isSome = true) ∧ (∀ r, c.mat.bBind = some r → areaF bs 0x30 17 5 = r) ∧
  (areaF bs 0x30 9 1 = 1 ↔ c.mat.bind.isSome = true) ∧
  (∀ l b, c.mat.bind = some (l, b) → areaF bs 0x30 10 2 = l ∧ areaF bs 0x30 12 4 = b) ∧
  (areaF bs 0x30 8 1 = 1 ↔ c.pbank = true) ∧ areaW bs 0x58 = c.trapPC ∧ areaF bs 0x60 0 8 = c.trapCode.toNat ∧
  areaF bs 0x60 8 8 = c.trapMask.toNat ∧ areaF bs 0 16 2 = reason % 4

/-- R367 to R369, R376, R378, R379: CTXSV writes the save area and CTXLD stages one that passes its checks; PEMPT asks a context
of the issuer's die; the request arrives with a deadline of MAXITER cycles, is taken at a loop boundary, and the drained
context is saved and freed, with EVSIG #63 to the requester; past the deadline a context takes trap 0x0E, or is saved at
its entry under RESTART; of several that leave together the highest-numbered goes first (14 R255); poison that a save would read gives
trap 0x10; a link that is down holds the area back; IDLE ends at a request or a signal.
Where the rules are open it rests on the model's choices in logs 14, 30, 41 and 45. -/
def Obligations.Preemption : Prop := ∀ (s : State) (src : BitVec 6) (cx : Nat) (t0 : Task),
  (s.inElided = false → s.myPriv = true → s.me.task = some t0 → s.quiet = true →
    let a := rA s src.toNat
    a.toNat % 4096 = 0 → a.toNat < 2 ^ 48 →
    (∀ ks, drained s s.cur = true → s.mayStore s.myVdie = true → areaLinked s s.cur t0 a = true →
      let c := endFlow s.me
      (∀ k r, areaPoison c t0 = k :: r → exec (.ctxsv src) s = .next (trap 0x10 (poisonKind k) 0 s)) ∧
      (areaPoison c t0 = [] →
      let bs := areaFixed c t0 s.cur 0 c.pc [0, 0, 0, 0] ++ areaRest (s.core (s.cur / 4)) c t0
      s.agentKeys t0.fn t0.vdie (s.cur / 4) a .write bs.length = .ok ks → ks.Nodup → completes (.ctxsv src) s (fun t =>
        t.me.regs = s.me.regs ∧ (∀ j < bs.length, t.byte (ks.getD j 0) = bs.getD j 0) ∧ ∀ y, y ∉ ks → t.byte y = s.byte y))) ∧
    (s.linkedTo (s.cur / 64) t0.fn t0.vdie (s.cur / 4) a .read 0x1000 = false → exec (.ctxld src) s = waitFor (.ctxld src) s) ∧
    (∀ hd, s.linkedTo (s.cur / 64) t0.fn t0.vdie (s.cur / 4) a .read 0x1000 = true → s.agentRead t0.fn t0.vdie (s.cur / 4) a 0x1000 = .ok hd →
      (∀ why, areaReject s t0 hd = some why → exec (.ctxld src) s = .next (trap 0x0F why 0 s)) ∧
      (∀ bs, areaReject s t0 hd = none → s.agentRead t0.fn t0.vdie (s.cur / 4) a (areaSize hd) = .ok bs →
        completes (.ctxld src) s (fun t => t = s.mod fun c => { c with staged := some (a, bs) })))) ∧
  (s.myPriv = true →
    (let x := rS s src
     x.toNat < 2 ^ 48 → x.toNat / 64 % 64 = 0 → ∀ core u, s.vcorePhys s.myFn s.myVdie (x.toNat / 4 % 16) = some core →
      let i := 4 * core + x.toNat % 4
      (s.ctx i).task = some u → u.fn = s.myFn → (s.ctx i).mode ≠ .halted → (s.ctx i).preempt = none → completes (.pempt src) s (fun t =>
        ∃ p, t = s.setCtx i { s.ctx i with preempt := some p } ∧ p.area.toNat = x.toNat / 4096 * 4096 ∧
          p.by_ = 16 * s.myVdie + s.myCore ∧ p.fn = s.myFn ∧ p.deadline = none ∧ p.begun = false)) ∧
    ((s.me.preempt.isSome ∨ s.me.waitKey = some 1) → completes .idle s (fun t => t = s.mod fun c =>
      { c with waitKey := none, iss := { c.iss with boundary := true } })) ∧
    (s.me.preempt = none → s.me.waitKey ≠ some 1 → exec .idle s = waitFor .idle s)) ∧
  (∀ p, (s.ctx cx).preempt = some p → (s.ctx cx).task = some t0 →
    let c := s.ctx cx
    let freed := fun (u t : State) => memSame u t ∧ (t.ctx cx).task = none ∧ (t.ctx cx).mode = .free ∧
      rd 0 (t.fn p.fn).events (64 * (16 * (p.by_ / 16) + p.by_ % 16) + 63) =
        satInc (rd 0 (s.fn p.fn).events (64 * (16 * (p.by_ / 16) + p.by_ % 16) + 63))
    (p.deadline = none → completes (.preemptRequestArrive cx) s (fun t => ∃ q, t = s.setCtx cx
      { abortCtx 0x05 c with preempt := some q } ∧ q = { p with deadline := q.deadline } ∧
      q.deadline = some ((s.pdie (cx / 64)).cycle + (t0.lflags.extractLsb' 40 24).toNat))) ∧
    (p.begun = false → p.deadline.isSome → atBoundary s cx = true → (s.fn t0.fn).halted = false → completes (.preemptSave cx) s (fun t =>
      memSame s t ∧ t.ctx cx = { c with mode := .saving, preempt := some { p with begun := true } })) ∧
    (p.begun = true → (saveReady s cx = false ∨ leavesBefore s cx t0 = true) → completes (.preemptSave cx) s (fun t => t = s)) ∧
    (saveReady s cx = true → p.begun = true ∧ drained s cx = true ∧ s.mayStore t0.vdie = true ∧
      areaLinked s cx t0 p.area = true ∧ ∀ n ∈ runningNests s cx, rerunAcked s n = true) ∧
    (∀ e d x, p.begun = true → saveReady s cx = true → leavesBefore s cx t0 = false →
      writeArea cx c t0 1 c.pc (walkerWords s t0.vdie (walkerFor s cx t0)) p.area s = .error (e, d, x) →
      exec (.preemptSave cx) s = .next (trapAt cx c.pc 0 e d x c.pc s)) ∧
    (∀ u, p.begun = true → saveReady s cx = true → leavesBefore s cx t0 = false →
      writeArea cx c t0 1 c.pc (walkerWords s t0.vdie (walkerFor s cx t0)) p.area s = .ok u → completes (.preemptSave cx) s (freed u)) ∧
    (∀ dl, p.deadline = some dl → p.begun = false → atBoundary s cx = false → (s.fn t0.fn).halted = false → c.mode ≠ .halted →
      (t0.lflags.getLsbD 28 = false → completes (.preemptDeadline cx) s (fun t => dl ≤ (t.pdie (cx / 64)).cycle ∧
        (t.ctx cx).mode = .halted ∧ (t.ctx cx).trapCode = 0x0E ∧ (t.ctx cx).preempt = none)) ∧
      (∀ u, t0.lflags.getLsbD 28 = true → dl ≤ (s.pdie (cx / 64)).cycle → s.mayStore t0.vdie = true →
        areaLinked s cx t0 p.area = true → leavesBefore s cx t0 = false → (∀ e, entryCtx s cx t0 = .ok e →
        writeArea cx e t0 2 t0.entry (walkerWords s t0.vdie (walkerFor s cx t0)) p.area s = .ok u →
        completes (.preemptDeadline cx) s (freed u)))))

/-- 01 R13, R17, 23 R365, R366: a soft error enters the log of its die, and an uncorrected one poisons its granule, copy or
register; a remap exchanges two dies with the contents of both, which go with the cores that the virtual cores find on the new
die, and is not made while a context is resident or a partition lacks a core.
Where the rules are open it rests on the model's choices in logs 10 and 30. -/
def Obligations.ErrorsAndRemap : Prop := ∀ (s : State) (unc : Bool) (k cx n x y : Nat),
  (keyKind k ≠ 0 → keyDie k < 8 → completes (.eccError (.store k) unc) s (fun t => memSame s t ∧
    (unc = true → t.poisoned k 1 = true) ∧ (unc = false → t.poison = s.poison) ∧
    ∃ e, (t.pdie (keyDie k)).errLog = (if 64 ≤ (s.pdie (keyDie k)).errLog.length then (s.pdie (keyDie k)).errLog.drop 1
      else (s.pdie (keyDie k)).errLog) ++ [e] ∧ e.word0.getLsbD 59 = unc ∧ (e.word0.extractLsb' 60 4).toNat = keyKind k)) ∧
  (let reg := fun (loc : EccLoc) (key : Nat) => completes (.eccError loc unc) s (fun t => memSame s t ∧
    (unc = true → key ∈ (t.ctx cx).regPoison) ∧ (unc = false → t.ctx cx = s.ctx cx) ∧ (∀ j, j ≠ cx → t.ctx j = s.ctx j))
   reg (.operand cx n) (keyV n) ∧ reg (.mainRow cx n) (keyM n) ∧ reg (.tile cx n) (keyZ n) ∧ reg (.landing cx n) (keyLs n) ∧
   reg (.scalar cx n) n) ∧
  ((s.obj x y).live = true → n < (s.obj x y).ssize → completes (.eccError (.copy x y k n) unc) s (fun t => memSame s t ∧
    (unc = true → 2 ^ 16 * k + n / 32 * 32 ∈ (t.obj x y).bad) ∧ (unc = false → t.obj x y = s.obj x y))) ∧
  (x < 8 → y < 8 → s.phys x ≠ y → s.phys x < 8 → s.virt y ≠ x →
    let old := s.phys x
    ((∃ j < 64, (s.ctx (64 * old + j)).task.isSome ∨ (s.ctx (64 * y + j)).task.isSome) →
      completes (.virtualDieRemap x y) s (fun t => t = s)) ∧
    let core := fun (k : Nat) => (((coreMoves s x (s.virt y) old y).find? fun e => e.1 = k).map Prod.snd).getD k
    ((∀ j < 64, (s.ctx (64 * old + j)).task = none ∧ (s.ctx (64 * y + j)).task = none) → remapFits s x (s.virt y) old y = true →
      (∀ a b, core a = core b → a = b) → Memory.wf s.mem = true → completes (.virtualDieRemap x y) s (fun t => t.phys x = y ∧ t.ctxs = s.ctxs ∧
        (∀ q, t.byte (moveKey core old y q) = s.byte q) ∧ (t.pdie y).pend = (s.pdie old).pend ∧ (t.pdie y).cache = (s.pdie old).cache)))

/-! ### Queues and setts (20 R324 to R337) -/

/-- R324 to R326, R335: a portal takes a 64-byte write at offset 0 while its queue is enabled, has a sett and room, and the
function is neither frozen nor in reset; otherwise it answers retry; another length or offset is unsupported, and an
ordinary write counts as a rejected packet. The answer does not depend on any other function. -/
def Obligations.Portals : Prop := ∀ (s s' : State) (fn q off : Nat) (ws : List Word), fn < 5 → q < 64 →
  let x := s.queue fn q
  let ok := x.qctl.getLsbD 31 = true ∧ (s.fn fn).frozen = false ∧ (s.fn fn).resetting = false ∧ x.sett ≠ [] ∧ x.buf.length < 8
  let only := fun (t : State) (y : Queue) => t.queue fn q = y ∧ (∀ g r, (g ≠ fn ∨ r ≠ q) → t.queue g r = s.queue g r) ∧ memSame s t ∧
    t.ctxs = s.ctxs ∧ t.vdies = s.vdies
  ((off ≠ 0 ∨ ws.length ≠ 8) → completes (.portalWrite fn q off ws) s (fun t => t = s.send [.unsupported])) ∧
  (off = 0 → ws.length = 8 →
    (ok → completes (.portalWrite fn q off ws) s (fun t => t.out = s.out ++ [.portal true] ∧ ∃ a : BitVec 16,
      a.toNat = min 0xFFFF (x.accepted.toNat + 1) ∧ only t { x with buf := x.buf ++ [ws], accepted := a })) ∧
    (¬ ok → completes (.portalWrite fn q off ws) s (fun t => t = s.send [.portal false]))) ∧
  completes (.portalPostedWrite fn q) s (fun t => (∃ r : BitVec 16, r.toNat = min 0xFFFF (x.rejected.toNat + 1) ∧
      only t { x with rejected := r, lerr := 0x05 }) ∧
    t.out = s.out ++ (if x.qctl.getLsbD 29 = true ∧ (x.qctl.extractLsb' 16 8).toNat < (if fn = 0 then 64 else 32)
      then [.msix fn (x.qctl.extractLsb' 16 8).toNat] else [])) ∧
  (s'.fn fn = s.fn fn → completes (.portalWrite fn q off ws) s (fun t => completes (.portalWrite fn q off ws) s' (fun t' =>
    t'.fn fn = t.fn fn ∧ ∃ o, t.out = s.out ++ o ∧ t'.out = s'.out ++ o)))

/-- R331: once the hand-over of the last packet is over, a packet is taken from the function whose turn it is, of those that have one and are neither frozen nor in reset,
and from its queue of highest QPRIO, round-robin among equals: each QPRIO of a function has a place of its own.
Where the rules are open it rests on the model's choices in logs 17 and 35. -/
def Obligations.PacketStart : Prop := ∀ (s : State), s.hub.rrFn < 5 → (∀ g < 5, Store.rising (s.fn g).queues = true) →
  (∀ g < 5, ∀ p < 4, rd 0 s.hub.rrQueue (4 * g + p) < 64) →
  let ready := fun (g r : Nat) => g < 5 ∧ r < 64 ∧ (s.queue g r).buf ≠ [] ∧ (s.fn g).frozen = false ∧ (s.fn g).resetting = false
  let prio := fun (g r : Nat) => ((s.queue g r).qctl.extractLsb' 14 2).toNat
  ((s.hub.interp.isSome ∨ s.cycleG < s.hub.interpAt) → completes .settPacketStart s (fun t => t = s)) ∧
  (s.hub.interp = none → (∀ g r, ¬ ready g r) → completes .settPacketStart s (fun t => t = s)) ∧
  (s.hub.interp = none → s.hub.interpAt ≤ s.cycleG → (∃ g r, ready g r) → completes .settPacketStart s (fun t => ∃ k < 5, ∃ r p ps,
    let g := (s.hub.rrFn + k) % 5
    ready g r ∧ (∀ j < k, ∀ u, ¬ ready ((s.hub.rrFn + j) % 5) u) ∧
    (∀ u, ready g u → prio g u < prio g r ∨ (prio g u = prio g r ∧
      (r + 64 - rd 0 s.hub.rrQueue (4 * g + prio g r)) % 64 ≤ (u + 64 - rd 0 s.hub.rrQueue (4 * g + prio g r)) % 64)) ∧
    (∀ j, rd 0 t.hub.rrQueue j = if j = 4 * g + prio g r then (r + 1) % 64 else rd 0 s.hub.rrQueue j) ∧
    (s.queue g r).buf = p :: ps ∧ t.queue g r = { s.queue g r with buf := ps } ∧
    t.hub.interp = some { fn := g, queue := r, op := 0, packet := p } ∧ t.hub.rrFn = (g + 1) % 5 ∧ memSame s t))

/-- R329, R330: an operation takes one hub cycle and counts; the next one waits for the next hub cycle; it writes its register, window word or chain, and leads to
the next operation, its branch target, or the next pass of a REP body.
Where the rules are open it rests on the model's choices in logs 17 and 35. -/
def Obligations.SettOperations : Prop := ∀ (s : State) (c : Interp) (d a b : BitVec 3) (imm : BitVec 17) (off : BitVec 9) (n : BitVec 6)
    (len : BitVec 5) (patch : Bool), s.hub.interp = some c →
  let x := fun (r : BitVec 3) => rd 0 c.x r.toNat
  let goes := fun (t : Nat) (c' : Interp) =>
    (c.rep = none → c'.op = t ∧ c'.rep = none) ∧
    (∀ st en left, c.rep = some (st, en, left) → (t ≠ en → c'.op = t ∧ c'.rep = c.rep) ∧
      (t = en → 1 < left → c'.op = st ∧ c'.rep = some (st, en, left - 1)) ∧ (t = en → left ≤ 1 → c'.op = en ∧ c'.rep = none))
  let runs := fun (u : State) (i : Instr) (P : Interp → Prop) =>
    (s.cycleG < s.hub.interpAt → completes i s (fun t => t = s)) ∧
    (s.hub.interpAt ≤ s.cycleG → completes i s (fun t => ∃ c', P c' ∧ c'.ops = c.ops + 1 ∧
      c'.fn = c.fn ∧ c'.queue = c.queue ∧ c'.packet = c.packet ∧
      t = { u with hub := { u.hub with interp := some c', interpAt := s.cycleG + 1 } }))
  let sets := fun (i : Instr) (R : Word → Prop) => runs s i (fun c' => goes (c.op + 1) c' ∧ c'.chain = c.chain ∧ R (rd 0 c'.x d.toNat) ∧
    ∀ m, m ≠ d.toNat → rd 0 c'.x m = rd 0 c.x m)
  let branch := fun (i : Instr) (p : Prop) => runs s i (fun c' => c'.chain = c.chain ∧ c'.x = c.x ∧
    (p → goes (c.op + 1 + imm.toNat) c') ∧ (¬ p → goes (c.op + 1) c'))
  sets (.settLdp d a) (fun v => v = c.packet.getD a.toNat 0) ∧
  sets (.settLdi d imm) (fun v => v.toInt = imm.toInt) ∧
  sets (.settLdm d off) (fun v => v = rd 0 (s.queue c.fn c.queue).window off.toNat) ∧
  runs (s.modQueue c.fn c.queue fun q => { q with window := wr 0 q.window off.toNat (x a) }) (.settStm a off)
    (fun c' => goes (c.op + 1) c' ∧ c'.chain = c.chain ∧ c'.x = c.x) ∧
  sets (.settAdd d a b) (fun v => v.toNat = ((x a).toNat + (x b).toNat) % 2 ^ 64) ∧
  sets (.settSub d a b) (fun v => v.toNat = (2 ^ 64 + (x a).toNat - (x b).toNat) % 2 ^ 64) ∧
  sets (.settAnd d a b) (bitwise (· && ·) (x a) (x b)) ∧ sets (.settOr d a b) (bitwise (· || ·) (x a) (x b)) ∧
  sets (.settXor d a b) (bitwise xor (x a) (x b)) ∧
  sets (.settShl d a n) (fun v => v.toNat = (x a).toNat * 2 ^ n.toNat % 2 ^ 64) ∧
  sets (.settShr d a n) (fun v => v.toNat = (x a).toNat / 2 ^ n.toNat) ∧
  sets (.settAndi d a imm) (fun v => v.toNat = (x a).toNat &&& imm.toNat) ∧
  branch (.settBeq a b imm) (x a = x b) ∧ branch (.settBne a b imm) (x a ≠ x b) ∧
  branch (.settBltu a b imm) ((x a).toNat < (x b).toNat) ∧
  runs s (.settEmit patch d a b) (fun c' => goes (c.op + 1) c' ∧ c'.x = c.x ∧
    c'.chain = c.chain ++ [(d.toNat, x a, if patch then some (x b) else none)]) ∧
  runs s (.settRep n len) (fun c' => c'.op = c.op + 1 ∧ c'.rep = some (c.op + 1, c.op + 1 + (len.toNat + 1), n.toNat + 1) ∧ c'.x = c.x ∧
    c'.chain = c.chain)

/-- R330, R331, R333 to R336: in its turn, before the four hub cycles of the hand-over, REJ rejects the packet with its code; at END the first record that fails names LERR's cause and no
record takes effect, or every record takes its place for each die it names. END waits while a link to a record's home is down.
Where the rules are open it rests on the model's choices in logs 14, 17 and 36. -/
def Obligations.SettsEnd : Prop := ∀ (s : State) (c : Interp) (code : BitVec 7), s.hub.interp = some c → s.hub.interpAt ≤ s.cycleG →
  let x := s.queue c.fn c.queue
  let u := { s with hub := { s.hub with interp := none, interpAt := s.cycleG + 5 } }
  let rejected := fun (l : BitVec 8) (t : State) => (∃ r : BitVec 16, r.toNat = min 0xFFFF (x.rejected.toNat + 1) ∧
      t = (u.modQueue c.fn c.queue fun x => { x with rejected := r, lerr := l }).send
        (if x.qctl.getLsbD 29 = true ∧ (x.qctl.extractLsb' 16 8).toNat < (if c.fn = 0 then 64 else 32)
          then [.msix c.fn (x.qctl.extractLsb' 16 8).toNat] else []))
  let reads := fun (e : Nat × Word × Option Word) => derrickRead u c.fn x.qctl e
  completes (.settRej code) s (rejected (BitVec.ofNat 8 (128 + code.toNat))) ∧
  (chainLinked s c.fn c.chain = false → completes .settEnd s (fun t => t = s)) ∧
  (∀ es e es' l, chainLinked s c.fn c.chain = true → c.chain = es ++ e :: es' → (∀ y ∈ es, ∃ r, reads y = .ok r) → reads e = .error l →
    completes .settEnd s (rejected l)) ∧
  (∀ rs : List (NodeKind × List Word), chainLinked s c.fn c.chain = true → rs.length = c.chain.length → (∀ k < rs.length, ∃ e r, c.chain[k]? = some e ∧ rs[k]? = some r ∧
      reads e = .ok r) →
    let new := rs.flatMap fun r => (recordDies u c.fn r.1 r.2).map fun d => (d, r.1, r.2, none)
    completes .settEnd s (fun t => memSame s t ∧ t.hub = u.hub ∧ t.out = s.out ∧
      t.queue c.fn c.queue = { x with banks := x.banks ++ new })) ∧
  (∀ k a p, let e : Nat × Word × Option Word := (k, a, p)
    ((2 ^ 48 ≤ a.toNat ∨ a.toNat % 64 ≠ 0) → reads e = .error 0x03) ∧
    (a.toNat + 128 ≤ 2 ^ 48 → a.toNat % 64 = 0 → (∀ z, u.agentRead c.fn 0 hubCore a 128 = .error z → reads e = .error 0x02) ∧
      ∀ bs, u.agentRead c.fn 0 hubCore a 128 = .ok bs → k = 1 →
        let ws := match p with | some y => (wordsOf 16 bs).set 1 y | none => wordsOf 16 bs
        (cardOk .cpy ws = false → reads e = .error 0x01) ∧ (cardOk .cpy ws = true → reads e = .ok (.job .cpy, ws))) ∧
    (∀ ws, k = 0 → reads e = .ok (.launch, ws) → lPrio ws ≤ (x.qctl.extractLsb' 24 2).toNat ∧
      (x.qctl.getLsbD 30 = true → (ws.getD 4 0).getLsbD 30 = true)))

/-- R332: a write of SLOAD1 starts a load, or is refused with STATUS 7 or 9; an image that passes the checks replaces the sett
and zeroes the window, and any other leaves the queue as it is. The end waits for a packet of the queue under way and for the links
to the image.
Where the rules are open it rests on the model's choices in logs 14 and 35. -/
def Obligations.SettLoader : Prop := ∀ (s : State) (val : Word) (ld : Loading),
  let f := val.toNat % 8
  let q := val.toNat / 2 ^ 8 % 64
  let status := fun (t : State) (st i : Nat) => (t.hub.sloadSt.extractLsb' 56 8).toNat = st ∧ t.hub.sloadSt.toNat % 2 ^ 56 = i
  let same := fun (t : State) => t.fns = s.fns ∧ memSame s t
  ((val &&& 0xFFFFFFFFFE00C0F8 ≠ 0 ∨ 4 < f ∨ s.hub.sload0.toNat % 4 ≠ 0) →
    completes (.settLoad val) s (fun t => status t 9 0 ∧ same t ∧ t.hub.loading = none)) ∧
  (val &&& 0xFFFFFFFFFE00C0F8 = 0 → f ≤ 4 → s.hub.sload0.toNat % 4 = 0 →
    ((s.queue f q).qctl.getLsbD 31 = true → completes (.settLoad val) s (fun t => status t 7 0 ∧ same t ∧ t.hub.loading = none)) ∧
    ((s.queue f q).qctl.getLsbD 31 = false → completes (.settLoad val) s (fun t => status t 0 0 ∧ same t ∧
      t.hub.loading = some ⟨s.hub.sload0, val⟩))) ∧
  (s.hub.loading = some ld → ld.load1 = val →
    let linked := s.linkedTo 8 0 0 hubCore ld.load0 .read (4 * (val.toNat / 2 ^ 16 % 512 + 1))
    ((interpOn s f q = true ∨ linked = false) → completes .settLoadDone s (fun t => t = s)) ∧
    (interpOn s f q = false → linked = true →
    ((s.queue f q).qctl.getLsbD 31 = true → completes .settLoadDone s (fun t => status t 7 0 ∧ same t)) ∧
    (∀ i, (s.queue f q).qctl.getLsbD 31 = false → readImage s ld.load0 0 (val.toNat / 2 ^ 16 % 512 + 1) = .error i →
      i < 512 → completes .settLoadDone s (fun t => status t 8 i ∧ same t)) ∧
    (∀ ws st i, (s.queue f q).qctl.getLsbD 31 = false → readImage s ld.load0 0 (val.toNat / 2 ^ 16 % 512 + 1) = .ok ws →
      checkSett ws = (st, i) →
      (st ≠ 1 → i < 512 → completes .settLoadDone s (fun t => status t st.toNat i ∧ same t)) ∧
      (st = 1 → completes .settLoadDone s (fun t => status t 1 0 ∧ memSame s t ∧
        t.queue f q = { s.queue f q with sett := ws, window := [] } ∧ ∀ g r, (g ≠ f ∨ r ≠ q) → t.queue g r = s.queue g r))))) ∧
  (s.hub.loading = none → completes .settLoadDone s (fun t => t = s))

/-- R332: a run-time fault in a sett is impossible. On every path through an image that the loader accepts, at most 256
operations start, at most 8 of them are EMITs, and none lies past the end. Each operation of the image leads the interpreter from its
place on a path to the next place of one, and END and REJ end it. -/
def Obligations.SettsStayInBudget : Prop := ∀ (ws : List (BitVec 32)) (i : Nat), checkSett ws = (1, i) →
  ∃ ops : List Instr, ws.map decodeSett = ops.map some ∧
  (∀ ps : List Place, ps.head? = some (0, none, 0) →
    (∀ k p q, ps[k]? = some p → ps[k + 1]? = some q → q ∈ placesAfter ops p) →
    ps.length ≤ 256 ∧ ∀ p ∈ ps, p.1 < ops.length ∧ p.2.2 ≤ 8) ∧
  ∀ (s : State) (c : Interp) (op : Instr), s.hub.interp = some c → s.hub.interpAt ≤ s.cycleG → ops[c.op]? = some op →
    chainLinked s c.fn c.chain = true →
    (settEnds op = true → completes op s (fun t => t.hub.interp = none)) ∧
    (settEnds op = false → completes op s (fun t => ∃ c', t.hub.interp = some c' ∧
      (c'.op, c'.rep, c'.chain.length) ∈ placesAfter ops (c.op, c.rep, c.chain.length)))

/-! ### Partitions, freezes and resets (21 R339 to R350) -/

/-- R339 to R342, R344: PCORE grants cores that no other function holds while its function is idle, numbers them in
physical order, and leaves the cores gained scrubbed: their storage, rows, tiles and format entries are zero, and so are the event
counters of the virtual cores that they become; PRNG and TROOT take a write by their own rules. A refused write changes no register.
Where the rules are open it rests on the model's choices in log 37. -/
def Obligations.Partitions : Prop := ∀ (s : State) (fn v : Nat) (hi : Bool) (val : Word) (new : BitVec 128), fn < 5 →
  (∀ j < 128, new.getLsbD j = if decide (64 ≤ j) = hi then val.getLsbD (j % 64) else (s.fn fn).pcore.getLsbD j) →
  (let gained := fun (j : Nat) => new.getLsbD j = true ∧ (s.fn fn).pcore.getLsbD j = false
   let held := ∃ g < 5, g ≠ fn ∧ ∃ j < 128, new.getLsbD j = true ∧ (s.fn g).pcore.getLsbD j = true
   let moves := new ≠ (s.fn fn).pcore ∧ s.busyFn fn = true
   (held ∨ moves → completes (.pcoreWrite fn hi val) s (fun t => t = s.send [.refusedWrite])) ∧
   (¬ held → ¬ moves → (∀ d < 8, ∀ e < 8, s.virt d = s.virt e → d = e) → completes (.pcoreWrite fn hi val) s (fun t =>
    (t.fn fn).pcore = new ∧ (∀ g, g ≠ fn → t.fn g = s.fn g) ∧ t.out = s.out ∧
    (∀ d < 8, ∀ n j, ((List.range 16).filter fun c => new.getLsbD (16 * d + c))[n]? = some j →
      look (t.fn fn).vmap (16 * s.virt d + n) = some (16 * d + j)) ∧
    (∀ k, (∃ j < 128, gained j ∧ inCore j k = true) → t.byte k = 0) ∧
    (∀ k, (¬ ∃ j < 128, gained j ∧ inCore j k = true) → t.byte k = s.byte k) ∧
    (∀ j < 128, gained j → (t.core j).tlb = [] ∧ (t.core j).pats = [] ∧ ∀ c < 4, (t.ctx (4 * j + c)).task = none ∧
      (t.ctx (4 * j + c)).regs = {} ∧ let m := (t.ctx (4 * j + c)).mat
        (∀ n < 16, rd 0x2011 m.ft n = 0) ∧ (∀ z r, tileRow m z r = 0) ∧ ∀ n, mainRow m m.main n = 0) ∧
    (∀ e, look (t.fn fn).events e = match look (t.fn fn).vmap (e / 64) with
      | some j => if new.getLsbD j = true ∧ (s.fn fn).pcore.getLsbD j = false then none else look (s.fn fn).events e
      | none => none) ∧
    (∀ j, j < 128 → ¬ gained j → t.core j = s.core j ∧ ∀ c < 4, t.ctx (4 * j + c) = s.ctx (4 * j + c))))) ∧
  (v < 8 →
    let dram := fun (p : Word) => (p.getLsbD 63, (p.extractLsb' 32 9).toNat, (p.extractLsb' 48 9).toNat)
    let shared := fun (p : Word) => (p.getLsbD 31, (p.extractLsb' 0 6).toNat, (p.extractLsb' 8 6).toNat)
    let meet := fun (p q : Bool × Nat × Nat) => p.1 = true ∧ q.1 = true ∧ p.2.1 ≤ q.2.2 ∧ q.2.1 ≤ p.2.2
    let bad := ((dram val).1 = true ∧ (dram val).2.2 < (dram val).2.1) ∨ ((shared val).1 = true ∧ (shared val).2.2 < (shared val).2.1) ∨
      (∃ g < 5, g ≠ fn ∧ (meet (dram val) (dram (s.prngOf g v)) ∨ meet (shared val) (shared (s.prngOf g v)))) ∨ s.busyFn fn = true
    (bad → completes (.prngWrite fn v val) s (fun t => t = s.send [.refusedWrite])) ∧
    (¬ bad → completes (.prngWrite fn v val) s (fun t => t = { s with fns := t.fns } ∧ (∀ g, g ≠ fn → t.fn g = s.fn g) ∧
      (t.fn fn = { s.fn fn with prng := (t.fn fn).prng }) ∧ (∀ e, e ≠ v → t.prngOf fn e = s.prngOf fn e) ∧
      ∀ i < 64, (t.prngOf fn v).getLsbD i = (val.getLsbD i && decide (i < 6 ∨ (8 ≤ i ∧ i < 14) ∨ (31 ≤ i ∧ i < 41) ∨
        (48 ≤ i ∧ i < 57) ∨ i = 63))))) ∧
  completes (.trootWrite fn val) s (fun t => ∃ r : Word, t = s.modFn fn (fun f => { f with troot := r }) ∧
    ∀ i < 64, r.getLsbD i = (val.getLsbD i && decide (i = 0 ∨ (14 ≤ i ∧ i < 48))))

/-- R8, R347 to R350, 18 R320, 26 R405: a freeze by order raises the halt line, freezes the trees and tells their other modules, drops
the packet under way and sends its messages; it records its cause once and no other function changes. A reset freezes the function with
0x22, of the PF resets every function, and waits for a checkpoint. It waits until the halt has reached every die and no walk, no message
and no FABRIC copy that may still leave is the function's; then the homes drop the writes that they have not applied, and it leaves
PCORE, PRNG, HOLD and the setts and nothing else, with FSTAT's CAUSE zero, the cores scrubbed and every other byte as it is.
Where the rules are open it rests on the model's choices in log 37. -/
def Obligations.FreezesAndResets : Prop := ∀ (s : State) (fn : Nat) (val : Word), fn < 5 →
  let f := s.fn fn
  let frozen := fun (c : BitVec 8) (v0 : Bool) (t : State) =>
    (t.fn fn).frozen = true ∧ (t.fn fn).halted = true ∧ (t.fn fn).haltDies = List.range 8 ∧ (t.fn fn).fcause.extractLsb' 54 8 = c ∧
    (∀ i, (t.tree fn i).valid = true → (t.tree fn i).state ≠ 0) ∧
    (∀ e ∈ f.trees, e.2.takesOrder s.cycleG = true → ∀ m ∈ otherMods s e.2, treeMsg fn (handleOf e.1 e.2) (.freeze false) m s ∈ t.hub.fabQ) ∧
    (∀ k, t.hub.interp = some k → k.fn ≠ fn) ∧
    (∀ g, g ≠ fn → t.fn g = s.fn g) ∧ t.ctxs = s.ctxs ∧ memSame s t ∧
    ∃ w : Word, t.out = s.out ++ (if v0 then [.msix fn 0] else []) ++ [.msix 0 1, .mctp fn w] ∧ w.extractLsb' 56 8 = c
  (f.frozen = false → completes (.freeze fn) s (frozen 0x21 true)) ∧
  (f.frozen = true → completes (.freeze fn) s (fun t => t = s)) ∧
  (f.frozen = false → val.getLsbD 0 = true → completes (.fctlHoldWrite fn val) s (fun t => frozen 0x20 true t ∧ (t.fn fn).hold = true)) ∧
  ((f.frozen = true ∨ val.getLsbD 0 = false) → completes (.fctlHoldWrite fn val) s (fun t =>
    t = s.modFn fn fun g => { g with hold := val.getLsbD 0 })) ∧
  (∀ i ∈ [Instr.functionLevelReset fn, .reset fn],
    (s.hub.copying = none → fn ≠ 0 → f.resetting = false → f.frozen = false → completes i s (fun t => frozen 0x22 false t ∧
      (t.fn fn).resetting = true)) ∧
    (s.hub.copying = none → fn ≠ 0 → f.resetting = false → f.frozen = true → completes i s (fun t =>
      t = s.modFn fn fun g => { g with resetting := true, resetWait := false })) ∧
    (s.hub.copying = none → fn = 0 → completes i s (fun t => (∀ g < 5, (t.fn g).resetting = true ∧ ((s.fn g).resetting = false →
      (t.fn g).frozen = true)) ∧ t.hub.vfEnable = false ∧ memSame s t)) ∧
    (s.hub.copying.isSome → fn ≠ 0 → completes i s (fun t => t = s.modFn fn fun g => { g with resetWait := true }))) ∧
  (let open_ := fun (m : Msg) => msgOf s fn m = true ∧ m.aged s = false
   (f.resetting = false ∨ f.haltDies ≠ [] ∨ (∃ l ∈ s.links, ∃ m ∈ notCrossed l.2, open_ m) ∨
      (∃ p ∈ s.pdies, (∃ r ∈ p.2.rides, open_ r.msg) ∨ ∃ w ∈ p.2.walks, w.fn = fn) ∨
      (∃ d < 8, ∃ q ∈ (s.pdie d).sent, q.req.fn = fn ∧ q.req.loc.other.isSome ∧ q.sends > 0 ∧ s.cycleG ≤ q.lastAt + 8192)) →
    completes (.flrDrainDone fn) s (fun t => t = s)) ∧
  (let mine := fun (k : Nat) => ∃ j < 128, f.pcore.getLsbD j = true ∧ inCore j k = true
   completes (.flrDrainDone fn) s (fun t => ∀ k, t.byte k = s.byte k ∨ (t.byte k = 0 ∧ mine k)) ∧
   (f.resetting = true → f.haltDies = [] → (∀ l ∈ s.links, ∀ m ∈ notCrossed l.2, msgOf s fn m = false) →
    (∀ p ∈ s.pdies, (∀ x ∈ p.2.rides, msgOf s fn x.msg = false) ∧ ∀ w ∈ p.2.walks, w.fn ≠ fn) →
    (∀ d < 9, (∀ r ∈ (s.pdie d).pend, r.fn ≠ fn) ∧ (∀ m ∈ (s.pdie d).inbox, ∀ r, m.body = .req r → r.fn ≠ fn) ∧
      ∀ q ∈ (s.pdie d).sent, q.req.fn = fn → q.sends ≠ 0 ∧ (q.req.loc.other = none ∨ q.lastAt + 8192 < s.cycleG)) →
    (∀ k ∈ s.cores, ∀ x ∈ k.2.chunks, x.fn ≠ fn ∨ x.clk = []) → (drainFn fn s).isSome) ∧
   (∀ u, f.resetting = true → drainFn fn s = some u → toDrop fn u = [] ∧
    completes (.flrDrainDone fn) s (fun t => (∀ k, (mine k → t.byte k = 0) ∧ (¬ mine k → t.byte k = s.byte k)) ∧
      (∀ g, g ≠ fn → t.fn g = s.fn g) ∧
      (let g := t.fn fn
       g.resetting = false ∧ g.frozen = f.hold ∧ g.halted = false ∧ g.troot = 0 ∧ g.trees = [] ∧ g.events = [] ∧ g.recs = [] ∧
       g.pcore = f.pcore ∧ g.prng = f.prng ∧ g.vmap = f.vmap ∧ g.hold = f.hold ∧ g.fcause = 0 ∧
       (∀ q, t.queue fn q = { sett := (s.queue fn q).sett }) ∧ ∀ i, (t.obj fn i).live = false) ∧
      (∀ v, ∀ n ∈ (t.vdie v).nodes, n.fn ≠ fn) ∧ (∀ v, ∀ w ∈ (t.vdie v).walkers, w.fn ≠ fn) ∧
      (∀ d, (∀ q ∈ (t.pdie d).sent, q.req.fn ≠ fn) ∧ (∀ w ∈ (t.pdie d).walks, w.fn ≠ fn) ∧
        ∀ r ∈ (t.pdie d).pend, r.fn ≠ fn ∨ r.srcMod ≠ s.hub.modid.toNat) ∧
      ∀ j < 128, f.pcore.getLsbD j = true → ∀ c < 4, (t.ctx (4 * j + c)).task = none ∧ (t.ctx (4 * j + c)).regs = {})))

/-! ### Host registers and the side band (18 R310, R313, R406, 20 R327, R328, 21 R351, 26 R396 to R405) -/

/-- 18 R310, R313, R406, 20 R327, R328, R332, 26 R402, R403: a write of a host register sets its writable fields, leaves its
reserved and read-only fields as they are, and changes nothing else; MODID is refused while a function is busy or a fabric
request is outstanding, and PWRLIM ignores 0 and values above 80 and takes effect from the tokens after the present hub cycle on. -/
def Obligations.HostRegisters : Prop := ∀ (s : State) (n d fn q l : Nat) (val : Word),
  let only := fun (p : Nat → Prop) (w : Word) => ∀ i < 64, (p i → w.getLsbD i = val.getLsbD i) ∧ (¬ p i → w.getLsbD i = false)
  (n < 2048 → completes (.routeTableWrite n val) s (fun t => ∃ w m, only (fun i => 60 ≤ i ∨ i < 24) w ∧
    t = { s with hub := { s.hub with route := m } } ∧ ∀ k, rd 0 m k = if k = n then w else rd 0 s.hub.route k)) ∧
  (let busy := (∃ g < 5, s.busyFn g = true) ∨ ∃ p ∈ s.pdies, ∃ x ∈ p.2.sent, x.req.loc.other.isSome
   (busy → completes (.modidWrite val) s (fun t => t = s.send [.refusedWrite])) ∧
   (¬ busy → completes (.modidWrite val) s (fun t => t = { s with hub := { s.hub with modid := val.setWidth 11 } }))) ∧
  (d < 8 → ((val.toNat % 256 = 0 ∨ 80 < val.toNat % 256) → completes (.pwrlimWrite d val) s (fun t => t = s)) ∧
    (1 ≤ val.toNat % 256 → val.toNat % 256 ≤ 80 → completes (.pwrlimWrite d val) s (fun t =>
      ∃ w, only (fun i => i < 8) w ∧ t = s.modPdie d fun p => { tokensBy s.cycleG p with pwrLim := w })) ∧
    completes (.telbaseWrite d val) s (fun t => ∃ w, only (fun i => (15 ≤ i ∧ i < 48) ∨ i = 0) w ∧
      t = s.modPdie d fun p => { p with telBase := w })) ∧
  (fn < 5 → q < 64 →
    completes (.registerWrite (.qctl fn q) val) s (fun t => ∃ w,
      only (fun i => i = 31 ∨ (i = 30 ∧ fn = 0) ∨ i = 29 ∨ (14 ≤ i ∧ i < 26)) w ∧ t = s.modQueue fn q fun x => { x with qctl := w }) ∧
    completes (.registerWrite (.qstat fn q) val) s (fun t => t = s.modQueue fn q fun x =>
      { x with accepted := val.extractLsb' 48 16, rejected := val.extractLsb' 32 16 })) ∧
  completes (.registerWrite .sload0 val) s (fun t => t = { s with hub := { s.hub with sload0 := val } }) ∧
  (l < 48 → completes (.registerWrite (.lstat l) val) s (fun t => t = s.modLink l fun x =>
    { x with crce := val.extractLsb' 32 16, rply := val.extractLsb' 16 16, rtrn := val.extractLsb' 8 8 }))

/-- R401, 21 R348, R351: GETTEL answers the latest sample of each die, GETLOG the FSTAT word, the function's entries, the
links, the soft errors and the module's entries, SPDM the digests of the running and staged images and of the setts. Each
changes nothing else. FSTAT's STATE reads 2 in reset, 1 frozen, 3 without a core, 0 otherwise.
00 R1, R7, 20 R325: a read by the host is answered and changes nothing: a portal reads all ones, the part number is the one of
the module, a register reads the value it holds.
Where the rules are open it rests on the model's choices in logs 16 and 18. -/
def Obligations.SideBand : Prop := ∀ (s : State) (fn : Nat),
  (∀ (x : HostRead) (r : List Choice), s.hub.stopped = false → s.agenda = .read x :: r →
    let u := { s with agenda := r }
    let reads := fun (w : Word) => step s = .next (u.send [.answer [w]])
    (x = .part → reads Config.partNumber) ∧ (∀ q, x = .portal fn q → reads (BitVec.allOnes 64)) ∧
    (∀ q, x = .queue fn q 0x800 → reads (s.queue fn q).qctl) ∧ (∀ q, x = .queue fn q 0x808 → reads (qstatWord u fn q)) ∧
    (x = .bar0 fn 0 → reads (s.fn fn).troot) ∧ (x = .bar0 0 0x1900 → reads s.hub.fwact) ∧ (x = .bar0 0 0x1A00 → reads s.hub.ckctl) ∧
    (∀ d < 8, x = .bar0 0 (0x1800 + 8 * d) → reads (s.pdie d).pwrLim) ∧ (∀ l, x = .lstat l → reads (lstatWord (s.link l)))) ∧
  let answered := fun (ws : List Word) (t : State) => t = s.send [.answer ws]
  completes .gettel s (answered ((List.range 8).flatMap fun d => (s.pdie d).telSample)) ∧
  completes (.getlog fn) s (fun t => ∃ w ls, answered ([w] ++ (s.fn fn).getlog ++ ls ++
      (List.range 9).flatMap (fun d => (s.pdie d).errLog.flatMap fun e => [e.word0, e.word1]) ++ s.hub.modLog) t ∧
    (w.extractLsb' 2 62 = (s.fn fn).fcause ∧ w.toNat % 4 = if (s.fn fn).resetting then 2 else if (s.fn fn).frozen then 1
      else if (s.fn fn).pcore = 0 then 3 else 0) ∧
    ls.length = 48 ∧ ∀ l < 48, ∀ w, ls[l]? = some w → w.extractLsb' 32 16 = (s.link l).crce ∧ w.extractLsb' 16 16 = (s.link l).rply ∧
      w.extractLsb' 8 8 = (s.link l).rtrn) ∧
  completes .spdmMeasurements s (fun t => ∃ ws sig, answered (ws ++ sig) t ∧ ws.length = 24 ∧
    let run := if s.hub.bootB then s.hub.slotB else s.hub.slotA
    let other := if s.hub.bootB then s.hub.slotA else s.hub.slotB
    ∀ i < 8, ws.getD i 0 = (Config.sha3 run.1).extractLsb' (64 * i) 64 ∧
      ws.getD (8 + i) 0 = (if other.2 then (Config.sha3 other.1).extractLsb' (64 * i) 64 else 0) ∧
      ws.getD (16 + i) 0 = (Config.sha3 (settBytes s)).extractLsb' (64 * i) 64)

/-- R396 to R400, R405: staging writes the slot that did not boot, valid when its image verifies; a reset boots the higher
verified image, zeroes every storage of the module and starts from the reset state, or stops when neither slot verifies;
an activation is refused while a checkpoint runs, which returns GO to zero, or without a valid staged slot. One that starts
freezes every function, and goes on when everything is drained: it stops at a save fault with every function frozen, and
otherwise writes the layout, keeps DRAM and brings the queues back as the layout reads, when its sett passes the loader's checks. A
write while one runs sets AREA and GO alone. A module that stopped takes orders over the side band only.
Where the rules are open it rests on the model's choices in logs 2, 16 and 38. -/
def Obligations.Firmware : Prop := ∀ (s : State) (img : List Byte) (val : Word),
  let h := s.hub
  let good := fun (x : List Byte × Bool) => x.2 = true ∧ Config.imageVerifies x.1 = true
  let ver := fun (x : List Byte × Bool) => (Config.imageVersion x.1).toNat
  let staged := if h.bootB then h.slotA else h.slotB
  let boots := fun (b : Bool) => if b then good h.slotB ∧ (good h.slotA → ver h.slotA < ver h.slotB)
    else good h.slotA ∧ (good h.slotB → ver h.slotB ≤ ver h.slotA)
  (∀ i ∈ [Instr.stage img, .pldmFirmwareUpdate img], completes i s (fun t =>
    (h.bootB = true → t = { s with hub := { h with slotA := (img, Config.imageVerifies img) } }) ∧
    (h.bootB = false → t = { s with hub := { h with slotB := (img, Config.imageVerifies img) } }))) ∧
  (let kept := fun (t : State) => t.ctxs = State.reset.ctxs ∧ t.cores = State.reset.cores ∧ t.fns = State.reset.fns ∧
    t.vdies = State.reset.vdies ∧ t.pdies = State.reset.pdies ∧ t.links = State.reset.links ∧ t.cycleG = 0 ∧ t.out = s.out ∧
    t.agenda = s.agenda ∧ t.hub.slotA = h.slotA ∧ t.hub.slotB = h.slotB ∧ ∀ k, t.byte k = if keyKind k = 0 then s.byte k else 0
   (∀ b, boots b → completes .moduleReset s (fun t => kept t ∧ t.hub.bootB = b ∧ t.hub.modLog = h.modLog ∧ t.hub.stopped = false)) ∧
   (¬ good h.slotA → ¬ good h.slotB → completes .moduleReset s (fun t => t.hub.stopped = true ∧
    t.hub.modLog.length = h.modLog.length + 1 ∧ t.hub.slotA = h.slotA ∧ t.hub.slotB = h.slotB ∧ t.out = s.out ∧ t.agenda = s.agenda ∧
    memSame s t ∧ t.fns = [] ∧ t.ctxs = [] ∧ t.vdies = [] ∧ t.links = [])) ∧
   (h.stopped = true → (s.agenda = [] → step s = .fault .moduleStopped) ∧
     ∀ c r, s.agenda = c :: r → let u := { s with agenda := r }
       (sideBand c = false → step s = .next u) ∧
       ∀ i, c = .event i → i ∈ [Instr.getlog 0, .gettel, .spdmMeasurements, .stage img, .pldmFirmwareUpdate img, .moduleReset] →
         step s = exec i u)) ∧
  (let status := fun (n : Nat) (go : Bool) (t : State) => (t.hub.fwact.extractLsb' 1 3).toNat = n ∧ t.hub.fwact.getLsbD 0 = go ∧
    t.hub.fwact.extractLsb' 12 36 = val.extractLsb' 12 36
   let i := Instr.firmwareActivation val
   (h.activating.isSome → completes i s (fun t => status (h.fwact.extractLsb' 1 3).toNat (val.getLsbD 0) t ∧
      t = { s with hub := { h with fwact := t.hub.fwact } })) ∧
   (h.activating = none →
    (val.getLsbD 0 = false → completes i s (fun t => status (h.fwact.extractLsb' 1 3).toNat false t ∧
      t = { s with hub := { h with fwact := t.hub.fwact } })) ∧
    (val.getLsbD 0 = true →
     (h.copying.isSome → completes i s (fun t => status 3 false t ∧ t = { s with hub := { h with fwact := t.hub.fwact } })) ∧
     (h.copying = none → staged.2 = false → completes i s (fun t => status 2 true t ∧
       t = { s with hub := { h with fwact := t.hub.fwact } })) ∧
     (h.copying = none → staged.2 = true → completes i s (fun t => status 1 true t ∧ t.hub.activating = some val ∧ memSame s t ∧
       ∀ g < 5, (t.fn g).frozen = true))))) ∧
  (∀ r, h.stopped = false → s.agenda = .activation :: r →
    let x := { s with agenda := r }
    ((h.activating = none ∨ drainAll x = none) → step s = .next x) ∧
    (∀ u, h.activating = some val → drainAll x = some u →
      let area := u.agentKeys 0 0 hubCore (val &&& 0xFFFFFFFFF000) .write (layoutBytes u).length
      memSame s u ∧ u.fns = s.fns ∧
      (∀ e, area = .error e → answers (step s) (fun t => (t.hub.fwact.extractLsb' 1 3).toNat = 4 ∧ t.hub.activating = none ∧
        memSame s t ∧ t.fns = s.fns)) ∧
      (∀ ks b, area = .ok ks → ks.Nodup → (∀ k ∈ ks, keyKind k = 0 ∨ keyKind k = 3) → boots b →
        (∀ g < 5, Store.rising (s.fn g).queues = true) →
        (∀ x ∈ layoutQueues u, (x.2.2.sett = [] ∨ (checkSett x.2.2.sett).1 = 1) ∧ x.2.2.sett.length ≤ 512 ∧ x.2.2.buf.length ≤ 8) →
        answers (step s) (fun t =>
          (∀ j < ks.length, t.byte (ks.getD j 0) = (layoutBytes u).getD j 0) ∧
          (∀ k, k ∉ ks → t.byte k = if keyKind k = 0 ∨ keyKind k = 3 then s.byte k else 0) ∧
          (∀ g q, g < 5 → q < 64 → let x := s.queue g q
            let y := t.queue g q
            (x.sett = [] → x.qctl.getLsbD 31 = false → y = {}) ∧
            ((x.sett ≠ [] ∨ x.qctl.getLsbD 31 = true) →
              y = { qctl := x.qctl, accepted := x.accepted, rejected := x.rejected, lerr := x.lerr,
                    sett := if x.sett = [] then [0] else x.sett, window := y.window } ∧
              ∀ n < 512, rd 0 y.window n = rd 0 x.window n)) ∧
          t.hub.bootB = b ∧ t.ctxs = [] ∧ ∀ g < 5, (t.fn g).frozen = false)))) ∧
  (∀ t, exec (.firmwareActivation (val ||| 1)) s = .next t →
    exec (.stageActivate val) s = .next (if h.activating = none ∧ t.hub.activating = none then t.send [.answer [t.hub.fwact]] else t))

/-- R403 to R405: a checkpoint freezes every function, and copies once what was on its way is drained; a second GO has no
effect, and one during an activation is refused; at its end the DRAM stands in host memory and its messages go out; a lost
link leaves a part of it. A sample is taken at its time, counts in SEQ, and is written to the ring, with zero in the reserved
word (log 43), only while EN = 1.
Where the rules are open it rests on the model's choices in logs 14 and 38. -/
def Obligations.Checkpoints : Prop := ∀ (s : State) (val : Word) (dest die : Nat),
  let status := fun (n : Nat) (t : State) => (t.hub.ckctl.extractLsb' 1 3).toNat = n
  let begun := fun (t : State) => status 1 t ∧ t.hub.ckctl.getLsbD 0 = val.getLsbD 0 ∧
    t.hub.copying = some (val.toNat / 2 ^ 30 % 2 ^ 18 * 2 ^ 46) ∧ memSame s t ∧
    (∀ g < 5, (t.fn g).frozen = true ∧ ((s.fn g).frozen = false → (t.fn g).fcause.extractLsb' 54 8 = 0x21)) ∧ t.pdies = s.pdies
  let refused := fun (t : State) => status 4 t ∧ t = { s with hub := { s.hub with ckctl := t.hub.ckctl } }
  (val.getLsbD 0 = true → s.hub.copying = none →
    (s.hub.activating = none → completes (.ckctlGo val) s begun) ∧ (s.hub.activating.isSome → completes (.ckctlGo val) s refused)) ∧
  (val.getLsbD 0 = true → s.hub.copying.isSome → completes (.ckctlGo val) s (fun t => t = s)) ∧
  (val.getLsbD 0 = false → completes (.ckctlGo val) s (fun t => t = { s with hub := { s.hub with ckctl := t.hub.ckctl } } ∧
    status (s.hub.ckctl.extractLsb' 1 3).toNat t ∧ t.hub.ckctl.getLsbD 0 = false)) ∧
  (s.hub.copying.isSome → completes .ckpt s (fun t => t = s)) ∧
  (s.hub.ckctl = val → s.hub.copying = none →
    (s.hub.activating = none → completes .ckpt s begun) ∧ (s.hub.activating.isSome → completes .ckpt s refused)) ∧
  (s.hub.copying = none → ∀ i ∈ [Instr.checkpointDone, .hostLinkLost], completes i s (fun t => t = s)) ∧
  (s.hub.copying = some dest →
    let copied := fun (n : Nat) (u t : State) => t.hub.copying = none ∧ (∀ k < n, t.byte (keyHost dest + k) = u.byte k) ∧
      (∀ k, ¬ (keyHost dest ≤ k ∧ k < keyHost dest + n) → t.byte k = u.byte k) ∧
      ∀ g < 5, (s.fn g).resetWait = true → (t.fn g).resetting = true
    (drainAll s = none → completes .checkpointDone s (fun t => t = s) ∧ completes .hostLinkLost s (fun t => status 3 t ∧ copied 0 s t)) ∧
    (∀ u, drainAll s = some u → Memory.wf s.mem = true → memSame s u ∧
      completes .checkpointDone s (fun t => copied (2 ^ 39) u t ∧ status 2 t ∧
        ∃ w, [.msix 0 2, .mctp 0 w] <+: t.out.drop s.out.length) ∧
      completes .hostLinkLost s (fun t => status 3 t ∧ ∃ n ≤ 2 ^ 39, n % 2 ^ 12 = 0 ∧ copied n u t))) ∧
  (die < 8 → completes (.telemetrySample die) s (fun t =>
    let p := s.pdie die
    ∃ u w1 w2, (p.telSeq + 1) * 1000000 ≤ u.cycleG ∧ memSame s u ∧ (w2 : Word).toNat % 2 ^ 32 = p.telSeq % 2 ^ 32 ∧
      (u.pdie die).telSample = [BitVec.ofNat 64 u.cycleG, w1, w2, 0] ∧ (u.pdie die).telSeq = p.telSeq + 1 ∧
      (p.telBase.getLsbD 0 = false → t = u) ∧
      (p.telBase.getLsbD 0 = true →
        let at_ := fun (o : Nat) => (p.telBase &&& 0xFFFFFFFF8000) + BitVec.ofNat 64 (32 * (p.telSeq % 1024) + o)
        t = writeSample (s.virt die) [(at_ 24, 0), (at_ 0, BitVec.ofNat 64 u.cycleG), (at_ 8, w1), (at_ 16, w2)] u))) ∧
  (∀ (v : Nat) (a w : Word) (l : Loc), s.agentLoc 0 v hubCore a .write = .ok l → (∀ d k, l ≠ .near d k) →
    memSame s (writeSample v [(a, w)] s) ∧ ∃ q, ((writeSample v [(a, w)] s).pdie (s.phys v)).sent = (s.pdie (s.phys v)).sent ++ [q] ∧
      q.req.op = .write (toBytes 8 w.toNat) ∧ q.req.loc = l)

/-! ### The machine as a whole -/

/-- R4, R8, R339, R342, 26 R396, 05 R89: after reset every byte of every storage is zero, no context has a task, every general
register is zero, format entries hold 0x2011, the PF holds every core and every range and the VFs none, no queue has a
sett, and time starts at zero. The values that the spec leaves to firmware or gives nowhere are the model's choices in logs 1, 2, 9, 10
and 17. -/
def Obligations.ResetValues : Prop :=
  (∀ k, State.reset.byte k = 0) ∧
  (∀ i, (State.reset.ctx i).task = none ∧ (State.reset.ctx i).mode = .free ∧ (State.reset.ctx i).astat = 0 ∧
    (State.reset.ctx i).regs = {} ∧ ∀ n, rd 0x2011 (State.reset.ctx i).mat.ft n = 0x2011) ∧
  (∀ j < 128, (State.reset.fn 0).pcore.getLsbD j = true ∧ look (State.reset.fn 0).vmap j = some j) ∧
  (∀ f, f ≠ 0 → State.reset.fn f = {}) ∧ (∀ f, (State.reset.fn f).troot = 0 ∧ (State.reset.fn f).frozen = false) ∧
  fstate (State.reset.fn 0) = 0 ∧ fstate (State.reset.fn 1) = 3 ∧
  (∀ d < 8, ∀ o < 2 ^ 36, State.reset.grantDram 0 d o = true) ∧ (∀ d < 8, ∀ o < 2 ^ 26, State.reset.grantShared 0 d o = true) ∧
  (∀ f q, State.reset.queue f q = {} ∧ qState State.reset f q = 3) ∧ State.reset.cycleG = 0 ∧ (∀ d, (State.reset.pdie d).cycle = 0) ∧
  State.reset.hub.modid = Config.boardModid ∧ ∀ d < 8, State.reset.phys d = d

/-- 02 R27, R28, R40 to R42, 06 R109, R110, 20 R329: a chosen event runs as its instruction, unless it comes behind the turns of the
cycle (14 R254, 12 R223) or would let a ready context's turn go by (14 R245); the interpreter's next operation
runs as the one its word decodes to; and a context whose turn it is in the order of its core and its banks (14 R264, 12 R223),
with a legal bundle at its pc that nothing holds back and in which one slot is not a NOP, runs exactly that slot's
instruction on the registers as they stand before the bundle, and then completes the bundle. A bundle that is illegal or
cannot be fetched traps at its own address with no slot run. A context whose turn it is not does not issue, nor one whose bundle no
link brings, nor one that would issue past the slack of a hold of its core (10 R186).
Where the rules are open it rests on the model's choices in logs 4, 14 and 17. -/
def Obligations.StepRunsTheDecoded : Prop := ∀ (s : State) (r : List Choice), s.hub.stopped = false →
  (let x := { s with agenda := r }
   let passes := fun (t : State) => (t.pdie 0).cycle - (x.pdie 0).cycle
   let skips := fun (t : State) => ∃ c ∈ x.ctxs, c.2.task.isSome ∧ ∃ y, turnOf x c.1 = some y ∧ y.1 < passes t
   let runs := fun (held : Bool) (o : Host.Outcome State Fault Refusal) =>
     (held = true → step s = .next x) ∧
     (held = false → (∀ t, o = .next t → ¬ skips t) → step s = o) ∧
     (held = false → ∀ t, o = .next t → skips t → step s = .next x)
   (∀ i, s.agenda = .event i :: r → runs (heldBack i x) (exec i x)) ∧
   (∀ v id, s.agenda = .engine v id :: r → runs (engineWaits v x) (exec (.engineJobComplete v id) x)) ∧
   (∀ i, (∀ cx, i ≠ .contextWorkRequest cx) → (∀ v id, i ≠ .engineJobComplete v id ∧ i ≠ .engineJobFault v id) → heldBack i x = false)) ∧
  (∀ c w i, s.agenda = .sett :: r → s.hub.interp = some c → (s.queue c.fn c.queue).sett[c.op]? = some w → decodeSett w = some i →
    step s = exec i { s with agenda := r }) ∧
  (∀ cx, s.agenda = .issue cx :: r → mayIssueNow cx { s with agenda := r } = false → step s = .next { s with agenda := r }) ∧
  (∀ cx k, s.agenda = .issue cx :: r → mayIssueNow cx { s with agenda := r } = true → (s.ctx cx).mode = .run → (s.ctx cx).task = some k →
    (s.ctx cx).wait = [] → (s.ctx cx).preempt = none →
    let u := { s with agenda := r, cur := cx }
    (coreFrozen (cx / 4) u = true → step s = .next u) ∧
    (look u.me.lbuf u.me.pc.toNat = none → u.fetchLinked cx k.fn u.me.pc = false → step s = .next u) ∧
    (coreFrozen (cx / 4) u = false → callWaits u cx = false →
     (look u.me.lbuf u.me.pc.toNat = none → u.fetchLinked cx k.fn u.me.pc = true) →
    (∀ e, fetchBundle k u = .error e → step s = exec (.bundleFetchFault e) u) ∧
    (∀ w f, fetchBundle k u = .ok (w, f) → (decodeBundle w).legal = false →
      step s = exec (.illegalBundle (decodeBundle w).cond (decodeBundle w).bad) f) ∧
    (∀ w f n i sel pre post, fetchBundle k u = .ok (w, f) → (decodeBundle w).legal = true →
      active (peek f) (decodeBundle w) = pre ++ (n, i, sel) :: post → (∀ y ∈ pre ++ post, y.2.1 = .nop) →
      let acts : List (Nat × Instr × Nat) := pre ++ (n, i, sel) :: post
      let now := (f.pdie (cx / 64)).cycle
      f.me.regPoison = [] → f.inElided = false → f.me.landings = [] → unchecked f = false →
      earlyTraps (peek f) (decodeBundle w) acts = [] → readyAt f.me (decodeBundle w) ≤ now → drainShort (peek f) acts = false →
      (∀ y ∈ acts, slotHeld (peek f) acts (openKeys f) y = false ∧ lateAt f.me (slotReads (peek f) acts y) ≤ now) →
      (∀ y ∈ (decodeBundle w).slots, (shape y.2.1).cls = .x → portBusy (peek f) = false ∧ (f.core (cx / 4)).portAt ≤ now) →
      frozenAt (cx / 4) now f = false → mergeFits now (decodeBundle w) f = true →
      let v := beginIssue now acts (takeTurn now (decodeBundle w) f)
      v.me.iss.view = f.me.regs ∧ v.me.iss.pc = f.me.pc ∧
      ∀ t, exec i (v.mod fun c => { c with iss := { c.iss with slot := n } }) = .next t → t.me.iss.aborted = false → t.me.wait = [] →
        t.me.regPoison = [] → step s = .next (finishBundle (match post.getLast? with
          | none => t
          | some y => t.mod fun c => { c with iss := { c.iss with slot := y.1 } }))))) ∧
  (∀ cond slots code,
    (s.me.mode = .run → completes (.illegalBundle cond slots) s (fun t => t = trapAt s.cur s.me.pc (cond ++ slots) 0x01 0 0 s.me.pc s) ∧
      completes (.bundleFetchFault code) s (fun t => t = trapAt s.cur s.me.pc 0 code (if code = 0x10 then 3 else 0) s.me.pc s.me.pc s)) ∧
    (s.me.mode ≠ .run → ∀ i ∈ [Instr.illegalBundle cond slots, .bundleFetchFault code], completes i s (fun t => t = s)))

/-- 03 R44 to R63, 20 R330: words written out from the tables of the spec decode to the instruction they stand for. -/
def Obligations.DecodedWords : Prop :=
  decodePlain 0x30600002 = some (.movi 6 2) ∧ decodePlain 0x34118000 = some (.cmpi .eq 1 6 0) ∧
  decodePlain 0x41000000 = some .exit ∧ decodePlain 0xC8228114 = some (.fence 2 10 .fabric 0x14) ∧
  decodePlain 0xC801C206 = some (.blk 7 6) ∧ decodePlain 0xB8080000 = some (.mpush 1) ∧
  decodeSett 0x04800000 = some (.settLdp 1 0) ∧ decodeSett 0x09000001 = some (.settLdi 2 1) ∧
  decodeSett 0x38140004 = some (.settBne 1 2 4) ∧ decodeSett 0x44390000 = some (.settEmit true 0 3 4) ∧
  decodeSett 0x48000005 = some (.settRej 5) ∧ decodeSett 0 = some .settEnd ∧ decodeSett 0x44000005 = none

/-- 03 R44 to R63, 02 R34, 20 R330: the decoder reads every well-formed instruction back from its own words, with every operand at
every value: a slot word with the bits its bundle lends it, or a sett word. So no two instructions share their words. Every
instruction that is no event of the machine has such words, and an event has none. -/
def Obligations.DecodingInvertsEncoding : Prop :=
  (∀ i, (isEvent i = false → isSett i = false → ∃ w lend, encode i = some (w, lend)) ∧ (isSett i = true → ∃ w, encodeSett i = some w) ∧
    (isEvent i = true → encode i = none ∧ encodeSett i = none)) ∧
  (∀ i w lend, i.wellFormed = true → encode i = some (w, lend) → decodeSlot w lend = some i) ∧
  (∀ i w, i.wellFormed = true → encodeSett i = some w → decodeSett w = some i)

/-- The reset memory is in canonical form. -/
def Obligations.ResetIsCanonical : Prop := Safety.Inv State.reset

/-- Every step of the machine keeps its memory in canonical form, so that equal memories are equal data. -/
def Obligations.StepKeepsMemoryCanonical : Prop := ∀ s t, Safety.Inv s → step s = .next t → Safety.Inv t

/-! ### Floating results as exact values -/

/-- 05 R75 to R78, R81 to R83, R92, 07 R124, R125, 08 R154, R161: what the floating operations of the other statements give, by the
numbers that their operands stand for. A sum, a difference, a product, a multiply-add, a conversion, a cell of a beat and an element of
a drain is the exact rational value of its operands rounded once in the mode given, with the zero of the sign that IEEE 754-2019 names,
subnormals read as zero under FTZ, overflow and status by R82; a NaN gives the canonical NaN, and 0 × ∞ and ∞ − ∞ are invalid. -/
def Obligations.FloatsRoundOnce : Prop := ∀ (f : FFmt) (md : RMode) (ftz sat neg isMax : Bool) (a b c : Nat),
  a < 2 ^ f.bits → b < 2 ^ f.bits → c < 2 ^ f.bits →
  let N := numberOf f ftz
  let n := negative f
  let F := fun (x : Nat) => isFinite f x = true
  let I := fun (x : Nat) => isInfinite f x = true
  let Q := fun (x : Nat) => isNaN f x = true
  let bad := fun (p : Bool) (r : Nat × Status) => r = (f.nan, if p then stInv else 0)
  let inf := fun (p : Bool) (r : Nat × Status) => isInfinite f r.1 = true ∧ n r.1 = p ∧ r.1 < 2 ^ f.bits ∧ r.2 = 0
  let zsum := fun (p q : Bool) => if p = q then p else decide (md = .rdn)
  let add := fadd f md ftz
  let sub := fsub f md ftz
  let mul := fmul f md ftz
  let fma := ffma f md ftz neg a b c
  let once := onceRounded f md ftz false
  let sp := (n a != n b) != neg
  let zi := (I a ∧ N b = 0) ∨ (I b ∧ N a = 0)
  (F a → F b →
    once (N a + N b) (zsum (n a) (n b)) (add a b) ∧ once (N a - N b) (zsum (n a) (!n b)) (sub a b) ∧
    once (N a * N b) (n a != n b) (mul a b) ∧
    (F c → once ((if neg then -1 else 1) * (N a * N b) + N c) (zsum sp (n c)) fma) ∧ (I c → inf (n c) fma)) ∧
  ((Q a ∨ Q b) → ∀ g ∈ [add, sub, mul], bad (signals f a || signals f b) (g a b)) ∧
  (zi → bad true fma) ∧ (¬ zi → (Q a ∨ Q b ∨ Q c) → bad (signals f a || signals f b || signals f c) fma) ∧
  (I a → F b → inf (n a) (add a b) ∧ inf (n a) (add b a) ∧ inf (n a) (sub a b) ∧ inf (!n a) (sub b a) ∧
    (N b = 0 → bad true (mul a b) ∧ bad true (mul b a)) ∧
    (N b ≠ 0 → inf (n a != n b) (mul a b) ∧ inf (n a != n b) (mul b a))) ∧
  (I a → I b → inf (n a != n b) (mul a b) ∧ (n a = n b → inf (n a) (add a b) ∧ bad true (sub a b)) ∧
    (n a ≠ n b → bad true (add a b) ∧ inf (n a) (sub a b))) ∧
  (¬ zi → ¬ Q a → ¬ Q b → ¬ Q c → (I a ∨ I b) → (I c → n c ≠ sp → bad true fma) ∧ ((I c → n c = sp) → inf sp fma)) ∧
  (let r := fminmax f ftz isMax a b
   let pass := fun (x z : Nat) => if ftz = true ∧ expField f x = 0 then N z = 0 ∧ n z = n x else z = x
   let st := if signals f a || signals f b then stInv else 0
   r.2 = st ∧ (Q a → Q b → r.1 = f.nan) ∧ (Q a → ¬ Q b → pass b r.1) ∧ (¬ Q a → Q b → pass a r.1) ∧
   (F a → F b → F r.1 ∧ N r.1 = (if (if isMax then N a < N b else N b < N a) then N b else N a) ∧
     (N a = 0 → N b = 0 → n r.1 = if isMax then n a && n b else n a || n b))) ∧
  (let toInt := fun (sgn : Bool) (w : Nat) (md : RMode) (sat : Bool) (x : Rat) (r : Nat × Status) =>
     let lo : Int := if sgn then -(2 ^ (w - 1)) else 0
     let hi : Int := if sgn then 2 ^ (w - 1) - 1 else 2 ^ w - 1
     ∃ k : Int, takes md x k ∧ let y := if k < lo then lo else if hi < k then hi else k
       r.1 = (y % 2 ^ w).toNat ∧ r.2 = (if (k : Rat) = x then 0 else stInx) ||| (if y = k then 0 else if sat then stSat else stInv)
   let signedOf := fun (sgn : Bool) (w x : Nat) => if sgn = true ∧ 2 ^ (w - 1) ≤ x then (x : Int) - 2 ^ w else (x : Int)
   (∀ src d, etyFmt src = some f → let r := convert d src md sat ftz a
     (∀ g, etyFmt d = some g →
       (F a → onceRounded g md ftz sat (N a) (n a) r) ∧ (Q a → r = (g.nan, if signals f a then stInv else 0)) ∧
       (I a → (g ≠ .f8e4 → isInfinite g r.1 = true ∧ negative g r.1 = n a ∧ r.2 = 0) ∧
         (g = .f8e4 → sat = false → r = (0x7F, stInv)) ∧ (g = .f8e4 → sat = true → r = (if n a then 0xFE else 0x7E, stSat)))) ∧
     (etyFmt d = none → d ≠ .t5 → (F a → toInt d.isSint d.bits md sat (N a) r) ∧ (Q a → r = (0, stInv)) ∧
       (I a → r = ((if n a then if d.isSint then 2 ^ (d.bits - 1) else 0 else if d.isSint then 2 ^ (d.bits - 1) - 1 else 2 ^ d.bits - 1),
         if sat then stSat else stInv)))) ∧
   (∀ src d g x, etyFmt src = none → src ≠ .t5 → etyFmt d = some g → x < 2 ^ src.bits →
     onceRounded g md ftz sat (signedOf src.isSint src.bits x) false (convert d src md sat ftz x)) ∧
   (f = .f32 → let r := cellF ftz a (c * 2 ^ 32 + b)
     let S := numberOf f false b + numberOf f false a
     let z := if n b = n a then n a else false
     (¬ (F b ∧ F a) → (r.1 % 2 ^ 32, r.2) = fadd .f32 .rne false b a ∧ r.1 / 2 ^ 32 = c) ∧
     (F b → F a → ∃ t, onceRounded f .rne false false S z t ∧ r.1 % 2 ^ 32 = t.1 ∧ (¬ F t.1 → r.1 / 2 ^ 32 = c ∧ r.2 = t.2) ∧
       (F t.1 → let d := (r.1 / 2 ^ 32, r.2)
         (F c → onceRounded f .rne ftz false (N c + (S - numberOf f false t.1)) false d) ∧ (I c → d = (c, 0)) ∧
         (Q c → bad (signals f c) d)))) ∧
   (∀ (e : Word) (d : ETy) (x : Nat), x < 2 ^ 64 → (d.isSint = true ∨ (etyFmt d).isSome) →
     let md := fRnd e
     let sat := fSat e
     let r := drainEl e d x
     (fAcc e = 0 → let s := x % 2 ^ 32
       let k := x / 2 ^ 32
       let V := (numberOf .f32 (fFtz e) s + numberOf .f32 (fFtz e) k) * 2 ^ (fScale e)
       let z := if negative .f32 s = negative .f32 k then negative .f32 s else decide (md = .rdn)
       (isFinite .f32 s = true → isFinite .f32 k = true → (∀ g, etyFmt d = some g → onceRounded g md (fFtz e) sat V z r) ∧
         (etyFmt d = none → toInt true d.bits md sat V r)) ∧
       (isFinite .f32 s = true → isFinite .f32 k = false → r = convert d .f32 md sat (fFtz e) k) ∧
       (isFinite .f32 s = false → r = convert d .f32 md sat (fFtz e) s)) ∧
     (fAcc e ≠ 0 → let V := (signedOf true 64 x : Rat) * 2 ^ (fScale e)
       (∀ g, etyFmt d = some g → onceRounded g md (fFtz e) sat V false r) ∧
       (etyFmt d = none → sat = true → ∃ k : Int, takes md V k ∧
         let y := if k < -(2 ^ (d.bits - 1)) then -(2 ^ (d.bits - 1)) else if 2 ^ (d.bits - 1) - 1 < k then 2 ^ (d.bits - 1) - 1 else k
         r.1 = (y % 2 ^ d.bits).toNat ∧ r.2 = (if (k : Rat) = V then 0 else stInx) ||| (if y = k then 0 else stSat)) ∧
       (etyFmt d = none → sat = false → ∃ k : Int, takes md V k ∧ r = ((k % 2 ^ d.bits).toNat, if (k : Rat) = V then 0 else stInx)))))
end

