-- ==== Sys2Proof/Laws/Store.lean ====
section
/-!
SUPPORT. The laws of sparse stores: read after write for every list, and that each operation keeps the canonical form.
-/
namespace Sys2Proof.Laws.Store
open Sys2Proof.Machine.Store

variable {α : Type}

/-! ### Read after write -/

@[simp] theorem look_nil (k : Nat) : look ([] : PMap α) k = none := rfl

theorem look_put (m : PMap α) (k : Nat) (x : α) (k' : Nat) :
    look (put m k x) k' = if k' = k then some x else look m k' := by
  induction m with
  | nil => simp [put, look]
  | cons e m ih =>
    obtain ⟨j, y⟩ := e
    simp only [put]
    split
    · simp [look]
    · split
      · subst_vars; simp only [look]; split <;> simp_all
      · simp only [look, ih]
        split
        · rw [if_neg (by omega)]
        · rfl

@[simp] theorem look_put_self (m : PMap α) (k : Nat) (x : α) : look (put m k x) k = some x := by simp [look_put]

theorem look_put_ne (m : PMap α) {k k' : Nat} (x : α) (h : k' ≠ k) : look (put m k x) k' = look m k' := by
  simp [look_put, h]

theorem look_del (m : PMap α) (k k' : Nat) : look (del m k) k' = if k' = k then none else look m k' := by
  induction m with
  | nil => simp [del, look]
  | cons e m ih =>
    obtain ⟨j, y⟩ := e
    simp only [del]
    split
    · rw [ih]; subst_vars; simp only [look]; split <;> simp_all
    · simp only [look, ih]
      split
      · rw [if_neg (by omega)]
      · rfl

@[simp] theorem rd_nil (d : α) (k : Nat) : rd d [] k = d := rfl

theorem rd_put (d : α) (m : PMap α) (k : Nat) (x : α) (k' : Nat) :
    rd d (put m k x) k' = if k' = k then x else rd d m k' := by
  unfold rd; rw [look_put]; split <;> rfl

@[simp] theorem rd_put_self (d : α) (m : PMap α) (k : Nat) (x : α) : rd d (put m k x) k = x := by simp [rd_put]

theorem rd_put_ne (d : α) (m : PMap α) {k k' : Nat} (x : α) (h : k' ≠ k) : rd d (put m k x) k' = rd d m k' := by
  simp [rd_put, h]

/-- A read after a write of a total map. -/
theorem rd_wr [DecidableEq α] (d : α) (m : PMap α) (k : Nat) (x : α) (k' : Nat) :
    rd d (wr d m k x) k' = if k' = k then x else rd d m k' := by
  unfold wr
  split
  · unfold rd; rw [look_del]; split <;> simp_all
  · exact rd_put d m k x k'

@[simp] theorem rd_wr_self [DecidableEq α] (d : α) (m : PMap α) (k : Nat) (x : α) : rd d (wr d m k x) k = x := by
  simp [rd_wr]

theorem rd_wr_ne [DecidableEq α] (d : α) (m : PMap α) {k k' : Nat} (x : α) (h : k' ≠ k) :
    rd d (wr d m k x) k' = rd d m k' := by simp [rd_wr, h]

theorem put_put (m : PMap α) (k : Nat) (x y : α) : put (put m k x) k y = put m k y := by
  induction m with
  | nil => simp [put]
  | cons e m ih =>
    obtain ⟨j, z⟩ := e
    by_cases h1 : k < j
    · simp [put, h1]
    · by_cases h2 : k = j
      · simp [put, h2]
      · simp [put, h1, h2, ih]

/-! ### The canonical form -/

theorem above_of_le {m : PMap α} {a b : Nat} (h : above b m = true) (hab : a ≤ b) : above a m = true := by
  cases m with
  | nil => rfl
  | cons e m =>
    simp only [above, Bool.and_eq_true, decide_eq_true_eq] at h ⊢
    exact ⟨by omega, h.2⟩

theorem rising_of_above {m : PMap α} {b : Nat} (h : above b m = true) : rising m = true := by
  cases m with
  | nil => rfl
  | cons e m => simp only [above, Bool.and_eq_true] at h; exact h.2

theorem above_put {m : PMap α} {b k : Nat} {x : α} (h : above b m = true) (hk : b < k) :
    above b (put m k x) = true := by
  induction m generalizing b with
  | nil => simp [put, above, hk]
  | cons e m ih =>
    obtain ⟨j, y⟩ := e
    simp only [above, Bool.and_eq_true, decide_eq_true_eq] at h
    simp only [put]
    split
    · simp only [above, Bool.and_eq_true, decide_eq_true_eq]; exact ⟨hk, by omega, h.2⟩
    · split
      · subst_vars; simp only [above, Bool.and_eq_true, decide_eq_true_eq]; exact h
      · simp only [above, Bool.and_eq_true, decide_eq_true_eq]; exact ⟨h.1, ih h.2 (by omega)⟩

theorem rising_put {m : PMap α} {k : Nat} {x : α} (h : rising m = true) : rising (put m k x) = true := by
  cases m with
  | nil => rfl
  | cons e m =>
    obtain ⟨j, y⟩ := e
    simp only [rising] at h
    simp only [put]
    split
    · simp only [rising, above, Bool.and_eq_true, decide_eq_true_eq]; exact ⟨by omega, h⟩
    · split
      · subst_vars; exact h
      · exact above_put h (by omega)

theorem above_filter {m : PMap α} {b : Nat} {q : Nat × α → Bool} (h : above b m = true) :
    above b (m.filter q) = true := by
  induction m generalizing b with
  | nil => rfl
  | cons e m ih =>
    simp only [above, Bool.and_eq_true, decide_eq_true_eq] at h
    simp only [List.filter_cons]
    split
    · simp only [above, Bool.and_eq_true, decide_eq_true_eq]; exact ⟨h.1, ih h.2⟩
    · exact above_of_le (ih h.2) (by omega)

theorem rising_filter {m : PMap α} {q : Nat × α → Bool} (h : rising m = true) : rising (m.filter q) = true := by
  cases m with
  | nil => rfl
  | cons e m =>
    simp only [rising] at h
    simp only [List.filter_cons]
    split
    · exact above_filter h
    · exact rising_of_above (above_filter h)

theorem del_eq_filter (m : PMap α) (k : Nat) : del m k = m.filter (fun e => decide (k ≠ e.1)) := by
  induction m with
  | nil => rfl
  | cons e m ih =>
    obtain ⟨j, y⟩ := e
    simp only [del, List.filter_cons, ih]
    split <;> simp_all

theorem rising_del {m : PMap α} {k : Nat} (h : rising m = true) : rising (del m k) = true := by
  rw [del_eq_filter]; exact rising_filter h

theorem all_put {m : PMap α} {k : Nat} {x : α} {q : Nat × α → Bool} (h : m.all q = true)
    (hx : q (k, x) = true) : (put m k x).all q = true := by
  induction m with
  | nil => simp [put, hx]
  | cons e m ih =>
    obtain ⟨j, y⟩ := e
    simp only [List.all_cons, Bool.and_eq_true] at h
    simp only [put]
    split
    · simp only [List.all_cons, Bool.and_eq_true]; exact ⟨hx, h⟩
    · split
      · simp only [List.all_cons, Bool.and_eq_true]; exact ⟨hx, h.2⟩
      · simp only [List.all_cons, Bool.and_eq_true]; exact ⟨h.1, ih h.2⟩

theorem all_filter {m : PMap α} {p q : Nat × α → Bool} (h : m.all q = true) : (m.filter p).all q = true := by
  rw [List.all_eq_true] at h ⊢
  intro x hx
  exact h x (List.mem_filter.mp hx).1

variable [DecidableEq α]

theorem canon_nil (d : α) : canon d [] = true := rfl

/-- Writing keeps the canonical form of a total map. -/
theorem canon_wr {d : α} {m : PMap α} {k : Nat} {x : α} (h : canon d m = true) : canon d (wr d m k x) = true := by
  unfold canon at h ⊢
  rw [Bool.and_eq_true] at h ⊢
  unfold wr
  split
  · refine ⟨rising_del h.1, ?_⟩
    rw [del_eq_filter]; exact all_filter h.2
  · rename_i hx
    exact ⟨rising_put h.1, all_put h.2 (by simpa using hx)⟩

/-- Dropping entries keeps the canonical form. -/
theorem canon_restrict {d : α} {m : PMap α} {keep : Nat → Bool} (h : canon d m = true) :
    canon d (restrict keep m) = true := by
  unfold canon at h ⊢
  rw [Bool.and_eq_true] at h ⊢
  exact ⟨rising_filter h.1, all_filter h.2⟩

/-- Placing a value that is not the default keeps the canonical form. -/
theorem canon_put {d : α} {m : PMap α} {k : Nat} {x : α} (h : canon d m = true) (hx : x ≠ d) :
    canon d (put m k x) = true := by
  unfold canon at h ⊢
  rw [Bool.and_eq_true] at h ⊢
  exact ⟨rising_put h.1, all_put h.2 (by simpa using hx)⟩

end Sys2Proof.Laws.Store
end

