-- ==== Sys2Proof/Laws/State.lean ====
section
/-!
SUPPORT. What each update of the state leaves alone and what it reads back as: one lemma per field per update, and the
laws of the register files.
-/
namespace Sys2Proof.Laws
open Sys2Proof.Machine Sys2Proof.Machine.Store Sys2Proof.Laws.Store

/-! ### Updates of one record leave the other fields of the state -/

@[simp] theorem setCtx_mem (s : State) (i : Nat) (c : Ctx) : (s.setCtx i c).mem = s.mem := rfl
@[simp] theorem setCtx_stamps (s : State) (i : Nat) (c : Ctx) : (s.setCtx i c).stamps = s.stamps := rfl
@[simp] theorem setCtx_poison (s : State) (i : Nat) (c : Ctx) : (s.setCtx i c).poison = s.poison := rfl
@[simp] theorem setCtx_cycleG (s : State) (i : Nat) (c : Ctx) : (s.setCtx i c).cycleG = s.cycleG := rfl
@[simp] theorem setCtx_cores (s : State) (i : Nat) (c : Ctx) : (s.setCtx i c).cores = s.cores := rfl
@[simp] theorem setCtx_pdies (s : State) (i : Nat) (c : Ctx) : (s.setCtx i c).pdies = s.pdies := rfl
@[simp] theorem setCtx_vdies (s : State) (i : Nat) (c : Ctx) : (s.setCtx i c).vdies = s.vdies := rfl
@[simp] theorem setCtx_fns (s : State) (i : Nat) (c : Ctx) : (s.setCtx i c).fns = s.fns := rfl
@[simp] theorem setCtx_links (s : State) (i : Nat) (c : Ctx) : (s.setCtx i c).links = s.links := rfl
@[simp] theorem setCtx_hub (s : State) (i : Nat) (c : Ctx) : (s.setCtx i c).hub = s.hub := rfl
@[simp] theorem setCtx_remap (s : State) (i : Nat) (c : Ctx) : (s.setCtx i c).remap = s.remap := rfl
@[simp] theorem setCtx_cur (s : State) (i : Nat) (c : Ctx) : (s.setCtx i c).cur = s.cur := rfl
@[simp] theorem setCtx_agenda (s : State) (i : Nat) (c : Ctx) : (s.setCtx i c).agenda = s.agenda := rfl
@[simp] theorem setCtx_freeCtr (s : State) (i : Nat) (c : Ctx) : (s.setCtx i c).freeCtr = s.freeCtr := rfl
@[simp] theorem setCtx_out (s : State) (i : Nat) (c : Ctx) : (s.setCtx i c).out = s.out := rfl

@[simp] theorem mod_mem (s : State) (f : Ctx → Ctx) : (s.mod f).mem = s.mem := rfl
@[simp] theorem mod_stamps (s : State) (f : Ctx → Ctx) : (s.mod f).stamps = s.stamps := rfl
@[simp] theorem mod_poison (s : State) (f : Ctx → Ctx) : (s.mod f).poison = s.poison := rfl
@[simp] theorem mod_cycleG (s : State) (f : Ctx → Ctx) : (s.mod f).cycleG = s.cycleG := rfl
@[simp] theorem mod_cores (s : State) (f : Ctx → Ctx) : (s.mod f).cores = s.cores := rfl
@[simp] theorem mod_pdies (s : State) (f : Ctx → Ctx) : (s.mod f).pdies = s.pdies := rfl
@[simp] theorem mod_vdies (s : State) (f : Ctx → Ctx) : (s.mod f).vdies = s.vdies := rfl
@[simp] theorem mod_fns (s : State) (f : Ctx → Ctx) : (s.mod f).fns = s.fns := rfl
@[simp] theorem mod_links (s : State) (f : Ctx → Ctx) : (s.mod f).links = s.links := rfl
@[simp] theorem mod_hub (s : State) (f : Ctx → Ctx) : (s.mod f).hub = s.hub := rfl
@[simp] theorem mod_remap (s : State) (f : Ctx → Ctx) : (s.mod f).remap = s.remap := rfl
@[simp] theorem mod_cur (s : State) (f : Ctx → Ctx) : (s.mod f).cur = s.cur := rfl
@[simp] theorem mod_agenda (s : State) (f : Ctx → Ctx) : (s.mod f).agenda = s.agenda := rfl
@[simp] theorem mod_freeCtr (s : State) (f : Ctx → Ctx) : (s.mod f).freeCtr = s.freeCtr := rfl
@[simp] theorem mod_out (s : State) (f : Ctx → Ctx) : (s.mod f).out = s.out := rfl

@[simp] theorem modCore_mem (s : State) (i : Nat) (f : Core → Core) : (s.modCore i f).mem = s.mem := rfl
@[simp] theorem modCore_stamps (s : State) (i : Nat) (f : Core → Core) : (s.modCore i f).stamps = s.stamps := rfl
@[simp] theorem modCore_poison (s : State) (i : Nat) (f : Core → Core) : (s.modCore i f).poison = s.poison := rfl
@[simp] theorem modCore_cycleG (s : State) (i : Nat) (f : Core → Core) : (s.modCore i f).cycleG = s.cycleG := rfl
@[simp] theorem modCore_ctxs (s : State) (i : Nat) (f : Core → Core) : (s.modCore i f).ctxs = s.ctxs := rfl
@[simp] theorem modCore_pdies (s : State) (i : Nat) (f : Core → Core) : (s.modCore i f).pdies = s.pdies := rfl
@[simp] theorem modCore_vdies (s : State) (i : Nat) (f : Core → Core) : (s.modCore i f).vdies = s.vdies := rfl
@[simp] theorem modCore_fns (s : State) (i : Nat) (f : Core → Core) : (s.modCore i f).fns = s.fns := rfl
@[simp] theorem modCore_links (s : State) (i : Nat) (f : Core → Core) : (s.modCore i f).links = s.links := rfl
@[simp] theorem modCore_hub (s : State) (i : Nat) (f : Core → Core) : (s.modCore i f).hub = s.hub := rfl
@[simp] theorem modCore_remap (s : State) (i : Nat) (f : Core → Core) : (s.modCore i f).remap = s.remap := rfl
@[simp] theorem modCore_cur (s : State) (i : Nat) (f : Core → Core) : (s.modCore i f).cur = s.cur := rfl
@[simp] theorem modCore_agenda (s : State) (i : Nat) (f : Core → Core) : (s.modCore i f).agenda = s.agenda := rfl
@[simp] theorem modCore_freeCtr (s : State) (i : Nat) (f : Core → Core) : (s.modCore i f).freeCtr = s.freeCtr := rfl
@[simp] theorem modCore_out (s : State) (i : Nat) (f : Core → Core) : (s.modCore i f).out = s.out := rfl

@[simp] theorem modPdie_mem (s : State) (i : Nat) (f : PDie → PDie) : (s.modPdie i f).mem = s.mem := rfl
@[simp] theorem modPdie_stamps (s : State) (i : Nat) (f : PDie → PDie) : (s.modPdie i f).stamps = s.stamps := rfl
@[simp] theorem modPdie_poison (s : State) (i : Nat) (f : PDie → PDie) : (s.modPdie i f).poison = s.poison := rfl
@[simp] theorem modPdie_cycleG (s : State) (i : Nat) (f : PDie → PDie) : (s.modPdie i f).cycleG = s.cycleG := rfl
@[simp] theorem modPdie_ctxs (s : State) (i : Nat) (f : PDie → PDie) : (s.modPdie i f).ctxs = s.ctxs := rfl
@[simp] theorem modPdie_cores (s : State) (i : Nat) (f : PDie → PDie) : (s.modPdie i f).cores = s.cores := rfl
@[simp] theorem modPdie_vdies (s : State) (i : Nat) (f : PDie → PDie) : (s.modPdie i f).vdies = s.vdies := rfl
@[simp] theorem modPdie_fns (s : State) (i : Nat) (f : PDie → PDie) : (s.modPdie i f).fns = s.fns := rfl
@[simp] theorem modPdie_links (s : State) (i : Nat) (f : PDie → PDie) : (s.modPdie i f).links = s.links := rfl
@[simp] theorem modPdie_hub (s : State) (i : Nat) (f : PDie → PDie) : (s.modPdie i f).hub = s.hub := rfl
@[simp] theorem modPdie_remap (s : State) (i : Nat) (f : PDie → PDie) : (s.modPdie i f).remap = s.remap := rfl
@[simp] theorem modPdie_cur (s : State) (i : Nat) (f : PDie → PDie) : (s.modPdie i f).cur = s.cur := rfl
@[simp] theorem modPdie_agenda (s : State) (i : Nat) (f : PDie → PDie) : (s.modPdie i f).agenda = s.agenda := rfl
@[simp] theorem modPdie_freeCtr (s : State) (i : Nat) (f : PDie → PDie) : (s.modPdie i f).freeCtr = s.freeCtr := rfl
@[simp] theorem modPdie_out (s : State) (i : Nat) (f : PDie → PDie) : (s.modPdie i f).out = s.out := rfl

@[simp] theorem modVdie_mem (s : State) (i : Nat) (f : VDie → VDie) : (s.modVdie i f).mem = s.mem := rfl
@[simp] theorem modVdie_stamps (s : State) (i : Nat) (f : VDie → VDie) : (s.modVdie i f).stamps = s.stamps := rfl
@[simp] theorem modVdie_poison (s : State) (i : Nat) (f : VDie → VDie) : (s.modVdie i f).poison = s.poison := rfl
@[simp] theorem modVdie_cycleG (s : State) (i : Nat) (f : VDie → VDie) : (s.modVdie i f).cycleG = s.cycleG := rfl
@[simp] theorem modVdie_ctxs (s : State) (i : Nat) (f : VDie → VDie) : (s.modVdie i f).ctxs = s.ctxs := rfl
@[simp] theorem modVdie_cores (s : State) (i : Nat) (f : VDie → VDie) : (s.modVdie i f).cores = s.cores := rfl
@[simp] theorem modVdie_pdies (s : State) (i : Nat) (f : VDie → VDie) : (s.modVdie i f).pdies = s.pdies := rfl
@[simp] theorem modVdie_fns (s : State) (i : Nat) (f : VDie → VDie) : (s.modVdie i f).fns = s.fns := rfl
@[simp] theorem modVdie_links (s : State) (i : Nat) (f : VDie → VDie) : (s.modVdie i f).links = s.links := rfl
@[simp] theorem modVdie_hub (s : State) (i : Nat) (f : VDie → VDie) : (s.modVdie i f).hub = s.hub := rfl
@[simp] theorem modVdie_remap (s : State) (i : Nat) (f : VDie → VDie) : (s.modVdie i f).remap = s.remap := rfl
@[simp] theorem modVdie_cur (s : State) (i : Nat) (f : VDie → VDie) : (s.modVdie i f).cur = s.cur := rfl
@[simp] theorem modVdie_agenda (s : State) (i : Nat) (f : VDie → VDie) : (s.modVdie i f).agenda = s.agenda := rfl
@[simp] theorem modVdie_freeCtr (s : State) (i : Nat) (f : VDie → VDie) : (s.modVdie i f).freeCtr = s.freeCtr := rfl
@[simp] theorem modVdie_out (s : State) (i : Nat) (f : VDie → VDie) : (s.modVdie i f).out = s.out := rfl

@[simp] theorem modFn_mem (s : State) (i : Nat) (f : Fn → Fn) : (s.modFn i f).mem = s.mem := rfl
@[simp] theorem modFn_stamps (s : State) (i : Nat) (f : Fn → Fn) : (s.modFn i f).stamps = s.stamps := rfl
@[simp] theorem modFn_poison (s : State) (i : Nat) (f : Fn → Fn) : (s.modFn i f).poison = s.poison := rfl
@[simp] theorem modFn_cycleG (s : State) (i : Nat) (f : Fn → Fn) : (s.modFn i f).cycleG = s.cycleG := rfl
@[simp] theorem modFn_ctxs (s : State) (i : Nat) (f : Fn → Fn) : (s.modFn i f).ctxs = s.ctxs := rfl
@[simp] theorem modFn_cores (s : State) (i : Nat) (f : Fn → Fn) : (s.modFn i f).cores = s.cores := rfl
@[simp] theorem modFn_pdies (s : State) (i : Nat) (f : Fn → Fn) : (s.modFn i f).pdies = s.pdies := rfl
@[simp] theorem modFn_vdies (s : State) (i : Nat) (f : Fn → Fn) : (s.modFn i f).vdies = s.vdies := rfl
@[simp] theorem modFn_links (s : State) (i : Nat) (f : Fn → Fn) : (s.modFn i f).links = s.links := rfl
@[simp] theorem modFn_hub (s : State) (i : Nat) (f : Fn → Fn) : (s.modFn i f).hub = s.hub := rfl
@[simp] theorem modFn_remap (s : State) (i : Nat) (f : Fn → Fn) : (s.modFn i f).remap = s.remap := rfl
@[simp] theorem modFn_cur (s : State) (i : Nat) (f : Fn → Fn) : (s.modFn i f).cur = s.cur := rfl
@[simp] theorem modFn_agenda (s : State) (i : Nat) (f : Fn → Fn) : (s.modFn i f).agenda = s.agenda := rfl
@[simp] theorem modFn_freeCtr (s : State) (i : Nat) (f : Fn → Fn) : (s.modFn i f).freeCtr = s.freeCtr := rfl
@[simp] theorem modFn_out (s : State) (i : Nat) (f : Fn → Fn) : (s.modFn i f).out = s.out := rfl

@[simp] theorem send_mem (s : State) (os : List Output) : (s.send os).mem = s.mem := rfl
@[simp] theorem send_stamps (s : State) (os : List Output) : (s.send os).stamps = s.stamps := rfl
@[simp] theorem send_poison (s : State) (os : List Output) : (s.send os).poison = s.poison := rfl
@[simp] theorem send_cycleG (s : State) (os : List Output) : (s.send os).cycleG = s.cycleG := rfl
@[simp] theorem send_ctxs (s : State) (os : List Output) : (s.send os).ctxs = s.ctxs := rfl
@[simp] theorem send_cores (s : State) (os : List Output) : (s.send os).cores = s.cores := rfl
@[simp] theorem send_pdies (s : State) (os : List Output) : (s.send os).pdies = s.pdies := rfl
@[simp] theorem send_vdies (s : State) (os : List Output) : (s.send os).vdies = s.vdies := rfl
@[simp] theorem send_fns (s : State) (os : List Output) : (s.send os).fns = s.fns := rfl
@[simp] theorem send_links (s : State) (os : List Output) : (s.send os).links = s.links := rfl
@[simp] theorem send_hub (s : State) (os : List Output) : (s.send os).hub = s.hub := rfl
@[simp] theorem send_remap (s : State) (os : List Output) : (s.send os).remap = s.remap := rfl
@[simp] theorem send_cur (s : State) (os : List Output) : (s.send os).cur = s.cur := rfl
@[simp] theorem send_agenda (s : State) (os : List Output) : (s.send os).agenda = s.agenda := rfl
@[simp] theorem send_freeCtr (s : State) (os : List Output) : (s.send os).freeCtr = s.freeCtr := rfl

@[simp] theorem pass_mem (s : State) (d n : Nat) : (pass d n s).mem = s.mem := rfl
@[simp] theorem pass_stamps (s : State) (d n : Nat) : (pass d n s).stamps = s.stamps := rfl
@[simp] theorem pass_poison (s : State) (d n : Nat) : (pass d n s).poison = s.poison := rfl
@[simp] theorem pass_ctxs (s : State) (d n : Nat) : (pass d n s).ctxs = s.ctxs := rfl
@[simp] theorem pass_cores (s : State) (d n : Nat) : (pass d n s).cores = s.cores := rfl
@[simp] theorem pass_vdies (s : State) (d n : Nat) : (pass d n s).vdies = s.vdies := rfl
@[simp] theorem pass_fns (s : State) (d n : Nat) : (pass d n s).fns = s.fns := rfl
@[simp] theorem pass_links (s : State) (d n : Nat) : (pass d n s).links = s.links := rfl
@[simp] theorem pass_hub (s : State) (d n : Nat) : (pass d n s).hub = s.hub := rfl
@[simp] theorem pass_remap (s : State) (d n : Nat) : (pass d n s).remap = s.remap := rfl
@[simp] theorem pass_cur (s : State) (d n : Nat) : (pass d n s).cur = s.cur := rfl
@[simp] theorem pass_agenda (s : State) (d n : Nat) : (pass d n s).agenda = s.agenda := rfl
@[simp] theorem pass_freeCtr (s : State) (d n : Nat) : (pass d n s).freeCtr = s.freeCtr := rfl
@[simp] theorem pass_out (s : State) (d n : Nat) : (pass d n s).out = s.out := rfl

@[simp] theorem due_mem (s : State) (t : Nat) : (due t s).mem = s.mem := rfl
@[simp] theorem due_stamps (s : State) (t : Nat) : (due t s).stamps = s.stamps := rfl
@[simp] theorem due_poison (s : State) (t : Nat) : (due t s).poison = s.poison := rfl
@[simp] theorem due_ctxs (s : State) (t : Nat) : (due t s).ctxs = s.ctxs := rfl
@[simp] theorem due_cores (s : State) (t : Nat) : (due t s).cores = s.cores := rfl
@[simp] theorem due_pdies (s : State) (t : Nat) : (due t s).pdies = s.pdies := rfl
@[simp] theorem due_vdies (s : State) (t : Nat) : (due t s).vdies = s.vdies := rfl
@[simp] theorem due_fns (s : State) (t : Nat) : (due t s).fns = s.fns := rfl
@[simp] theorem due_links (s : State) (t : Nat) : (due t s).links = s.links := rfl
@[simp] theorem due_hub (s : State) (t : Nat) : (due t s).hub = s.hub := rfl
@[simp] theorem due_remap (s : State) (t : Nat) : (due t s).remap = s.remap := rfl
@[simp] theorem due_cur (s : State) (t : Nat) : (due t s).cur = s.cur := rfl
@[simp] theorem due_agenda (s : State) (t : Nat) : (due t s).agenda = s.agenda := rfl
@[simp] theorem due_freeCtr (s : State) (t : Nat) : (due t s).freeCtr = s.freeCtr := rfl
@[simp] theorem due_out (s : State) (t : Nat) : (due t s).out = s.out := rfl

/-! ### Records read back -/

@[simp] theorem ctx_setCtx (s : State) (i : Nat) (c : Ctx) : (s.setCtx i c).ctx i = c := rd_put_self _ _ _ _

theorem ctx_setCtx_ne (s : State) {i j : Nat} (c : Ctx) (h : j ≠ i) : (s.setCtx i c).ctx j = s.ctx j := rd_put_ne _ _ _ h

@[simp] theorem mod_me (s : State) (f : Ctx → Ctx) : (s.mod f).me = f s.me := rd_put_self _ _ _ _

theorem mod_ctx_ne (s : State) (f : Ctx → Ctx) {j : Nat} (h : j ≠ s.cur) : (s.mod f).ctx j = s.ctx j := rd_put_ne _ _ _ h

@[simp] theorem setCtx_setCtx (s : State) (i : Nat) (c c' : Ctx) : (s.setCtx i c).setCtx i c' = s.setCtx i c' := by
  simp [State.setCtx, put_put]

@[simp] theorem mod_mod (s : State) (f g : Ctx → Ctx) : (s.mod f).mod g = s.mod (fun c => g (f c)) := by
  simp [State.mod, State.me, State.setCtx, State.ctx, put_put]

@[simp] theorem core_modCore (s : State) (i : Nat) (f : Core → Core) : (s.modCore i f).core i = f (s.core i) :=
  rd_put_self _ _ _ _

theorem core_modCore_ne (s : State) {i j : Nat} (f : Core → Core) (h : j ≠ i) : (s.modCore i f).core j = s.core j :=
  rd_put_ne _ _ _ h

@[simp] theorem pdie_modPdie (s : State) (i : Nat) (f : PDie → PDie) : (s.modPdie i f).pdie i = f (s.pdie i) :=
  rd_put_self _ _ _ _

theorem pdie_modPdie_ne (s : State) {i j : Nat} (f : PDie → PDie) (h : j ≠ i) : (s.modPdie i f).pdie j = s.pdie j :=
  rd_put_ne _ _ _ h

@[simp] theorem vdie_modVdie (s : State) (i : Nat) (f : VDie → VDie) : (s.modVdie i f).vdie i = f (s.vdie i) :=
  rd_put_self _ _ _ _

theorem vdie_modVdie_ne (s : State) {i j : Nat} (f : VDie → VDie) (h : j ≠ i) : (s.modVdie i f).vdie j = s.vdie j :=
  rd_put_ne _ _ _ h

@[simp] theorem fn_modFn (s : State) (i : Nat) (f : Fn → Fn) : (s.modFn i f).fn i = f (s.fn i) :=
  rd_put_self _ _ _ _

theorem fn_modFn_ne (s : State) {i j : Nat} (f : Fn → Fn) (h : j ≠ i) : (s.modFn i f).fn j = s.fn j :=
  rd_put_ne _ _ _ h

/-! ### Records of one kind do not see updates of another -/

@[simp] theorem ctx_modCore_other (s : State) (i : Nat) (f : Core → Core) (j : Nat) : (s.modCore i f).ctx j = s.ctx j := rfl
@[simp] theorem ctx_modPdie_other (s : State) (i : Nat) (f : PDie → PDie) (j : Nat) : (s.modPdie i f).ctx j = s.ctx j := rfl
@[simp] theorem ctx_modVdie_other (s : State) (i : Nat) (f : VDie → VDie) (j : Nat) : (s.modVdie i f).ctx j = s.ctx j := rfl
@[simp] theorem ctx_modFn_other (s : State) (i : Nat) (f : Fn → Fn) (j : Nat) : (s.modFn i f).ctx j = s.ctx j := rfl
@[simp] theorem ctx_send_other (s : State) (os : List Output) (j : Nat) : (s.send os).ctx j = s.ctx j := rfl
@[simp] theorem core_setCtx_other (s : State) (i : Nat) (c : Ctx) (j : Nat) : (s.setCtx i c).core j = s.core j := rfl
@[simp] theorem core_mod_other (s : State) (f : Ctx → Ctx) (j : Nat) : (s.mod f).core j = s.core j := rfl
@[simp] theorem core_modPdie_other (s : State) (i : Nat) (f : PDie → PDie) (j : Nat) : (s.modPdie i f).core j = s.core j := rfl
@[simp] theorem core_modVdie_other (s : State) (i : Nat) (f : VDie → VDie) (j : Nat) : (s.modVdie i f).core j = s.core j := rfl
@[simp] theorem core_modFn_other (s : State) (i : Nat) (f : Fn → Fn) (j : Nat) : (s.modFn i f).core j = s.core j := rfl
@[simp] theorem core_send_other (s : State) (os : List Output) (j : Nat) : (s.send os).core j = s.core j := rfl
@[simp] theorem pdie_setCtx_other (s : State) (i : Nat) (c : Ctx) (j : Nat) : (s.setCtx i c).pdie j = s.pdie j := rfl
@[simp] theorem pdie_mod_other (s : State) (f : Ctx → Ctx) (j : Nat) : (s.mod f).pdie j = s.pdie j := rfl
@[simp] theorem pdie_modCore_other (s : State) (i : Nat) (f : Core → Core) (j : Nat) : (s.modCore i f).pdie j = s.pdie j := rfl
@[simp] theorem pdie_modVdie_other (s : State) (i : Nat) (f : VDie → VDie) (j : Nat) : (s.modVdie i f).pdie j = s.pdie j := rfl
@[simp] theorem pdie_modFn_other (s : State) (i : Nat) (f : Fn → Fn) (j : Nat) : (s.modFn i f).pdie j = s.pdie j := rfl
@[simp] theorem pdie_send_other (s : State) (os : List Output) (j : Nat) : (s.send os).pdie j = s.pdie j := rfl
@[simp] theorem vdie_setCtx_other (s : State) (i : Nat) (c : Ctx) (j : Nat) : (s.setCtx i c).vdie j = s.vdie j := rfl
@[simp] theorem vdie_mod_other (s : State) (f : Ctx → Ctx) (j : Nat) : (s.mod f).vdie j = s.vdie j := rfl
@[simp] theorem vdie_modCore_other (s : State) (i : Nat) (f : Core → Core) (j : Nat) : (s.modCore i f).vdie j = s.vdie j := rfl
@[simp] theorem vdie_modPdie_other (s : State) (i : Nat) (f : PDie → PDie) (j : Nat) : (s.modPdie i f).vdie j = s.vdie j := rfl
@[simp] theorem vdie_modFn_other (s : State) (i : Nat) (f : Fn → Fn) (j : Nat) : (s.modFn i f).vdie j = s.vdie j := rfl
@[simp] theorem vdie_send_other (s : State) (os : List Output) (j : Nat) : (s.send os).vdie j = s.vdie j := rfl
@[simp] theorem fn_setCtx_other (s : State) (i : Nat) (c : Ctx) (j : Nat) : (s.setCtx i c).fn j = s.fn j := rfl
@[simp] theorem fn_mod_other (s : State) (f : Ctx → Ctx) (j : Nat) : (s.mod f).fn j = s.fn j := rfl
@[simp] theorem fn_modCore_other (s : State) (i : Nat) (f : Core → Core) (j : Nat) : (s.modCore i f).fn j = s.fn j := rfl
@[simp] theorem fn_modPdie_other (s : State) (i : Nat) (f : PDie → PDie) (j : Nat) : (s.modPdie i f).fn j = s.fn j := rfl
@[simp] theorem fn_modVdie_other (s : State) (i : Nat) (f : VDie → VDie) (j : Nat) : (s.modVdie i f).fn j = s.fn j := rfl
@[simp] theorem fn_send_other (s : State) (os : List Output) (j : Nat) : (s.send os).fn j = s.fn j := rfl

@[simp] theorem me_modCore_other (s : State) (i : Nat) (f : Core → Core) : (s.modCore i f).me = s.me := rfl
@[simp] theorem me_modPdie_other (s : State) (i : Nat) (f : PDie → PDie) : (s.modPdie i f).me = s.me := rfl
@[simp] theorem me_modVdie_other (s : State) (i : Nat) (f : VDie → VDie) : (s.modVdie i f).me = s.me := rfl
@[simp] theorem me_modFn_other (s : State) (i : Nat) (f : Fn → Fn) : (s.modFn i f).me = s.me := rfl
@[simp] theorem me_send_other (s : State) (os : List Output) : (s.send os).me = s.me := rfl

/-! ### Register files: a read of the file after a write, and what the write leaves -/

theorem wS_zero (s : State) (x : Word) : wS s 0 x = s := rfl

theorem wS_eq (s : State) {n : BitVec 6} (x : Word) (h : n ≠ 0) :
    wS s n x = s.mod fun c => { c with regs := { c.regs with s := wr 0 c.regs.s n.toNat x } } := by
  unfold wS; rw [if_neg h]

theorem wP_zero (s : State) (x : Bool) : wP s 0 x = s := rfl

theorem wP_eq (s : State) {n : Nat} (x : Bool) (h : n ≠ 0) :
    wP s n x = s.mod fun c => { c with regs := { c.regs with p := wr false c.regs.p n x } } := by
  unfold wP; rw [if_neg h]

@[simp] theorem wS_mem (s : State) (n : BitVec 6) (x : Word) : (wS s n x).mem = s.mem := by unfold wS; split <;> rfl
@[simp] theorem wS_stamps (s : State) (n : BitVec 6) (x : Word) : (wS s n x).stamps = s.stamps := by unfold wS; split <;> rfl
@[simp] theorem wS_poison (s : State) (n : BitVec 6) (x : Word) : (wS s n x).poison = s.poison := by unfold wS; split <;> rfl
@[simp] theorem wS_cycleG (s : State) (n : BitVec 6) (x : Word) : (wS s n x).cycleG = s.cycleG := by unfold wS; split <;> rfl
@[simp] theorem wS_cores (s : State) (n : BitVec 6) (x : Word) : (wS s n x).cores = s.cores := by unfold wS; split <;> rfl
@[simp] theorem wS_pdies (s : State) (n : BitVec 6) (x : Word) : (wS s n x).pdies = s.pdies := by unfold wS; split <;> rfl
@[simp] theorem wS_vdies (s : State) (n : BitVec 6) (x : Word) : (wS s n x).vdies = s.vdies := by unfold wS; split <;> rfl
@[simp] theorem wS_fns (s : State) (n : BitVec 6) (x : Word) : (wS s n x).fns = s.fns := by unfold wS; split <;> rfl
@[simp] theorem wS_links (s : State) (n : BitVec 6) (x : Word) : (wS s n x).links = s.links := by unfold wS; split <;> rfl
@[simp] theorem wS_hub (s : State) (n : BitVec 6) (x : Word) : (wS s n x).hub = s.hub := by unfold wS; split <;> rfl
@[simp] theorem wS_remap (s : State) (n : BitVec 6) (x : Word) : (wS s n x).remap = s.remap := by unfold wS; split <;> rfl
@[simp] theorem wS_cur (s : State) (n : BitVec 6) (x : Word) : (wS s n x).cur = s.cur := by unfold wS; split <;> rfl
@[simp] theorem wS_agenda (s : State) (n : BitVec 6) (x : Word) : (wS s n x).agenda = s.agenda := by unfold wS; split <;> rfl
@[simp] theorem wS_freeCtr (s : State) (n : BitVec 6) (x : Word) : (wS s n x).freeCtr = s.freeCtr := by unfold wS; split <;> rfl
@[simp] theorem wS_out (s : State) (n : BitVec 6) (x : Word) : (wS s n x).out = s.out := by unfold wS; split <;> rfl

@[simp] theorem wP_mem (s : State) (n : Nat) (x : Bool) : (wP s n x).mem = s.mem := by unfold wP; split <;> rfl
@[simp] theorem wP_stamps (s : State) (n : Nat) (x : Bool) : (wP s n x).stamps = s.stamps := by unfold wP; split <;> rfl
@[simp] theorem wP_poison (s : State) (n : Nat) (x : Bool) : (wP s n x).poison = s.poison := by unfold wP; split <;> rfl
@[simp] theorem wP_cycleG (s : State) (n : Nat) (x : Bool) : (wP s n x).cycleG = s.cycleG := by unfold wP; split <;> rfl
@[simp] theorem wP_cores (s : State) (n : Nat) (x : Bool) : (wP s n x).cores = s.cores := by unfold wP; split <;> rfl
@[simp] theorem wP_pdies (s : State) (n : Nat) (x : Bool) : (wP s n x).pdies = s.pdies := by unfold wP; split <;> rfl
@[simp] theorem wP_vdies (s : State) (n : Nat) (x : Bool) : (wP s n x).vdies = s.vdies := by unfold wP; split <;> rfl
@[simp] theorem wP_fns (s : State) (n : Nat) (x : Bool) : (wP s n x).fns = s.fns := by unfold wP; split <;> rfl
@[simp] theorem wP_links (s : State) (n : Nat) (x : Bool) : (wP s n x).links = s.links := by unfold wP; split <;> rfl
@[simp] theorem wP_hub (s : State) (n : Nat) (x : Bool) : (wP s n x).hub = s.hub := by unfold wP; split <;> rfl
@[simp] theorem wP_remap (s : State) (n : Nat) (x : Bool) : (wP s n x).remap = s.remap := by unfold wP; split <;> rfl
@[simp] theorem wP_cur (s : State) (n : Nat) (x : Bool) : (wP s n x).cur = s.cur := by unfold wP; split <;> rfl
@[simp] theorem wP_agenda (s : State) (n : Nat) (x : Bool) : (wP s n x).agenda = s.agenda := by unfold wP; split <;> rfl
@[simp] theorem wP_freeCtr (s : State) (n : Nat) (x : Bool) : (wP s n x).freeCtr = s.freeCtr := by unfold wP; split <;> rfl
@[simp] theorem wP_out (s : State) (n : Nat) (x : Bool) : (wP s n x).out = s.out := by unfold wP; split <;> rfl

@[simp] theorem wA_mem (s : State) (n : Nat) (x : Word) : (wA s n x).mem = s.mem := rfl
@[simp] theorem wA_stamps (s : State) (n : Nat) (x : Word) : (wA s n x).stamps = s.stamps := rfl
@[simp] theorem wA_poison (s : State) (n : Nat) (x : Word) : (wA s n x).poison = s.poison := rfl
@[simp] theorem wA_cycleG (s : State) (n : Nat) (x : Word) : (wA s n x).cycleG = s.cycleG := rfl
@[simp] theorem wA_cores (s : State) (n : Nat) (x : Word) : (wA s n x).cores = s.cores := rfl
@[simp] theorem wA_pdies (s : State) (n : Nat) (x : Word) : (wA s n x).pdies = s.pdies := rfl
@[simp] theorem wA_vdies (s : State) (n : Nat) (x : Word) : (wA s n x).vdies = s.vdies := rfl
@[simp] theorem wA_fns (s : State) (n : Nat) (x : Word) : (wA s n x).fns = s.fns := rfl
@[simp] theorem wA_links (s : State) (n : Nat) (x : Word) : (wA s n x).links = s.links := rfl
@[simp] theorem wA_hub (s : State) (n : Nat) (x : Word) : (wA s n x).hub = s.hub := rfl
@[simp] theorem wA_remap (s : State) (n : Nat) (x : Word) : (wA s n x).remap = s.remap := rfl
@[simp] theorem wA_cur (s : State) (n : Nat) (x : Word) : (wA s n x).cur = s.cur := rfl
@[simp] theorem wA_agenda (s : State) (n : Nat) (x : Word) : (wA s n x).agenda = s.agenda := rfl
@[simp] theorem wA_freeCtr (s : State) (n : Nat) (x : Word) : (wA s n x).freeCtr = s.freeCtr := rfl
@[simp] theorem wA_out (s : State) (n : Nat) (x : Word) : (wA s n x).out = s.out := rfl

@[simp] theorem wK_mem (s : State) (n : Nat) (x : KMask) : (wK s n x).mem = s.mem := rfl
@[simp] theorem wK_stamps (s : State) (n : Nat) (x : KMask) : (wK s n x).stamps = s.stamps := rfl
@[simp] theorem wK_poison (s : State) (n : Nat) (x : KMask) : (wK s n x).poison = s.poison := rfl
@[simp] theorem wK_cycleG (s : State) (n : Nat) (x : KMask) : (wK s n x).cycleG = s.cycleG := rfl
@[simp] theorem wK_cores (s : State) (n : Nat) (x : KMask) : (wK s n x).cores = s.cores := rfl
@[simp] theorem wK_pdies (s : State) (n : Nat) (x : KMask) : (wK s n x).pdies = s.pdies := rfl
@[simp] theorem wK_vdies (s : State) (n : Nat) (x : KMask) : (wK s n x).vdies = s.vdies := rfl
@[simp] theorem wK_fns (s : State) (n : Nat) (x : KMask) : (wK s n x).fns = s.fns := rfl
@[simp] theorem wK_links (s : State) (n : Nat) (x : KMask) : (wK s n x).links = s.links := rfl
@[simp] theorem wK_hub (s : State) (n : Nat) (x : KMask) : (wK s n x).hub = s.hub := rfl
@[simp] theorem wK_remap (s : State) (n : Nat) (x : KMask) : (wK s n x).remap = s.remap := rfl
@[simp] theorem wK_cur (s : State) (n : Nat) (x : KMask) : (wK s n x).cur = s.cur := rfl
@[simp] theorem wK_agenda (s : State) (n : Nat) (x : KMask) : (wK s n x).agenda = s.agenda := rfl
@[simp] theorem wK_freeCtr (s : State) (n : Nat) (x : KMask) : (wK s n x).freeCtr = s.freeCtr := rfl
@[simp] theorem wK_out (s : State) (n : Nat) (x : KMask) : (wK s n x).out = s.out := rfl

@[simp] theorem wV_mem (s : State) (n : Nat) (x : VReg) : (wV s n x).mem = s.mem := rfl
@[simp] theorem wV_stamps (s : State) (n : Nat) (x : VReg) : (wV s n x).stamps = s.stamps := rfl
@[simp] theorem wV_poison (s : State) (n : Nat) (x : VReg) : (wV s n x).poison = s.poison := rfl
@[simp] theorem wV_cycleG (s : State) (n : Nat) (x : VReg) : (wV s n x).cycleG = s.cycleG := rfl
@[simp] theorem wV_cores (s : State) (n : Nat) (x : VReg) : (wV s n x).cores = s.cores := rfl
@[simp] theorem wV_pdies (s : State) (n : Nat) (x : VReg) : (wV s n x).pdies = s.pdies := rfl
@[simp] theorem wV_vdies (s : State) (n : Nat) (x : VReg) : (wV s n x).vdies = s.vdies := rfl
@[simp] theorem wV_fns (s : State) (n : Nat) (x : VReg) : (wV s n x).fns = s.fns := rfl
@[simp] theorem wV_links (s : State) (n : Nat) (x : VReg) : (wV s n x).links = s.links := rfl
@[simp] theorem wV_hub (s : State) (n : Nat) (x : VReg) : (wV s n x).hub = s.hub := rfl
@[simp] theorem wV_remap (s : State) (n : Nat) (x : VReg) : (wV s n x).remap = s.remap := rfl
@[simp] theorem wV_cur (s : State) (n : Nat) (x : VReg) : (wV s n x).cur = s.cur := rfl
@[simp] theorem wV_agenda (s : State) (n : Nat) (x : VReg) : (wV s n x).agenda = s.agenda := rfl
@[simp] theorem wV_freeCtr (s : State) (n : Nat) (x : VReg) : (wV s n x).freeCtr = s.freeCtr := rfl
@[simp] theorem wV_out (s : State) (n : Nat) (x : VReg) : (wV s n x).out = s.out := rfl

@[simp] theorem kill_mem (s : State) (n : Nat) : (kill n s).mem = s.mem := rfl
@[simp] theorem kill_stamps (s : State) (n : Nat) : (kill n s).stamps = s.stamps := rfl
@[simp] theorem kill_poison (s : State) (n : Nat) : (kill n s).poison = s.poison := rfl
@[simp] theorem kill_cycleG (s : State) (n : Nat) : (kill n s).cycleG = s.cycleG := rfl
@[simp] theorem kill_cores (s : State) (n : Nat) : (kill n s).cores = s.cores := rfl
@[simp] theorem kill_pdies (s : State) (n : Nat) : (kill n s).pdies = s.pdies := rfl
@[simp] theorem kill_vdies (s : State) (n : Nat) : (kill n s).vdies = s.vdies := rfl
@[simp] theorem kill_fns (s : State) (n : Nat) : (kill n s).fns = s.fns := rfl
@[simp] theorem kill_links (s : State) (n : Nat) : (kill n s).links = s.links := rfl
@[simp] theorem kill_hub (s : State) (n : Nat) : (kill n s).hub = s.hub := rfl
@[simp] theorem kill_remap (s : State) (n : Nat) : (kill n s).remap = s.remap := rfl
@[simp] theorem kill_cur (s : State) (n : Nat) : (kill n s).cur = s.cur := rfl
@[simp] theorem kill_agenda (s : State) (n : Nat) : (kill n s).agenda = s.agenda := rfl
@[simp] theorem kill_freeCtr (s : State) (n : Nat) : (kill n s).freeCtr = s.freeCtr := rfl
@[simp] theorem kill_out (s : State) (n : Nat) : (kill n s).out = s.out := rfl

end Sys2Proof.Laws
end

