-- ==== Sys2Proof/Laws/Registers.lean ====
section
/-!
SUPPORT. What the register writes do: the named register takes the value, every other register and all the rest of the
state stay.
-/
namespace Sys2Proof.Laws
open Sys2Proof Sys2Proof.Machine Sys2Proof.Machine.Store Sys2Proof.Safety Sys2Proof.Laws.Store

theorem toNat_inj6 {a b : BitVec 6} (h : a.toNat = b.toNat) : a = b := BitVec.eq_of_toNat_eq h

/-- A write of an s register. -/
theorem setsS_wS (s : State) (d : BitVec 6) (x : Word) : setsS s d x (wS s d x) := by
  by_cases h : d = 0
  · subst h
    rw [wS_zero]
    exact ⟨rfl, fun _ _ => rfl, .inl rfl, fun _ => rfl⟩
  · rw [wS_eq s x h]
    refine ⟨by simp [sReg], fun n hn => ?_, .inr ⟨_, rfl⟩, fun _ => rfl⟩
    unfold sReg
    split
    · rfl
    · rw [mod_me]
      exact rd_wr_ne _ _ _ fun e => hn (toNat_inj6 e)

/-- A write of an a register. -/
theorem setsA_wA (s : State) (d : Nat) (x : Word) : setsA s d x (wA s d x) :=
  ⟨by simp [aReg, wA], fun n hn => by simp [aReg, wA, rd_wr_ne _ _ _ hn], ⟨_, rfl⟩, fun _ => rfl⟩

/-- A write of a p register. -/
theorem setsP_wP (s : State) (d : Nat) (x : Bool) : setsP s d x (wP s d x) := by
  by_cases h : d = 0
  · subst h
    rw [wP_zero]
    exact ⟨rfl, fun _ _ => rfl, .inl rfl, fun _ => rfl⟩
  · rw [wP_eq s x h]
    refine ⟨by simp [pReg, h], fun n hn => ?_, .inr ⟨_, rfl⟩, fun _ => rfl⟩
    unfold pReg
    split
    · rfl
    · rw [mod_me]
      exact rd_wr_ne _ _ _ hn

/-- A write of a k register. -/
theorem setsK_wK (s : State) (d : Nat) (x : KMask) : setsK s d x (wK s d x) :=
  ⟨by simp [kReg, wK], fun n hn => by simp [kReg, wK, rd_wr_ne _ _ _ hn], ⟨_, rfl⟩, fun _ => rfl⟩

end Sys2Proof.Laws
end

