-- ==== Sys2Proof/Laws/Vector.lean ====
section
/-!
SUPPORT. What a vector slot does, said once: the elements it packs, the bits it keeps, its status, its last-use marks,
and the traps that hold it back.
-/
namespace Sys2Proof.Laws
open Sys2Proof Sys2Proof.Machine Sys2Proof.Machine.Store Sys2Proof.Safety Sys2Proof.Laws.Store

/-! ### Packed elements -/

theorem packEls_lt (e : Nat) (xs : List Nat) : packEls e xs < 2 ^ (e * xs.length) := by
  induction xs with
  | nil => simp [packEls]
  | cons x xs ih =>
    have h1 : x % 2 ^ e < 2 ^ e := Nat.mod_lt _ (Nat.two_pow_pos e)
    have h2 : 2 ^ (e * (xs.length + 1)) = 2 ^ e * 2 ^ (e * xs.length) := by rw [← Nat.pow_add]; congr 1; rw [Nat.mul_succ]; omega
    have h3 : 2 ^ e * packEls e xs + 2 ^ e ≤ 2 ^ e * 2 ^ (e * xs.length) := by
      have := Nat.mul_le_mul_left (2 ^ e) (Nat.succ_le_of_lt ih)
      rw [Nat.mul_succ] at this; exact this
    simp only [packEls, List.length_cons, h2]
    omega

/-- Element j of packed elements. -/
theorem packEls_elem (e : Nat) (xs : List Nat) (j : Nat) (hj : j < xs.length) :
    packEls e xs / 2 ^ (e * j) % 2 ^ e = xs[j] % 2 ^ e := by
  induction xs generalizing j with
  | nil => simp at hj
  | cons x xs ih =>
    have hp := Nat.two_pow_pos e
    cases j with
    | zero => simp [packEls, Nat.add_mul_mod_self_left]
    | succ j =>
      have h2 : 2 ^ (e * (j + 1)) = 2 ^ e * 2 ^ (e * j) := by rw [← Nat.pow_add]; congr 1; rw [Nat.mul_succ]; omega
      have h3 : (x % 2 ^ e + 2 ^ e * packEls e xs) / 2 ^ e = packEls e xs := by
        rw [Nat.add_mul_div_left _ _ hp, Nat.div_eq_of_lt (Nat.mod_lt _ hp)]; omega
      simp only [packEls, h2, ← Nat.div_div_eq_div_mul, h3, List.getElem_cons_succ]
      exact ih j (by simpa using hj)

theorem setLow_toNat (old : VReg) (w x : Nat) (hw : w ≤ 1024) :
    (setLow old w x).toNat = old.toNat / 2 ^ w * 2 ^ w + x % 2 ^ w := by
  have h1 : x % 2 ^ w < 2 ^ w := Nat.mod_lt _ (Nat.two_pow_pos w)
  have h2 : old.toNat < 2 ^ w * 2 ^ (1024 - w) := by
    rw [← Nat.pow_add, Nat.add_sub_cancel' hw]; exact old.isLt
  have h3 : old.toNat / 2 ^ w < 2 ^ (1024 - w) := Nat.div_lt_of_lt_mul h2
  have h4 : (old.toNat / 2 ^ w + 1) * 2 ^ w ≤ 2 ^ (1024 - w) * 2 ^ w := Nat.mul_le_mul_right _ h3
  have h5 : 2 ^ (1024 - w) * 2 ^ w = 2 ^ 1024 := by rw [← Nat.pow_add, Nat.sub_add_cancel hw]
  rw [Nat.add_mul] at h4
  simp only [setLow, BitVec.toNat_ofNat]
  apply Nat.mod_eq_of_lt
  omega

/-- The bits above a narrow write are kept. -/
theorem setLow_high (old : VReg) (w x : Nat) (hw : w ≤ 1024) :
    (setLow old w x).toNat / 2 ^ w = old.toNat / 2 ^ w := by
  have hp := Nat.two_pow_pos w
  rw [setLow_toNat _ _ _ hw, Nat.add_comm, Nat.add_mul_div_right _ _ hp, Nat.div_eq_of_lt (Nat.mod_lt _ hp)]
  omega

/-- An element within the bits written. -/
theorem setLow_elem (old : VReg) (w x e j : Nat) (hw : w ≤ 1024) (he : e * (j + 1) ≤ w) :
    elem (setLow old w x) j e = x / 2 ^ (e * j) % 2 ^ e := by
  have key : ∀ y : Nat, y / 2 ^ (e * j) % 2 ^ e = y % 2 ^ (e * (j + 1)) / 2 ^ (e * j) := by
    intro y
    rw [Nat.mul_succ, Nat.pow_add, Nat.mod_mul_right_div_self]
  have hm : (setLow old w x).toNat % 2 ^ (e * (j + 1)) = x % 2 ^ (e * (j + 1)) := by
    rw [setLow_toNat _ _ _ hw]
    have hs : 2 ^ w = 2 ^ (e * (j + 1)) * 2 ^ (w - e * (j + 1)) := by rw [← Nat.pow_add]; congr 1; omega
    rw [Nat.add_mod, hs, ← Nat.mul_assoc, Nat.mul_right_comm, Nat.mul_mod_left, Nat.zero_add, Nat.mod_mod,
      Nat.mod_mul_right_mod]
  unfold elem
  rw [key, key, hm]

theorem elems_length (v : VReg) (e n : Nat) : (elems v e n).length = n := by simp [elems]

theorem elems_getElem (v : VReg) (e n j : Nat) (h : j < (elems v e n).length) : (elems v e n)[j] = elem v j e := by
  simp [elems]

theorem elem_lt (v : VReg) (j e : Nat) : elem v j e < 2 ^ e := Nat.mod_lt _ (Nat.two_pow_pos e)

/-! ### The slot as a whole -/

theorem mod_congr {s : State} {f g : Ctx → Ctx} (h : f s.me = g s.me) : s.mod f = s.mod g := by
  simp only [State.mod, h]

theorem raise_eq (st : Status) (s : State) (h : st ≠ 0) : raise st s =
    s.mod fun c => { c with astat := c.astat ||| st.setWidth 64, iss := { c.iss with raised := c.iss.raised ||| st } } := by
  unfold raise; rw [if_neg h]

theorem bit32_getLsbD (d n : Nat) (hn : n < 32) : (bit32 d).getLsbD n = decide (n = d) := by
  simp only [bit32, BitVec.getLsbD_ofNat, hn, decide_true, Bool.true_and, Nat.testBit_two_pow]
  simp [eq_comm]

/-- Raising and then writing v d, in one record. -/
theorem raise_wV (st : Status) (s : State) (d : Nat) (x : VReg) : wV (raise st s) d x = s.mod fun c => { c with
    regs := { c.regs with v := wr 0 c.regs.v d x, dead := c.regs.dead &&& ~~~ bit32 d }
    astat := c.astat ||| st.setWidth 64
    iss := { c.iss with raised := c.iss.raised ||| st, wrote := c.iss.wrote ||| bit32 d } } := by
  by_cases h : st = 0
  · subst h; simp [raise, wV]
  · rw [raise_eq st s h]; simp [wV]

/-- What the two last-use marks do to a context. -/
def usedCtx (a : BitVec 5) (la : Bool) (b : BitVec 5) (lb : Bool) (c : Ctx) : Ctx :=
  { c with regs := { c.regs with dead := c.regs.dead
    ||| (if la && !c.iss.wrote.getLsbD a.toNat then bit32 a.toNat else 0)
    ||| (if lb && !c.iss.wrote.getLsbD b.toNat then bit32 b.toNat else 0) } }

theorem kill_mod (n : Nat) (s : State) (f : Ctx → Ctx) : kill n (s.mod f) = s.mod fun c => { f c with
    regs := { (f c).regs with dead := (f c).regs.dead ||| (if !(f c).iss.wrote.getLsbD n then bit32 n else 0) } } := by
  unfold kill
  rw [mod_mod]
  apply mod_congr
  cases h : (f s.me).iss.wrote.getLsbD n <;> simp

theorem lastUse_mod (a : BitVec 5) (la : Bool) (b : BitVec 5) (lb : Bool) (s : State) (f : Ctx → Ctx) :
    lastUse a la b lb (s.mod f) = s.mod fun c => usedCtx a la b lb (f c) := by
  cases la <;> cases lb <;> simp only [lastUse, usedCtx, kill_mod, Bool.false_eq_true, if_false, if_true,
    Bool.false_and, Bool.true_and] <;> apply mod_congr <;> simp

theorem usedUp_pair (s : State) (d n : Nat) (a b : BitVec 5) (la lb : Bool) (hn : n < 32) (hd : n ≠ d)
    (w : BitVec 32) (hw : w = s.me.iss.wrote ||| bit32 d) :
    usedUp s d [(a, la), (b, lb)] n =
      ((if la && !w.getLsbD a.toNat then bit32 a.toNat else 0).getLsbD n ||
       (if lb && !w.getLsbD b.toNat then bit32 b.toNat else 0).getLsbD n) := by
  subst hw
  have ha := a.isLt
  have hb := b.isLt
  have e1 : ∀ (l : Bool) (r : Nat), r < 32 → ((if l && !(s.me.iss.wrote ||| bit32 d).getLsbD r then bit32 r else 0).getLsbD n) =
      (l && decide (r = n) && !s.me.iss.wrote.getLsbD n) := by
    intro l r hr
    by_cases h : r = n
    · subst h
      rw [BitVec.getLsbD_or, bit32_getLsbD _ _ hn]
      cases l <;> cases s.me.iss.wrote.getLsbD r <;> simp [hd, bit32_getLsbD _ _ hn]
    · have : n ≠ r := fun e => h e.symm
      split <;> simp [h, this, bit32_getLsbD _ _ hn]
  rw [e1 la _ ha, e1 lb _ hb]
  simp only [usedUp, List.any_cons, List.any_nil, Bool.or_false, hd, ne_eq, not_false_iff, decide_true, Bool.and_true]
  cases la <;> cases lb <;> cases s.me.iss.wrote.getLsbD n <;> simp

/-- A slot that writes v d under its last-use marks. -/
theorem setsV_lastUse (s : State) (d : Nat) (hd : d < 32) (x : VReg) (st : Status) (a : BitVec 5) (la : Bool) (b : BitVec 5)
    (lb : Bool) : setsV s d x [(a, la), (b, lb)] st (lastUse a la b lb (wV (raise st s) d x)) := by
  rw [raise_wV, lastUse_mod]
  have hself : ∀ (l : Bool) (r : Nat), (if l && !(s.me.iss.wrote ||| bit32 d).getLsbD r then bit32 r else (0 : BitVec 32)).getLsbD d
      = false := by
    intro l r
    split
    · rename_i h
      by_cases e : d = r
      · subst e; simp [bit32_getLsbD _ _ hd] at h
      · rw [bit32_getLsbD _ _ hd]; simp [e]
    · simp
  have hdead : (s.mod fun c => usedCtx a la b lb { c with
      regs := { c.regs with v := wr 0 c.regs.v d x, dead := c.regs.dead &&& ~~~ bit32 d }
      astat := c.astat ||| st.setWidth 64
      iss := { c.iss with raised := c.iss.raised ||| st, wrote := c.iss.wrote ||| bit32 d } }).me.regs.dead.getLsbD d = false := by
    rw [mod_me]
    simp only [usedCtx]
    rw [BitVec.getLsbD_or (i := d), BitVec.getLsbD_or (i := d), hself, hself, BitVec.getLsbD_and, BitVec.getLsbD_not,
      bit32_getLsbD _ _ hd]
    simp
  refine ⟨?_, hdead, ?_, ⟨_, _, rfl⟩, fun _ => rfl⟩
  · unfold vReg
    rw [hdead, mod_me]
    simp [usedCtx]
  · intro n hn hne
    refine ⟨?_, by rw [mod_me]; exact rd_wr_ne _ _ _ hne⟩
    rw [mod_me]
    rw [usedUp_pair s d n a b la lb hn hne _ rfl]
    simp only [usedCtx, BitVec.getLsbD_or, Bool.or_assoc]
    congr 1
    rw [BitVec.getLsbD_and, BitVec.getLsbD_not, bit32_getLsbD _ _ hn]
    simp [hn, hne]

/-- A slot that writes v d without marks. -/
theorem setsV_plain (s : State) (d : Nat) (hd : d < 32) (x : VReg) (st : Status) :
    setsV s d x [] st (wV (raise st s) d x) := by
  have h := setsV_lastUse s d hd x st 0 false 0 false
  exact h

theorem keepV_raise (st : Status) (s : State) (d : Nat) : keepV (raise st s) d = keepV s d := by
  by_cases h : st = 0
  · subst h; rfl
  · rw [raise_eq st s h]; unfold keepV isDead; rw [mod_me]

/-- What a slot of `vslot` does: the traps that hold it back, and what it commits otherwise. -/
theorem vslot_out {s : State} {ns : List Nat} {st : Status} {k : State → State} {P : Status → State → Prop}
    (hP : ∀ st, P st (k (raise st s))) : slotOut (vslot ns st k s) s ns st P := by
  unfold slotOut
  have hz : (0 : Status) ||| st = st ||| 0 := by simp
  have hd : stDead ||| st = st ||| stDead := BitVec.or_comm _ _
  have go : (ns.any (isDead s) && s.checking) = false →
      vslot ns st k s = .next (withStatus (withDead s ns st) k s) := by
    intro hn
    unfold withDead vslot readingV
    cases hq : ns.any (isDead s) with
    | false => simp only [Bool.false_eq_true, if_false, hz]
    | true =>
      rw [hq, Bool.true_and] at hn
      simp only [if_true, hn, Bool.false_eq_true, if_false, hd]
  refine ⟨fun hn hc => ?_, fun hn => ⟨fun hs => ⟨_, ?_, hP _⟩, fun hs => ?_⟩⟩
  · simp only [vslot, readingV, hn, hc, if_true]
  · rw [go hn]; unfold withStatus; rw [if_neg (by simpa using hs)]
  · rw [go hn]; unfold withStatus; rw [if_pos hs]

/-- The same of an instruction whose meaning is such a slot. -/
theorem vslot_slot {i : Instr} {s : State} {ns : List Nat} {st : Status} {k : State → State} {P : Status → State → Prop}
    (h : exec i s = vslot ns st k s) (hP : ∀ st, P st (k (raise st s))) : vectorSlot i s ns st P := by
  unfold vectorSlot
  rw [h]
  exact vslot_out hP

/-- A slot of `vwrite` under the marks of two sources. -/
theorem vwrite_form {i : Instr} {s : State} {d : BitVec 5} {n : Nat} {ns : List Nat} {a b : BitVec 5} {la lb : Bool}
    {r : Nat × Status} {R : VReg → Status → Prop} (hn : n ≤ 1024)
    (h : exec i s = vwrite d n ns (lastUse a la b lb) r s) (hR : R (setLow (keepV s d.toNat) n r.1) r.2) :
    vectorForm i s ns d.toNat n [(a, la), (b, lb)] R := by
  refine ⟨_, _, hR, setLow_high _ _ _ hn, vslot_slot h fun st => ?_⟩
  simp only [wVlow, keepV_raise]
  exact setsV_lastUse _ _ d.isLt _ _ _ _ _ _

/-- A slot of `vwrite` under the mark of one source. -/
theorem vwrite_form1 {i : Instr} {s : State} {d : BitVec 5} {n : Nat} {ns : List Nat} {a : BitVec 5} {la : Bool}
    {r : Nat × Status} {R : VReg → Status → Prop} (hn : n ≤ 1024)
    (h : exec i s = vwrite d n ns (lastUse a la 0 false) r s) (hR : R (setLow (keepV s d.toNat) n r.1) r.2) :
    vectorForm i s ns d.toNat n [(a, la)] R := by
  obtain ⟨x, st, h1, h2, h3⟩ := vwrite_form hn h hR
  refine ⟨x, st, h1, h2, ?_⟩
  have e : ∀ m, usedUp s d.toNat [(a, la), (0, false)] m = usedUp s d.toNat [(a, la)] m := by intro m; simp [usedUp]
  have e2 : setsV s d.toNat x [(a, la), (0, false)] = setsV s d.toNat x [(a, la)] := by
    funext st t; simp only [setsV, e]
  rwa [e2] at h3

/-- A slot of `vwrite` without marks. -/
theorem vwrite_form0 {i : Instr} {s : State} {d : BitVec 5} {n : Nat} {ns : List Nat}
    {r : Nat × Status} {R : VReg → Status → Prop} (hn : n ≤ 1024)
    (h : exec i s = vwrite d n ns id r s) (hR : R (setLow (keepV s d.toNat) n r.1) r.2) :
    vectorForm i s ns d.toNat n [] R := by
  refine ⟨_, _, hR, setLow_high _ _ _ hn, vslot_slot h fun st => ?_⟩
  simp only [wVlow, keepV_raise, id]
  exact setsV_plain _ _ d.isLt _ _

end Sys2Proof.Laws
end

