-- ==== Sys2Proof/Laws/Memory.lean ====
section
/-!
SUPPORT. The laws of memory: a read after a write, the canonical form, and what one read or write served at once does.
-/
namespace Sys2Proof.Laws
open Sys2Proof Sys2Proof.Machine Sys2Proof.Machine.Store Sys2Proof.Safety Sys2Proof.Laws.Store

/-! ### Bytes -/

/-- Every byte after a store. -/
theorem store_byte (m : List Host.Cell) (k : Nat) (bs : List Byte) (x : Nat) :
    rd (0 : Byte) (Memory.store m k bs) x = if k ≤ x ∧ x < k + bs.length then bs.getD (x - k) 0 else rd 0 m x := by
  induction bs generalizing m k with
  | nil => simp only [Memory.store, List.length_nil]; rw [if_neg (by omega)]
  | cons b bs ih =>
    simp only [Memory.store, ih, List.length_cons]
    by_cases h : k + 1 ≤ x ∧ x < k + 1 + bs.length
    · rw [if_pos h, if_pos (by omega)]
      have : x - k = (x - (k + 1)) + 1 := by omega
      rw [this, List.getD_cons_succ]
    · rw [if_neg h, rd_wr]
      by_cases hx : x = k
      · subst hx; simp
      · rw [if_neg hx, if_neg (by omega)]

/-- A store keeps the canonical form. -/
theorem store_wf {m : List Host.Cell} (k : Nat) (bs : List Byte) (h : Memory.wf m = true) :
    Memory.wf (Memory.store m k bs) = true := by
  induction bs generalizing m k with
  | nil => exact h
  | cons b bs ih => exact ih (k + 1) (canon_wr h)

theorem span_length (k n : Nat) : (span k n).length = n := by
  induction n generalizing k with
  | zero => rfl
  | succ n ih => simp [span, ih]

theorem span_getElem (k n j : Nat) (h : j < (span k n).length) : (span k n)[j] = k + j := by
  induction n generalizing k j with
  | zero => simp [span] at h
  | succ n ih =>
    cases j with
    | zero => simp [span]
    | succ j => simp only [span, List.getElem_cons_succ]; rw [ih]; omega

theorem bytes_length (s : State) (k n : Nat) : (s.bytes k n).length = n := by simp [State.bytes, span_length]

theorem bytes_getElem (s : State) (k n j : Nat) (h : j < (s.bytes k n).length) : (s.bytes k n)[j] = s.byte (k + j) := by
  simp [State.bytes, span_getElem]

theorem toBytes_length (n x : Nat) : (toBytes n x).length = n := by
  induction n generalizing x with
  | zero => rfl
  | succ n ih => simp [toBytes, ih]

/-- Byte j of a number, lowest first. -/
theorem toBytes_getElem (n x j : Nat) (h : j < (toBytes n x).length) : (toBytes n x)[j] = BitVec.ofNat 8 (x / 256 ^ j) := by
  induction n generalizing x j with
  | zero => simp [toBytes] at h
  | succ n ih =>
    cases j with
    | zero => simp [toBytes]
    | succ j =>
      simp only [toBytes, List.getElem_cons_succ]
      rw [ih, Nat.div_div_eq_div_mul, Nat.pow_succ, Nat.mul_comm]

theorem ofBytes_lt (bs : List Byte) : ofBytes bs < 256 ^ bs.length := by
  induction bs with
  | nil => simp [ofBytes]
  | cons b bs ih =>
    have hb := b.isLt
    simp only [ofBytes, List.length_cons, Nat.pow_succ]
    have := Nat.mul_le_mul_right 256 (Nat.succ_le_of_lt ih)
    omega

/-- A number read back from its bytes. -/
theorem ofBytes_toBytes (n x : Nat) : ofBytes (toBytes n x) = x % 256 ^ n := by
  induction n generalizing x with
  | zero => simp [ofBytes, toBytes, Nat.mod_one]
  | succ n ih =>
    simp only [toBytes, ofBytes, ih, BitVec.toNat_ofNat]
    rw [Nat.pow_succ 256 n, Nat.mul_comm (256 ^ n) 256, Nat.mod_mul]

/-! ### One access served at once -/

theorem look_mapVals {α : Type} (f : Nat → α → α) (m : PMap α) (k : Nat) : look (mapVals f m) k = (look m k).map (f k) := by
  induction m with
  | nil => rfl
  | cons e m ih =>
    obtain ⟨j, x⟩ := e
    simp only [mapVals, List.map_cons, look] at ih ⊢
    split
    · subst_vars; rfl
    · exact ih

/-- Every context after another agent's access. -/
theorem touch_ctx (s : State) (by_ : Option Nat) (k n : Nat) (w : Bool) (j : Nat) : (s.touch by_ k n w).ctx j =
    if by_ ≠ some j ∧ conflicts (s.ctx j) (blocks k n) w then abortCtx 0x01 (s.ctx j) else s.ctx j := by
  unfold State.ctx State.touch
  simp only [rd, look_mapVals]
  obtain h | ⟨c, h⟩ : look s.ctxs j = none ∨ ∃ c, look s.ctxs j = some c := by
    cases look s.ctxs j with
    | none => exact .inl rfl
    | some c => exact .inr ⟨c, rfl⟩
  · simp [h, conflicts]
  · simp [h]

theorem touch_eq (s : State) (by_ : Option Nat) (k n : Nat) (w : Bool) :
    s.touch by_ k n w = { s with ctxs := (s.touch by_ k n w).ctxs } := rfl

theorem touch_me (s : State) (k n : Nat) (w : Bool) : (s.touch (some s.cur) k n w).me = s.me := by
  show (s.touch (some s.cur) k n w).ctx s.cur = s.me
  rw [touch_ctx]; simp [State.me]

theorem touch_others (s : State) (by_ : Option Nat) (k n : Nat) (w : Bool) : othersAbort s (s.touch by_ k n w) := by
  intro j _
  rw [touch_ctx]
  split
  · exact .inr rfl
  · exact .inl rfl

theorem mergeClock_eq (d : Nat) (c : Clock) (s : State) : mergeClock d c s = { s with vdies := (mergeClock d c s).vdies } := by
  unfold mergeClock; split <;> rfl

/-- A read served at once outside an elided region. -/
theorem readNow_plain (s : State) (k n : Nat) (a : Word) (f : List Byte → State → State) (he : s.inElided = false)
    (hp : s.poisoned k n = false) : ∃ u, sawRead s u ∧ readNow k n a f s = f (s.bytes k n) u := by
  refine ⟨mergeClock (s.touch (some s.cur) k n false).myVdie ((s.touch (some s.cur) k n false).stampOf k n)
    (s.touch (some s.cur) k n false), ⟨?_, ?_, ?_⟩, ?_⟩
  · rw [mergeClock_eq, touch_eq]
  · rw [mergeClock_eq]; exact touch_me s k n false
  · intro j hj
    rw [mergeClock_eq]
    exact touch_others s (some s.cur) k n false j hj
  · have hr : ∀ e, (s.touch (some s.cur) k n false).me.region ≠ .elided e := by
      intro e h
      rw [touch_me] at h
      simp [State.inElided, h] at he
    have hm : (s.touch (some s.cur) k n false).mine k n = s.bytes k n := by
      unfold State.mine
      split
      · rename_i e h; exact absurd h (hr e)
      · rfl
    unfold readNow
    rw [if_neg (by simp [hp])]
    simp only [noting]
    rw [hm]

theorem bump_eq (d : Nat) (s : State) : bump d s = { s with vdies := (bump d s).vdies } := rfl

/-- Bytes written by an agent: exactly those, with stamps, poison and conflicts. -/
theorem stored_agentStore (s : State) (d k : Nat) (bs : List Byte) : stored s k bs (agentStore d (some s.cur) k bs s) := by
  refine ⟨fun x => ?_, rfl, ?_, ?_⟩
  · exact store_byte s.mem k bs x
  · exact touch_me (bump d s) k bs.length true
  · exact touch_others (bump d s) (some s.cur) k bs.length true

/-- A write served at once outside an elided region. -/
theorem writeNow_plain (s : State) (k : Nat) (bs : List Byte) (he : s.inElided = false) :
    stored s k bs (writeNow k bs s) := by
  unfold writeNow
  split
  · rename_i e h; simp [State.inElided, h] at he
  · exact stored_agentStore s _ k bs

/-- What an agent's write does to memory keeps the canonical form. -/
theorem store_inv (s : State) (by_ : Option Nat) (k : Nat) (bs : List Byte) (c : Clock) (h : Memory.wf s.mem = true) :
    Memory.wf (s.store by_ k bs c).mem = true := store_wf k bs h

end Sys2Proof.Laws
end

