-- ==== Sys2Proof/Laws/PerInstr.lean ====
section
/-!
SUPPORT. For every instruction: the lend that its words need is one that its lend class allows, so that no encoded bundle
falls under COND 8 (02 R34, R39, 03 R44), and no instruction has both a slot word and a sett word.
-/
namespace Sys2Proof.Laws.EncodeShape
open Sys2Proof

/-- The lend of an instruction's words fits its class, and it has a slot word or a sett word, not both. -/
def Statement (i : Instr) : Prop :=
  (∀ w l, encode i = some (w, l) → lendOk i l = true) ∧ ((encode i).isSome = true → encodeSett i = none)

/-- A form of the immediate class takes any lend. -/
theorem of_imm {i : Instr} (hc : lendClass i = .imm) (hs : encodeSett i = none) : Statement i :=
  ⟨fun _ l _ => show lendFits (lendClass i) l = true by rw [hc]; rfl, fun _ => hs⟩

/-- A form whose words need no lend. -/
theorem of_zero {i : Instr} {x : BitVec 32} (h : encode i = some (x, 0)) (ho : lendOk i 0 = true) (hs : encodeSett i = none) :
    Statement i :=
  ⟨fun _ _ hw => by rw [h] at hw; cases hw; exact ho, fun _ => hs⟩

/-- A form whose lend is its bank bit. -/
theorem of_bank {i : Instr} {x : BitVec 32} {b : Bool} (h : encode i = some (x, bankLend b)) (hc : lendClass i = .bank)
    (hs : encodeSett i = none) : Statement i :=
  ⟨fun _ _ hw => by
    rw [h] at hw; cases hw
    show lendFits (lendClass i) (bankLend b) = true
    rw [hc]; cases b <;> rfl, fun _ => hs⟩

/-- A step that no slot word encodes. -/
theorem of_none {i : Instr} (h : encode i = none) : Statement i :=
  ⟨fun _ _ hw => (by rw [h] at hw; cases hw), fun hs => (by rw [h] at hs; cases hs)⟩

theorem add (d : BitVec 6) (a : BitVec 6) (b : BitVec 6) : Statement (.add d a b) := of_zero rfl rfl rfl
theorem sub (d : BitVec 6) (a : BitVec 6) (b : BitVec 6) : Statement (.sub d a b) := of_zero rfl rfl rfl
theorem mul (d : BitVec 6) (a : BitVec 6) (b : BitVec 6) : Statement (.mul d a b) := of_zero rfl rfl rfl
theorem mulh (d : BitVec 6) (a : BitVec 6) (b : BitVec 6) : Statement (.mulh d a b) := of_zero rfl rfl rfl
theorem mulhn (d : BitVec 6) (a : BitVec 6) (b : BitVec 6) : Statement (.mulhn d a b) := of_zero rfl rfl rfl
theorem div (d : BitVec 6) (a : BitVec 6) (b : BitVec 6) : Statement (.div d a b) := of_zero rfl rfl rfl
theorem divn (d : BitVec 6) (a : BitVec 6) (b : BitVec 6) : Statement (.divn d a b) := of_zero rfl rfl rfl
theorem rem (d : BitVec 6) (a : BitVec 6) (b : BitVec 6) : Statement (.rem d a b) := of_zero rfl rfl rfl
theorem remn (d : BitVec 6) (a : BitVec 6) (b : BitVec 6) : Statement (.remn d a b) := of_zero rfl rfl rfl
theorem neg (d : BitVec 6) (a : BitVec 6) : Statement (.neg d a) := of_zero rfl rfl rfl
theorem abs (d : BitVec 6) (a : BitVec 6) : Statement (.abs d a) := of_zero rfl rfl rfl
theorem min (d : BitVec 6) (a : BitVec 6) (b : BitVec 6) : Statement (.min d a b) := of_zero rfl rfl rfl
theorem max (d : BitVec 6) (a : BitVec 6) (b : BitVec 6) : Statement (.max d a b) := of_zero rfl rfl rfl
theorem minn (d : BitVec 6) (a : BitVec 6) (b : BitVec 6) : Statement (.minn d a b) := of_zero rfl rfl rfl
theorem maxn (d : BitVec 6) (a : BitVec 6) (b : BitVec 6) : Statement (.maxn d a b) := of_zero rfl rfl rfl
theorem and (d : BitVec 6) (a : BitVec 6) (b : BitVec 6) : Statement (.and d a b) := of_zero rfl rfl rfl
theorem or (d : BitVec 6) (a : BitVec 6) (b : BitVec 6) : Statement (.or d a b) := of_zero rfl rfl rfl
theorem xor (d : BitVec 6) (a : BitVec 6) (b : BitVec 6) : Statement (.xor d a b) := of_zero rfl rfl rfl
theorem andn (d : BitVec 6) (a : BitVec 6) (b : BitVec 6) : Statement (.andn d a b) := of_zero rfl rfl rfl
theorem orn (d : BitVec 6) (a : BitVec 6) (b : BitVec 6) : Statement (.orn d a b) := of_zero rfl rfl rfl
theorem shl (d : BitVec 6) (a : BitVec 6) (b : BitVec 6) : Statement (.shl d a b) := of_zero rfl rfl rfl
theorem shr (d : BitVec 6) (a : BitVec 6) (b : BitVec 6) : Statement (.shr d a b) := of_zero rfl rfl rfl
theorem sra (d : BitVec 6) (a : BitVec 6) (b : BitVec 6) : Statement (.sra d a b) := of_zero rfl rfl rfl
theorem rotl (d : BitVec 6) (a : BitVec 6) (b : BitVec 6) : Statement (.rotl d a b) := of_zero rfl rfl rfl
theorem rotr (d : BitVec 6) (a : BitVec 6) (b : BitVec 6) : Statement (.rotr d a b) := of_zero rfl rfl rfl
theorem clz (d : BitVec 6) (a : BitVec 6) : Statement (.clz d a) := of_zero rfl rfl rfl
theorem ctz (d : BitVec 6) (a : BitVec 6) : Statement (.ctz d a) := of_zero rfl rfl rfl
theorem popc (d : BitVec 6) (a : BitVec 6) : Statement (.popc d a) := of_zero rfl rfl rfl
theorem brev (d : BitVec 6) (a : BitVec 6) : Statement (.brev d a) := of_zero rfl rfl rfl
theorem bswp (d : BitVec 6) (a : BitVec 6) : Statement (.bswp d a) := of_zero rfl rfl rfl
theorem sext (d : BitVec 6) (a : BitVec 6) (b : BitVec 6) : Statement (.sext d a b) := of_zero rfl rfl rfl
theorem zext (d : BitVec 6) (a : BitVec 6) (b : BitVec 6) : Statement (.zext d a b) := of_zero rfl rfl rfl
theorem bext (d : BitVec 6) (a : BitVec 6) (b : BitVec 6) : Statement (.bext d a b) := of_zero rfl rfl rfl
theorem bins (d : BitVec 6) (a : BitVec 6) (b : BitVec 6) : Statement (.bins d a b) := of_zero rfl rfl rfl
theorem mov (d : BitVec 6) (a : BitVec 6) : Statement (.mov d a) := of_zero rfl rfl rfl
theorem cmp (bank : Bool) (c : Cond) (d : BitVec 6) (a : BitVec 6) (b : BitVec 6) : Statement (.cmp bank c d a b) := of_bank rfl rfl rfl
theorem pand (bank : Bool) (d : BitVec 6) (a : BitVec 6) (b : BitVec 6) : Statement (.pand bank d a b) := of_bank rfl rfl rfl
theorem por (bank : Bool) (d : BitVec 6) (a : BitVec 6) (b : BitVec 6) : Statement (.por bank d a b) := of_bank rfl rfl rfl
theorem pxor (bank : Bool) (d : BitVec 6) (a : BitVec 6) (b : BitVec 6) : Statement (.pxor bank d a b) := of_bank rfl rfl rfl
theorem pnot (bank : Bool) (d : BitVec 6) (a : BitVec 6) : Statement (.pnot bank d a) := of_bank rfl rfl rfl
theorem pmov (bank : Bool) (d : BitVec 6) (a : BitVec 6) : Statement (.pmov bank d a) := of_bank rfl rfl rfl
theorem pset (bank : Bool) (d : BitVec 6) (a : BitVec 6) : Statement (.pset bank d a) := of_bank rfl rfl rfl
theorem pcnt (bank : Bool) (d : BitVec 6) (a : BitVec 6) (b : BitVec 6) : Statement (.pcnt bank d a b) := of_bank rfl rfl rfl
theorem sel (p : BitVec 7) (d : BitVec 6) (a : BitVec 6) (b : BitVec 6) : Statement (.sel p d a b) := of_zero rfl rfl rfl
theorem adda (d : BitVec 6) (a : BitVec 6) (b : BitVec 6) : Statement (.adda d a b) := of_zero rfl rfl rfl
theorem lea (k : BitVec 3) (d : BitVec 6) (a : BitVec 6) (b : BitVec 6) : Statement (.lea k d a b) := of_zero rfl rfl rfl
theorem dslice (d : BitVec 6) (a : BitVec 6) (b : BitVec 6) : Statement (.dslice d a b) := of_zero rfl rfl rfl
theorem acvtRel (w : Window) (d : BitVec 6) (a : BitVec 6) : Statement (.acvtRel w d a) := of_zero rfl rfl rfl
theorem acvtGen (w : Window) (d : BitVec 6) (a : BitVec 6) : Statement (.acvtGen w d a) := of_zero rfl rfl rfl
theorem atst (bank : Bool) (w : Window) (d : BitVec 6) (a : BitVec 6) : Statement (.atst bank w d a) := of_bank rfl rfl rfl
theorem srd (d : BitVec 6) (n : SReg) : Statement (.srd d n) := of_zero rfl rfl rfl
theorem swr (n : SReg) (a : BitVec 6) : Statement (.swr n a) := of_zero rfl rfl rfl
theorem addi (d : BitVec 6) (a : BitVec 6) (imm : BitVec 22) : Statement (.addi d a imm) := of_imm rfl rfl
theorem subi (d : BitVec 6) (a : BitVec 6) (imm : BitVec 22) : Statement (.subi d a imm) := of_imm rfl rfl
theorem andi (d : BitVec 6) (a : BitVec 6) (imm : BitVec 22) : Statement (.andi d a imm) := of_imm rfl rfl
theorem ori (d : BitVec 6) (a : BitVec 6) (imm : BitVec 22) : Statement (.ori d a imm) := of_imm rfl rfl
theorem xori (d : BitVec 6) (a : BitVec 6) (imm : BitVec 22) : Statement (.xori d a imm) := of_imm rfl rfl
theorem shli (d : BitVec 6) (a : BitVec 6) (n : BitVec 6) : Statement (.shli d a n) := of_zero rfl rfl rfl
theorem shri (d : BitVec 6) (a : BitVec 6) (n : BitVec 6) : Statement (.shri d a n) := of_zero rfl rfl rfl
theorem srai (d : BitVec 6) (a : BitVec 6) (n : BitVec 6) : Statement (.srai d a n) := of_zero rfl rfl rfl
theorem lui (d : BitVec 6) (imm : BitVec 22) : Statement (.lui d imm) := of_imm rfl rfl
theorem movi (d : BitVec 6) (imm : BitVec 22) : Statement (.movi d imm) := of_imm rfl rfl
theorem cmpi (c : Cond) (d : BitVec 6) (a : BitVec 6) (imm : BitVec 18) : Statement (.cmpi c d a imm) := of_imm rfl rfl
theorem br (off : BitVec 24) : Statement (.br off) := of_imm rfl rfl
theorem bri (a : BitVec 6) : Statement (.bri a) := of_zero rfl rfl rfl
theorem call (off : BitVec 24) : Statement (.call off) := of_imm rfl rfl
theorem ret (a : BitVec 6) : Statement (.ret a) := of_zero rfl rfl rfl
theorem loop (n : BitVec 2) (a : BitVec 6) (len : BitVec 6) : Statement (.loop n a len) := of_zero rfl rfl rfl
theorem lbrk (n : BitVec 2) : Statement (.lbrk n) := of_zero rfl rfl rfl
theorem ld (sz : LdTy) (d : BitVec 6) (aa : BitVec 5) (am : Bool) (off : BitVec 18) : Statement (.ld sz d aa am off) := of_imm rfl rfl
theorem st (sz : StSz) (d : BitVec 6) (aa : BitVec 5) (am : Bool) (off : BitVec 18) : Statement (.st sz d aa am off) := of_imm rfl rfl
theorem ldl (sz : LdTy) (n : BitVec 6) (aa : BitVec 5) (am : Bool) (cyc : BitVec 10) : Statement (.ldl sz n aa am cyc) := of_zero rfl rfl rfl
theorem rld (sz : LdTy) (d : BitVec 6) (aa : BitVec 5) (am : Bool) (off : BitVec 18) : Statement (.rld sz d aa am off) := of_imm rfl rfl
theorem rldn (d : BitVec 6) (aa : BitVec 5) (am : Bool) (off : BitVec 18) : Statement (.rldn d aa am off) := of_imm rfl rfl
theorem rst (sz : StSz) (d : BitVec 6) (aa : BitVec 5) (am : Bool) (off : BitVec 18) : Statement (.rst sz d aa am off) := of_imm rfl rfl
theorem rred (fl : Bool) (d : BitVec 6) (aa : BitVec 5) (am : Bool) (off : BitVec 18) : Statement (.rred fl d aa am off) := of_imm rfl rfl
theorem vld (w : Width) (d : BitVec 6) (aa : BitVec 5) (am : Bool) (off : BitVec 18) : Statement (.vld w d aa am off) := of_imm rfl rfl
theorem vst (w : Width) (d : BitVec 6) (aa : BitVec 5) (am : Bool) (off : BitVec 18) : Statement (.vst w d aa am off) := of_imm rfl rfl
theorem vldl (w : Width) (n : BitVec 6) (aa : BitVec 5) (am : Bool) (cyc : BitVec 10) : Statement (.vldl w n aa am cyc) := of_zero rfl rfl rfl
theorem vlds (e : StSz) (d : BitVec 6) (aa : BitVec 5) (str : BitVec 18) : Statement (.vlds e d aa str) := of_imm rfl rfl
theorem vldx (e : StSz) (d : BitVec 6) (aa : BitVec 5) (vi : BitVec 5) : Statement (.vldx e d aa vi) := of_zero rfl rfl rfl
theorem vsts (e : StSz) (d : BitVec 6) (aa : BitVec 5) (str : BitVec 18) : Statement (.vsts e d aa str) := of_imm rfl rfl
theorem vstx (e : StSz) (d : BitVec 6) (aa : BitVec 5) (vi : BitVec 5) : Statement (.vstx e d aa vi) := of_zero rfl rfl rfl
theorem vaadd (e64 : Bool) (w1024 : Bool) (d : BitVec 6) (aa : BitVec 5) (am : Bool) (off : BitVec 18) : Statement (.vaadd e64 w1024 d aa am off) := of_imm rfl rfl
theorem vaor (e64 : Bool) (w1024 : Bool) (d : BitVec 6) (aa : BitVec 5) (am : Bool) (off : BitVec 18) : Statement (.vaor e64 w1024 d aa am off) := of_imm rfl rfl
theorem vamax (e64 : Bool) (w1024 : Bool) (d : BitVec 6) (aa : BitVec 5) (am : Bool) (off : BitVec 18) : Statement (.vamax e64 w1024 d aa am off) := of_imm rfl rfl
theorem vafadd (w1024 : Bool) (d : BitVec 6) (aa : BitVec 5) (am : Bool) (off : BitVec 18) : Statement (.vafadd w1024 d aa am off) := of_imm rfl rfl
theorem vbupd (op : BOp) (w : Width) (d : BitVec 6) (aa : BitVec 5) (am : Bool) (off : BitVec 18) : Statement (.vbupd op w d aa am off) := of_imm rfl rfl
theorem aadd (e64 : Bool) (d : BitVec 6) (aa : BitVec 5) (am : Bool) (off : BitVec 18) : Statement (.aadd e64 d aa am off) := of_imm rfl rfl
theorem amin (e64 : Bool) (d : BitVec 6) (aa : BitVec 5) (am : Bool) (off : BitVec 18) : Statement (.amin e64 d aa am off) := of_imm rfl rfl
theorem amax (e64 : Bool) (d : BitVec 6) (aa : BitVec 5) (am : Bool) (off : BitVec 18) : Statement (.amax e64 d aa am off) := of_imm rfl rfl
theorem aminn (e64 : Bool) (d : BitVec 6) (aa : BitVec 5) (am : Bool) (off : BitVec 18) : Statement (.aminn e64 d aa am off) := of_imm rfl rfl
theorem amaxn (e64 : Bool) (d : BitVec 6) (aa : BitVec 5) (am : Bool) (off : BitVec 18) : Statement (.amaxn e64 d aa am off) := of_imm rfl rfl
theorem aand (e64 : Bool) (d : BitVec 6) (aa : BitVec 5) (am : Bool) (off : BitVec 18) : Statement (.aand e64 d aa am off) := of_imm rfl rfl
theorem aor (e64 : Bool) (d : BitVec 6) (aa : BitVec 5) (am : Bool) (off : BitVec 18) : Statement (.aor e64 d aa am off) := of_imm rfl rfl
theorem axor (e64 : Bool) (d : BitVec 6) (aa : BitVec 5) (am : Bool) (off : BitVec 18) : Statement (.axor e64 d aa am off) := of_imm rfl rfl
theorem axchg (e64 : Bool) (d : BitVec 6) (aa : BitVec 5) (am : Bool) (off : BitVec 18) : Statement (.axchg e64 d aa am off) := of_imm rfl rfl
theorem acas (e64 : Bool) (d : BitVec 6) (aa : BitVec 5) (am : Bool) (off : BitVec 18) : Statement (.acas e64 d aa am off) := of_imm rfl rfl
theorem afadd (d : BitVec 6) (aa : BitVec 5) (am : Bool) (off : BitVec 18) : Statement (.afadd d aa am off) := of_imm rfl rfl
theorem afmin (d : BitVec 6) (aa : BitVec 5) (am : Bool) (off : BitVec 18) : Statement (.afmin d aa am off) := of_imm rfl rfl
theorem afmax (d : BitVec 6) (aa : BitVec 5) (am : Bool) (off : BitVec 18) : Statement (.afmax d aa am off) := of_imm rfl rfl
theorem vadd (w : Width) (d : BitVec 5) (a : BitVec 5) (b : BitVec 5) (la : Bool) (lb : Bool) (t : ETy) : Statement (.vadd w d a b la lb t) := of_zero rfl rfl rfl
theorem vsub (w : Width) (d : BitVec 5) (a : BitVec 5) (b : BitVec 5) (la : Bool) (lb : Bool) (t : ETy) : Statement (.vsub w d a b la lb t) := of_zero rfl rfl rfl
theorem vmul (w : Width) (d : BitVec 5) (a : BitVec 5) (b : BitVec 5) (la : Bool) (lb : Bool) (t : ETy) : Statement (.vmul w d a b la lb t) := of_zero rfl rfl rfl
theorem vmulh (w : Width) (d : BitVec 5) (a : BitVec 5) (b : BitVec 5) (la : Bool) (lb : Bool) (t : ETy) : Statement (.vmulh w d a b la lb t) := of_zero rfl rfl rfl
theorem vmin (w : Width) (d : BitVec 5) (a : BitVec 5) (b : BitVec 5) (la : Bool) (lb : Bool) (t : ETy) : Statement (.vmin w d a b la lb t) := of_zero rfl rfl rfl
theorem vmax (w : Width) (d : BitVec 5) (a : BitVec 5) (b : BitVec 5) (la : Bool) (lb : Bool) (t : ETy) : Statement (.vmax w d a b la lb t) := of_zero rfl rfl rfl
theorem vabs (w : Width) (d : BitVec 5) (a : BitVec 5) (la : Bool) (t : ETy) : Statement (.vabs w d a la t) := of_zero rfl rfl rfl
theorem vneg (w : Width) (d : BitVec 5) (a : BitVec 5) (la : Bool) (t : ETy) : Statement (.vneg w d a la t) := of_zero rfl rfl rfl
theorem vfma (w : Width) (d : BitVec 5) (a : BitVec 5) (b : BitVec 5) (la : Bool) (lb : Bool) (t : ETy) : Statement (.vfma w d a b la lb t) := of_zero rfl rfl rfl
theorem vfms (w : Width) (d : BitVec 5) (a : BitVec 5) (b : BitVec 5) (la : Bool) (lb : Bool) (t : ETy) : Statement (.vfms w d a b la lb t) := of_zero rfl rfl rfl
theorem vand (w : Width) (d : BitVec 5) (a : BitVec 5) (b : BitVec 5) (la : Bool) (lb : Bool) : Statement (.vand w d a b la lb) := of_zero rfl rfl rfl
theorem vor (w : Width) (d : BitVec 5) (a : BitVec 5) (b : BitVec 5) (la : Bool) (lb : Bool) : Statement (.vor w d a b la lb) := of_zero rfl rfl rfl
theorem vxor (w : Width) (d : BitVec 5) (a : BitVec 5) (b : BitVec 5) (la : Bool) (lb : Bool) : Statement (.vxor w d a b la lb) := of_zero rfl rfl rfl
theorem vnot (w : Width) (d : BitVec 5) (a : BitVec 5) (la : Bool) : Statement (.vnot w d a la) := of_zero rfl rfl rfl
theorem vpopc (w : Width) (d : BitVec 5) (a : BitVec 5) (la : Bool) (t : ETy) : Statement (.vpopc w d a la t) := of_zero rfl rfl rfl
theorem vclz (w : Width) (d : BitVec 5) (a : BitVec 5) (la : Bool) (t : ETy) : Statement (.vclz w d a la t) := of_zero rfl rfl rfl
theorem vshl (w : Width) (d : BitVec 5) (a : BitVec 5) (b : BitVec 5) (la : Bool) (lb : Bool) (t : ETy) : Statement (.vshl w d a b la lb t) := of_zero rfl rfl rfl
theorem vshr (w : Width) (d : BitVec 5) (a : BitVec 5) (b : BitVec 5) (la : Bool) (lb : Bool) (t : ETy) : Statement (.vshr w d a b la lb t) := of_zero rfl rfl rfl
theorem vsra (w : Width) (d : BitVec 5) (a : BitVec 5) (b : BitVec 5) (la : Bool) (lb : Bool) (t : ETy) : Statement (.vsra w d a b la lb t) := of_zero rfl rfl rfl
theorem vsel (w : Width) (d : BitVec 5) (a : BitVec 5) (b : BitVec 5) (la : Bool) (lb : Bool) (k : BitVec 4) : Statement (.vsel w d a b la lb k) := of_zero rfl rfl rfl
theorem vbcast (w : Width) (d : BitVec 5) (a : BitVec 5) (la : Bool) (t : ETy) : Statement (.vbcast w d a la t) := of_zero rfl rfl rfl
theorem viota (w : Width) (d : BitVec 5) (t : ETy) : Statement (.viota w d t) := of_zero rfl rfl rfl
theorem vmovs (w : Width) (d : BitVec 5) (a : BitVec 5) (b : BitVec 5) (la : Bool) (t : ETy) : Statement (.vmovs w d a b la t) := of_zero rfl rfl rfl
theorem vins (w : Width) (d : BitVec 5) (a : BitVec 5) (b : BitVec 5) (t : ETy) : Statement (.vins w d a b t) := of_zero rfl rfl rfl
theorem vcmp (c : Cond) (w : Width) (d : BitVec 5) (a : BitVec 5) (b : BitVec 5) (la : Bool) (lb : Bool) (t : ETy) : Statement (.vcmp c w d a b la lb t) := of_zero rfl rfl rfl
theorem vcvt (sat : Bool) (r : RMode) (src : ETy) (w : Width) (d : BitVec 5) (a : BitVec 5) (la : Bool) (t : ETy) : Statement (.vcvt sat r src w d a la t) := of_zero rfl rfl rfl
theorem vrnd (r : RMode) (w : Width) (d : BitVec 5) (a : BitVec 5) (la : Bool) (t : ETy) : Statement (.vrnd r w d a la t) := of_zero rfl rfl rfl
theorem vrcp (w : Width) (d : BitVec 5) (a : BitVec 5) (la : Bool) (t : ETy) : Statement (.vrcp w d a la t) := of_zero rfl rfl rfl
theorem vrsq (w : Width) (d : BitVec 5) (a : BitVec 5) (la : Bool) (t : ETy) : Statement (.vrsq w d a la t) := of_zero rfl rfl rfl
theorem vsqrt (w : Width) (d : BitVec 5) (a : BitVec 5) (la : Bool) (t : ETy) : Statement (.vsqrt w d a la t) := of_zero rfl rfl rfl
theorem vexp2 (w : Width) (d : BitVec 5) (a : BitVec 5) (la : Bool) (t : ETy) : Statement (.vexp2 w d a la t) := of_zero rfl rfl rfl
theorem vlog2 (w : Width) (d : BitVec 5) (a : BitVec 5) (la : Bool) (t : ETy) : Statement (.vlog2 w d a la t) := of_zero rfl rfl rfl
theorem vtanh (w : Width) (d : BitVec 5) (a : BitVec 5) (la : Bool) (t : ETy) : Statement (.vtanh w d a la t) := of_zero rfl rfl rfl
theorem vrsum (w : Width) (d : BitVec 5) (a : BitVec 5) (la : Bool) (t : ETy) : Statement (.vrsum w d a la t) := of_zero rfl rfl rfl
theorem vrmax (w : Width) (d : BitVec 5) (a : BitVec 5) (la : Bool) (t : ETy) : Statement (.vrmax w d a la t) := of_zero rfl rfl rfl
theorem vrmin (w : Width) (d : BitVec 5) (a : BitVec 5) (la : Bool) (t : ETy) : Statement (.vrmin w d a la t) := of_zero rfl rfl rfl
theorem vscan (w : Width) (d : BitVec 5) (a : BitVec 5) (la : Bool) (t : ETy) : Statement (.vscan w d a la t) := of_zero rfl rfl rfl
theorem vshuf (bank : Bool) (pat : BitVec 5) (w : Width) (d : BitVec 5) (a : BitVec 5) (b : BitVec 5) (la : Bool) (lb : Bool) : Statement (.vshuf bank pat w d a b la lb) := of_bank rfl rfl rfl
theorem vpack (sat : Bool) (w : Width) (d : BitVec 5) (a : BitVec 5) (b : BitVec 5) (la : Bool) (lb : Bool) (t : ETy) : Statement (.vpack sat w d a b la lb t) := of_zero rfl rfl rfl
theorem vunpk (hi : Bool) (src : ETy) (w : Width) (d : BitVec 5) (a : BitVec 5) (la : Bool) (t : ETy) : Statement (.vunpk hi src w d a la t) := of_zero rfl rfl rfl
theorem vldm (bank : Bool) (d : BitVec 6) (row : BitVec 14) : Statement (.vldm bank d row) := of_bank rfl rfl rfl
theorem vstm (bank : Bool) (d : BitVec 6) (row : BitVec 14) : Statement (.vstm bank d row) := of_bank rfl rfl rfl
theorem vclr (w : Width) (d : BitVec 5) : Statement (.vclr w d) := of_zero rfl rfl rfl
theorem kand (d : BitVec 5) (a : BitVec 5) (b : BitVec 5) : Statement (.kand d a b) := of_zero rfl rfl rfl
theorem kor (d : BitVec 5) (a : BitVec 5) (b : BitVec 5) : Statement (.kor d a b) := of_zero rfl rfl rfl
theorem knot (d : BitVec 5) (a : BitVec 5) : Statement (.knot d a) := of_zero rfl rfl rfl
theorem kmov (d : BitVec 5) (a : BitVec 5) : Statement (.kmov d a) := of_zero rfl rfl rfl
theorem patld (bank : Bool) (pat : BitVec 5) (a : BitVec 5) (la : Bool) : Statement (.patld bank pat a la) := of_bank rfl rfl rfl
theorem macc (z : BitVec 2) (va : BitVec 5) (typ : MTyp) (aux : BitVec 23) : Statement (.macc z va typ aux) := of_imm rfl rfl
theorem mtern (z : BitVec 2) (va : BitVec 5) (typ : MTyp) (aux : BitVec 23) : Statement (.mtern z va typ aux) := of_imm rfl rfl
theorem mpush (va : BitVec 5) : Statement (.mpush va) := of_zero rfl rfl rfl
theorem mshift (n : BitVec 2) : Statement (.mshift n) := of_zero rfl rfl rfl
theorem mdrain (z : BitVec 2) (aa : BitVec 5) (typ : MTyp) (row : BitVec 7) : Statement (.mdrain z aa typ row) := of_zero rfl rfl rfl
theorem mdrainQ (z : BitVec 2) (typ : MTyp) (row : BitVec 7) : Statement (.mdrainQ z typ row) := of_zero rfl rfl rfl
theorem mclr (z : BitVec 2) : Statement (.mclr z) := of_zero rfl rfl rfl
theorem mbsel (aa : BitVec 5) : Statement (.mbsel aa) := of_zero rfl rfl rfl
theorem vrdz (z : BitVec 2) (d : BitVec 5) (blk : BitVec 3) (row : BitVec 7) : Statement (.vrdz z d blk row) := of_zero rfl rfl rfl
theorem fmtld (aa : BitVec 5) (n : BitVec 4) : Statement (.fmtld aa n) := of_zero rfl rfl rfl
theorem fmtsel (base : BitVec 4) (l : BitVec 2) : Statement (.fmtsel base l) := of_zero rfl rfl rfl
theorem fmtrd (d : BitVec 5) (n : BitVec 4) : Statement (.fmtrd d n) := of_zero rfl rfl rfl
theorem rept (x : BitVec 6) (y : BitVec 6) (g : BitVec 2) (n : BitVec 12) : Statement (.rept x y g n) := of_zero rfl rfl rfl
theorem fence (d : BitVec 6) (a : BitVec 6) (sc : Scope) (set : BitVec 6) : Statement (.fence d a sc set) := of_zero rfl rfl rfl
theorem blk (a : BitVec 6) (n : BitVec 6) : Statement (.blk a n) := of_zero rfl rfl rfl
theorem xbegin (d : BitVec 6) : Statement (.xbegin d) := of_zero rfl rfl rfl
theorem xabort (c : BitVec 6) : Statement (.xabort c) := of_zero rfl rfl rfl
theorem barp (src : BitVec 6) (aa : BitVec 6) : Statement (.barp src aa) := of_zero rfl rfl rfl
theorem bara (src : BitVec 6) (aa : BitVec 6) : Statement (.bara src aa) := of_zero rfl rfl rfl
theorem barw (d : BitVec 6) (aa : BitVec 6) : Statement (.barw d aa) := of_zero rfl rfl rfl
theorem evsig (e : BitVec 6) : Statement (.evsig e) := of_zero rfl rfl rfl
theorem evwait (e : BitVec 6) : Statement (.evwait e) := of_zero rfl rfl rfl
theorem jobw (eng : Eng) (f : BitVec 6) (a : BitVec 6) : Statement (.jobw eng f a) := of_zero rfl rfl rfl
theorem jobgo (eng : Eng) (d : BitVec 6) : Statement (.jobgo eng d) := of_zero rfl rfl rfl
theorem jobwait (a : BitVec 6) : Statement (.jobwait a) := of_zero rfl rfl rfl
theorem cpy (d : BitVec 6) (aa : BitVec 6) : Statement (.cpy d aa) := of_zero rfl rfl rfl
theorem gath (d : BitVec 6) (aa : BitVec 6) : Statement (.gath d aa) := of_zero rfl rfl rfl
theorem scat (d : BitVec 6) (aa : BitVec 6) : Statement (.scat d aa) := of_zero rfl rfl rfl
theorem trmk (d : BitVec 6) (aa : BitVec 6) : Statement (.trmk d aa) := of_zero rfl rfl rfl
theorem trfree (a : BitVec 6) : Statement (.trfree a) := of_zero rfl rfl rfl
theorem trpost (seg : BitVec 6) (a : BitVec 6) : Statement (.trpost seg a) := of_zero rfl rfl rfl
theorem trwait (a : BitVec 6) (ev : TrEv) : Statement (.trwait a ev) := of_zero rfl rfl rfl
theorem trfrz (a : BitVec 6) : Statement (.trfrz a) := of_zero rfl rfl rfl
theorem trsave (seg : BitVec 6) (a : BitVec 6) : Statement (.trsave seg a) := of_zero rfl rfl rfl
theorem trload (seg : BitVec 6) (a : BitVec 6) : Statement (.trload seg a) := of_zero rfl rfl rfl
theorem tredit (seg : BitVec 6) (a : BitVec 6) : Statement (.tredit seg a) := of_zero rfl rfl rfl
theorem trq (d : BitVec 6) (a : BitVec 6) : Statement (.trq d a) := of_zero rfl rfl rfl
theorem clnest (d : BitVec 6) (aa : BitVec 6) : Statement (.clnest d aa) := of_zero rfl rfl rfl
theorem clabort (a : BitVec 6) : Statement (.clabort a) := of_zero rfl rfl rfl
theorem clev (a : BitVec 6) (ev : TrEv) : Statement (.clev a ev) := of_zero rfl rfl rfl
theorem lnch (d : BitVec 6) (aa : BitVec 6) : Statement (.lnch d aa) := of_zero rfl rfl rfl
theorem lnchi (d : BitVec 6) (aa : BitVec 6) : Statement (.lnchi d aa) := of_zero rfl rfl rfl
theorem tgdep (l : BitVec 6) (e : BitVec 6) : Statement (.tgdep l e) := of_zero rfl rfl rfl
theorem tgwait (a : BitVec 6) : Statement (.tgwait a) := of_zero rfl rfl rfl
theorem slack (n : BitVec 14) : Statement (.slack n) := of_imm rfl rfl
theorem brel (a : BitVec 6) : Statement (.brel a) := of_zero rfl rfl rfl
theorem bown (a : BitVec 6) : Statement (.bown a) := of_zero rfl rfl rfl
theorem wsplit (d : BitVec 6) : Statement (.wsplit d) := of_zero rfl rfl rfl
theorem romk (d : BitVec 6) (aa : BitVec 6) : Statement (.romk d aa) := of_zero rfl rfl rfl
theorem rofree (a : BitVec 6) : Statement (.rofree a) := of_zero rfl rfl rfl
theorem rocall (d : BitVec 6) (a : BitVec 6) (m : BitVec 6) : Statement (.rocall d a m) := of_zero rfl rfl rfl
theorem rocallW (d : BitVec 6) (a : BitVec 6) (m : BitVec 6) : Statement (.rocallW d a m) := of_zero rfl rfl rfl
theorem rord (d : BitVec 6) (a : BitVec 6) (m : BitVec 6) : Statement (.rord d a m) := of_zero rfl rfl rfl
theorem rotrim (a : BitVec 6) : Statement (.rotrim a) := of_zero rfl rfl rfl
theorem roq (d : BitVec 6) (a : BitVec 6) : Statement (.roq d a) := of_zero rfl rfl rfl
theorem roret (a : BitVec 6) : Statement (.roret a) := of_zero rfl rfl rfl
theorem trap (c : BitVec 6) : Statement (.trap c) := of_zero rfl rfl rfl
theorem syscVersion (d : BitVec 6) (a : BitVec 6) (svc : BitVec 14) : Statement (.syscVersion d a svc) := of_imm rfl rfl
theorem syscModuleId (d : BitVec 6) (a : BitVec 6) : Statement (.syscModuleId d a) := of_imm rfl rfl
theorem syscMsix (d : BitVec 6) (a : BitVec 6) : Statement (.syscMsix d a) := of_imm rfl rfl
theorem syscLog (d : BitVec 6) (a : BitVec 6) : Statement (.syscLog d a) := of_imm rfl rfl
theorem strd (d : BitVec 6) (a : BitVec 6) : Statement (.strd d a) := of_zero rfl rfl rfl
theorem tlbiPage (src : BitVec 6) (all : Bool) : Statement (.tlbiPage src all) := of_zero rfl rfl rfl
theorem tlbiAll (src : BitVec 6) (all : Bool) : Statement (.tlbiAll src all) := of_zero rfl rfl rfl
theorem ctxsv (src : BitVec 6) : Statement (.ctxsv src) := of_zero rfl rfl rfl
theorem ctxld (src : BitVec 6) : Statement (.ctxld src) := of_zero rfl rfl rfl
theorem pempt (a : BitVec 6) : Statement (.pempt a) := of_zero rfl rfl rfl
theorem settLdp (d : BitVec 3) (w : BitVec 3) : Statement (.settLdp d w) := of_none rfl
theorem settLdi (d : BitVec 3) (imm : BitVec 17) : Statement (.settLdi d imm) := of_none rfl
theorem settLdm (d : BitVec 3) (off : BitVec 9) : Statement (.settLdm d off) := of_none rfl
theorem settStm (a : BitVec 3) (off : BitVec 9) : Statement (.settStm a off) := of_none rfl
theorem settAdd (d : BitVec 3) (a : BitVec 3) (b : BitVec 3) : Statement (.settAdd d a b) := of_none rfl
theorem settSub (d : BitVec 3) (a : BitVec 3) (b : BitVec 3) : Statement (.settSub d a b) := of_none rfl
theorem settAnd (d : BitVec 3) (a : BitVec 3) (b : BitVec 3) : Statement (.settAnd d a b) := of_none rfl
theorem settOr (d : BitVec 3) (a : BitVec 3) (b : BitVec 3) : Statement (.settOr d a b) := of_none rfl
theorem settXor (d : BitVec 3) (a : BitVec 3) (b : BitVec 3) : Statement (.settXor d a b) := of_none rfl
theorem settShl (d : BitVec 3) (a : BitVec 3) (n : BitVec 6) : Statement (.settShl d a n) := of_none rfl
theorem settShr (d : BitVec 3) (a : BitVec 3) (n : BitVec 6) : Statement (.settShr d a n) := of_none rfl
theorem settAndi (d : BitVec 3) (a : BitVec 3) (imm : BitVec 17) : Statement (.settAndi d a imm) := of_none rfl
theorem settBeq (a : BitVec 3) (b : BitVec 3) (f : BitVec 17) : Statement (.settBeq a b f) := of_none rfl
theorem settBne (a : BitVec 3) (b : BitVec 3) (f : BitVec 17) : Statement (.settBne a b f) := of_none rfl
theorem settBltu (a : BitVec 3) (b : BitVec 3) (f : BitVec 17) : Statement (.settBltu a b f) := of_none rfl
theorem settRep (n : BitVec 6) (len : BitVec 5) : Statement (.settRep n len) := of_none rfl
theorem settEmit (patch : Bool) (k : BitVec 3) (a : BitVec 3) (b : BitVec 3) : Statement (.settEmit patch k a b) := of_none rfl
theorem settRej (c : BitVec 7) : Statement (.settRej c) := of_none rfl
theorem nop : Statement .nop := of_zero rfl rfl rfl
theorem exit : Statement .exit := of_zero rfl rfl rfl
theorem yield : Statement .yield := of_zero rfl rfl rfl
theorem patsw : Statement .patsw := of_zero rfl rfl rfl
theorem xend : Statement .xend := of_zero rfl rfl rfl
theorem drainCpl : Statement .drainCpl := of_zero rfl rfl rfl
theorem drainCpsh : Statement .drainCpsh := of_zero rfl rfl rfl
theorem drainGath : Statement .drainGath := of_zero rfl rfl rfl
theorem drainCol : Statement .drainCol := of_zero rfl rfl rfl
theorem eret : Statement .eret := of_zero rfl rfl rfl
theorem idle : Statement .idle := of_zero rfl rfl rfl
theorem settEnd : Statement .settEnd := of_none rfl
theorem portalWrite (fn : Nat) (q : Nat) (off : Nat) (words : List (BitVec 64)) : Statement (.portalWrite fn q off words) := of_none rfl
theorem portalPostedWrite (fn : Nat) (q : Nat) : Statement (.portalPostedWrite fn q) := of_none rfl
theorem settPacketStart : Statement .settPacketStart := of_none rfl
theorem shadowBankSwap (vdie : Nat) (fn : Nat) (q : Nat) : Statement (.shadowBankSwap vdie fn q) := of_none rfl
theorem settLoad (val : BitVec 64) : Statement (.settLoad val) := of_none rfl
theorem settLoadDone : Statement .settLoadDone := of_none rfl
theorem pcoreWrite (fn : Nat) (hi : Bool) (val : BitVec 64) : Statement (.pcoreWrite fn hi val) := of_none rfl
theorem prngWrite (fn : Nat) (vdie : Nat) (val : BitVec 64) : Statement (.prngWrite fn vdie val) := of_none rfl
theorem trootWrite (fn : Nat) (val : BitVec 64) : Statement (.trootWrite fn val) := of_none rfl
theorem fctlHoldWrite (fn : Nat) (val : BitVec 64) : Statement (.fctlHoldWrite fn val) := of_none rfl
theorem functionLevelReset (fn : Nat) : Statement (.functionLevelReset fn) := of_none rfl
theorem flrDrainDone (fn : Nat) : Statement (.flrDrainDone fn) := of_none rfl
theorem moduleReset : Statement .moduleReset := of_none rfl
theorem firmwareActivation (val : BitVec 64) : Statement (.firmwareActivation val) := of_none rfl
theorem ckctlGo (val : BitVec 64) : Statement (.ckctlGo val) := of_none rfl
theorem checkpointDone : Statement .checkpointDone := of_none rfl
theorem hostLinkLost : Statement .hostLinkLost := of_none rfl
theorem pwrlimWrite (die : Nat) (val : BitVec 64) : Statement (.pwrlimWrite die val) := of_none rfl
theorem telbaseWrite (die : Nat) (val : BitVec 64) : Statement (.telbaseWrite die val) := of_none rfl
theorem modidWrite (val : BitVec 64) : Statement (.modidWrite val) := of_none rfl
theorem routeTableWrite (n : Nat) (val : BitVec 64) : Statement (.routeTableWrite n val) := of_none rfl
theorem registerWrite (reg : HostReg) (val : BitVec 64) : Statement (.registerWrite reg val) := of_none rfl
theorem gettel : Statement .gettel := of_none rfl
theorem getlog (fn : Nat) : Statement (.getlog fn) := of_none rfl
theorem freeze (fn : Nat) : Statement (.freeze fn) := of_none rfl
theorem reset (fn : Nat) : Statement (.reset fn) := of_none rfl
theorem stage (image : List (BitVec 8)) : Statement (.stage image) := of_none rfl
theorem stageActivate (val : BitVec 64) : Statement (.stageActivate val) := of_none rfl
theorem ckpt : Statement .ckpt := of_none rfl
theorem pldmFirmwareUpdate (image : List (BitVec 8)) : Statement (.pldmFirmwareUpdate image) := of_none rfl
theorem spdmMeasurements : Statement .spdmMeasurements := of_none rfl
theorem flitReceive (link : Nat) (crcOk : Bool) : Statement (.flitReceive link crcOk) := of_none rfl
theorem nakReceive (link : Nat) (n : BitVec 10) : Statement (.nakReceive link n) := of_none rfl
theorem flitAckReceive (link : Nat) (n : BitVec 10) : Statement (.flitAckReceive link n) := of_none rfl
theorem linkTrainDone (link : Nat) (loBad : Bool) (hiBad : Bool) : Statement (.linkTrainDone link loBad hiBad) := of_none rfl
theorem fabricForward (k : Nat) : Statement (.fabricForward k) := of_none rfl
theorem requestArriveHome (die : Nat) (k : Nat) : Statement (.requestArriveHome die k) := of_none rfl
theorem replyReceive (die : Nat) (k : Nat) : Statement (.replyReceive die k) := of_none rfl
theorem acknowledgementReceive (die : Nat) (k : Nat) : Statement (.acknowledgementReceive die k) := of_none rfl
theorem requestTimerExpire (die : Nat) (tag : BitVec 16) : Statement (.requestTimerExpire die tag) := of_none rfl
theorem replyCacheEntryExpire (die : Nat) (k : Nat) : Statement (.replyCacheEntryExpire die k) := of_none rfl
theorem copyAgeDiscard (die : Nat) (k : Nat) : Statement (.copyAgeDiscard die k) := of_none rfl
theorem fabricRequestFail (die : Nat) (tag : BitVec 16) : Statement (.fabricRequestFail die tag) := of_none rfl
theorem beaconSend (die : Nat) : Statement (.beaconSend die) := of_none rfl
theorem beaconReceive (die : Nat) (k : Nat) : Statement (.beaconReceive die k) := of_none rfl
theorem writeApply (die : Nat) (k : Nat) : Statement (.writeApply die k) := of_none rfl
theorem readServe (die : Nat) (k : Nat) : Statement (.readServe die k) := of_none rfl
theorem replyClockMerge (die : Nat) (k : Nat) : Statement (.replyClockMerge die k) := of_none rfl
theorem translationWalkDone (die : Nat) (k : Nat) : Statement (.translationWalkDone die k) := of_none rfl
theorem landingDelivery (cx : Nat) (slot : Nat) : Statement (.landingDelivery cx slot) := of_none rfl
theorem repeatReissue (cx : Nat) : Statement (.repeatReissue cx) := of_none rfl
theorem startTokenRelease (die : Nat) : Statement (.startTokenRelease die) := of_none rfl
theorem arrayIdleTimeout (core : Nat) : Statement (.arrayIdleTimeout core) := of_none rfl
theorem telemetrySample (die : Nat) : Statement (.telemetrySample die) := of_none rfl
theorem contextWorkRequest (cx : Nat) : Statement (.contextWorkRequest cx) := of_none rfl
theorem nodeStart (vdie : Nat) (id : BitVec 32) : Statement (.nodeStart vdie id) := of_none rfl
theorem nodeRetire (vdie : Nat) (id : BitVec 32) : Statement (.nodeRetire vdie id) := of_none rfl
theorem engineJobComplete (vdie : Nat) (id : BitVec 32) : Statement (.engineJobComplete vdie id) := of_none rfl
theorem engineJobFault (vdie : Nat) (id : BitVec 32) : Statement (.engineJobFault vdie id) := of_none rfl
theorem drainQueuePost (core : Nat) : Statement (.drainQueuePost core) := of_none rfl
theorem treeFlitArrive (fn : Nat) (idx : Nat) (k : Nat) : Statement (.treeFlitArrive fn idx k) := of_none rfl
theorem treeSlotFault (fn : Nat) (idx : Nat) (k : Nat) : Statement (.treeSlotFault fn idx k) := of_none rfl
theorem treeStallTimeout (fn : Nat) (idx : Nat) : Statement (.treeStallTimeout fn idx) := of_none rfl
theorem clnestTransferArrive (core : Nat) (k : Nat) : Statement (.clnestTransferArrive core k) := of_none rfl
theorem clnestAbortRerun (core : Nat) (fn : Nat) (n : BitVec 32) : Statement (.clnestAbortRerun core fn n) := of_none rfl
theorem clnestResume (core : Nat) (fn : Nat) (n : BitVec 32) : Statement (.clnestResume core fn n) := of_none rfl
theorem rocallAppend (die : Nat) (k : Nat) : Statement (.rocallAppend die k) := of_none rfl
theorem replayApply (vdie : Nat) (fn : Nat) (idx : Nat) : Statement (.replayApply vdie fn idx) := of_none rfl
theorem rordServe (die : Nat) (k : Nat) : Statement (.rordServe die k) := of_none rfl
theorem haltLineArrive (vdie : Nat) (fn : Nat) : Statement (.haltLineArrive vdie fn) := of_none rfl
theorem preemptSave (cx : Nat) : Statement (.preemptSave cx) := of_none rfl
theorem preemptDeadline (cx : Nat) : Statement (.preemptDeadline cx) := of_none rfl
theorem blkHoldExpire (cx : Nat) : Statement (.blkHoldExpire cx) := of_none rfl
theorem elidedRegionAbort (cx : Nat) (cause : BitVec 8) : Statement (.elidedRegionAbort cx cause) := of_none rfl
theorem barwComplete (die : Nat) (k : Nat) : Statement (.barwComplete die k) := of_none rfl
theorem fenceComplete (cx : Nat) : Statement (.fenceComplete cx) := of_none rfl
theorem eccError (loc : EccLoc) (unc : Bool) : Statement (.eccError loc unc) := of_none rfl
theorem virtualDieRemap (x : Nat) (y : Nat) : Statement (.virtualDieRemap x y) := of_none rfl
theorem illegalBundle (cond : BitVec 4) (slots : BitVec 4) : Statement (.illegalBundle cond slots) := of_none rfl
theorem bundleFetchFault (code : BitVec 8) : Statement (.bundleFetchFault code) := of_none rfl
theorem preemptRequestArrive (cx : Nat) : Statement (.preemptRequestArrive cx) := of_none rfl
theorem fabricPortDown (port : Nat) : Statement (.fabricPortDown port) := of_none rfl
theorem fabricPortUp (port : Nat) : Statement (.fabricPortUp port) := of_none rfl
theorem firmwareOrderedRetrain (link : Nat) : Statement (.firmwareOrderedRetrain link) := of_none rfl
theorem yieldWindowEnd (cx : Nat) : Statement (.yieldWindowEnd cx) := of_none rfl
theorem exitReportArrive (die : Nat) (k : Nat) : Statement (.exitReportArrive die k) := of_none rfl

end Sys2Proof.Laws.EncodeShape
end

