-- ==== Sys2Proof/Laws/Step.lean ====
section
/-!
SUPPORT. The slots of a bundle around the one that is not a NOP, and the cycle in which a bundle issues.
-/
namespace Sys2Proof.Laws
open Sys2Proof Sys2Proof.Machine

/-- A NOP slot leaves the state as it is. -/
theorem runSlot_nop (s : State) : runSlot .nop s = .next s := by
  have n : (shape .nop).cls ≠ .x := by decide
  have r : firstPoison s (formReads s [] .nop) = none := rfl
  have e : elidedForbids .nop = false := rfl
  have x : exec .nop s = .next s := rfl
  unfold runSlot
  rw [if_neg fun h => n h.1, r, e, x]
  simp

/-- NOPs after the last other slot leave only their slot number behind. -/
theorem runSlots_nops (ys : List (Nat × Instr × Nat)) (t : State) (hn : ∀ y ∈ ys, y.2.1 = .nop) (ha : t.me.iss.aborted = false)
    (hw : t.me.wait = []) (hp : t.me.regPoison = []) : runSlots (ys.map fun x => (x.1, x.2.1)) t =
      .next (finishBundle (match ys.getLast? with
        | none => t
        | some y => t.mod fun c => { c with iss := { c.iss with slot := y.1 } })) := by
  induction ys generalizing t with
  | nil => simp [runSlots]
  | cons y ys ih =>
    obtain ⟨n, i, k⟩ := y
    have hi : i = .nop := hn (n, i, k) (by simp)
    subst hi
    simp only [List.map_cons, runSlots, runSlot_nop, mod_me, ha, hw]
    simp only [heal, mod_me, hp, List.isEmpty_nil, if_true, Bool.false_eq_true, if_false]
    rw [ih _ (fun y h => hn y (by simp [h])) (by simp [ha]) (by simp [hw]) (by simp [hp])]
    cases h : ys.getLast? with
    | none => simp_all [List.getLast?_eq_none_iff]
    | some z => simp [List.getLast?_cons, h]

/-- NOPs before a slot have no effect. -/
theorem runSlots_skip (xs : List (Nat × Instr × Nat)) (rest : List (Nat × Instr)) (v : State) (hn : ∀ y ∈ xs, y.2.1 = .nop)
    (ha : v.me.iss.aborted = false) (hw : v.me.wait = []) (hp : v.me.regPoison = []) (n : Nat) (i : Instr) :
    runSlots (xs.map (fun x => (x.1, x.2.1)) ++ (n, i) :: rest) v = runSlots ((n, i) :: rest) v := by
  induction xs generalizing v with
  | nil => rfl
  | cons y ys ih =>
    obtain ⟨m, j, k⟩ := y
    have hi : j = .nop := hn (m, j, k) (by simp)
    subst hi
    simp only [List.map_cons, List.cons_append]
    rw [runSlots]
    simp only [runSlot_nop, mod_me, ha, hw, heal, hp, List.isEmpty_nil, if_true, Bool.false_eq_true, if_false]
    rw [ih _ (fun y h => hn y (by simp [h])) (by simp [ha]) (by simp [hw]) (by simp [hp])]
    simp [runSlots]

/-- The last of several moments is no later than `now` when none of them is. -/
theorem foldl_max_le {α : Type} (f : α → Nat) (acts : List α) (r now : Nat) (hr : r ≤ now) (h : ∀ y ∈ acts, f y ≤ now) :
    acts.foldl (fun t x => Nat.max t (f x)) r ≤ now := by
  induction acts generalizing r with
  | nil => exact hr
  | cons y ys ih => exact ih _ (Nat.max_le.mpr ⟨hr, h y (by simp)⟩) fun z hz => h z (by simp [hz])

end Sys2Proof.Laws
end

