-- ==== Sys2Proof/Tests/Slice0.lean ====
section
/-!
SUPPORT. Tests of one step or one definition each, with values that the spec gives; for every constructor with a word,
one word written out from the fixed bits and field places that the opcode table gives its row, with the codes of 02 R35,
03 R50 to R61 and 20 R330; for every well-formedness check a term it refuses; and for every statement with hypotheses,
states and operands that meet them.
-/
namespace Sys2Proof.Tests
set_option Elab.async false
open Sys2Proof Sys2Proof.Machine Sys2Proof.Machine.Store Sys2Proof.Safety

/-- A privileged task of the PF on context 0. -/
def tk : Task := bootTask State.reset 0
/-- Context 0 runs it, changed by `f`. -/
def st (f : Ctx → Ctx) : State := State.reset.mod fun c =>
  let i : Issue := { c.iss with pc := 0x10000 }
  f { c with mode := .run, task := some tk, pc := 0x10000, iss := i }
/-- The same before a bundle that finds these registers. -/
def withRegs (r : Regs) : State := st fun c => { c with regs := r, iss := { c.iss with view := r } }
/-- Scalar registers only. -/
def scal (m : PMap Word) : State := withRegs { s := m }
/-- The state after an outcome. -/
def after : Out → State
  | .next t => t
  | _ => State.reset
/-- s1 after a slot on these scalar registers. -/
def s1After (i : Instr) (m : PMap Word) : Word := sReg (after (exec i (scal m))) 1
/-- v1 and ASTAT after a slot on one vector register v2. -/
def v1After (i : Instr) (x : Nat) : Nat × Nat :=
  let t := after (exec i (withRegs { v := [(2, BitVec.ofNat 1024 x)] }))
  ((vReg t 1).toNat, t.me.astat.toNat)

/-! ### Worked examples of the spec -/

/-- 06 R97, the worked table. -/
theorem test_bit_fields :
    s1After (.bext 1 2 3) [(2, 0x0123456789ABCDEF), (3, 0x0408)] = 0xDE ∧
    s1After (.bext 1 2 3) [(2, 0x0123456789ABCDEF), (3, 0x3810)] = 0x01 ∧
    s1After (.bext 1 2 3) [(2, 0x0123456789ABCDEF), (3, 0x4004)] = 0 ∧
    s1After (.bins 1 2 3) [(1, BitVec.allOnes 64), (2, 0x0123456789ABCDEF), (3, 0x0408)] = 0xFFFFFFFFFFFFFEFF ∧
    s1After (.bins 1 2 3) [(1, BitVec.allOnes 64), (2, 0x0123456789ABCDEF), (3, 0x3810)] = 0xEFFFFFFFFFFFFFFF ∧
    s1After (.bins 1 2 3) [(1, BitVec.allOnes 64), (2, 0x0123456789ABCDEF), (3, 0x0400)] = BitVec.allOnes 64 := by
  decide +kernel

/-- 06 R95: zero divisors, the wrap of −2^63 / −1, and rounding toward zero. -/
theorem test_division :
    s1After (.div 1 2 3) [(2, 7)] = BitVec.allOnes 64 ∧ s1After (.rem 1 2 3) [(2, 7)] = 7 ∧
    s1After (.div 1 2 3) [(2, 0x8000000000000000), (3, BitVec.allOnes 64)] = 0x8000000000000000 ∧
    s1After (.rem 1 2 3) [(2, 0x8000000000000000), (3, BitVec.allOnes 64)] = 0 ∧
    s1After (.div 1 2 3) [(2, -7), (3, 2)] = -3 ∧ s1After (.rem 1 2 3) [(2, -7), (3, 2)] = -1 ∧
    s1After (.divn 1 2 3) [(2, -7), (3, 2)] = 0x7FFFFFFFFFFFFFFC ∧ s1After (.remn 1 2 3) [(2, -7), (3, 2)] = 1 := by
  decide +kernel

/-- 02 R37: a write of s0 is discarded; 06 R94: addition wraps; 06 R98: ADDI sign-extends, ORI does not. -/
theorem test_scalar_corners :
    sReg (after (exec (.add 0 2 3) (scal [(2, 7), (3, 1)]))) 0 = 0 ∧
    s1After (.add 1 1 2) [(1, BitVec.allOnes 64), (2, 1)] = 0 ∧
    s1After (.addi 1 2 (-1)) [(2, 0)] = BitVec.allOnes 64 := by
  decide +kernel

/-- 05 R83: E4M3 from 300, 464, 470 and 2^−10, with the bits of 05 R84. -/
theorem test_e4m3 :
    v1After (.vcvt false .rne .f32 .w256 1 2 false .f8e4) 0x43960000 = (0x79, 8) ∧
    v1After (.vcvt false .rup .f32 .w256 1 2 false .f8e4) 0x43960000 = (0x7A, 8) ∧
    v1After (.vcvt false .rne .f32 .w256 1 2 false .f8e4) 0x43E80000 = (0x7E, 8) ∧
    v1After (.vcvt false .rup .f32 .w256 1 2 false .f8e4) 0x43E80000 = (0x7F, 10) ∧
    v1After (.vcvt false .rne .f32 .w256 1 2 false .f8e4) 0x43EB0000 = (0x7F, 10) ∧
    v1After (.vcvt true .rne .f32 .w256 1 2 false .f8e4) 0x43EB0000 = (0x7E, 24) ∧
    v1After (.vcvt false .rne .f32 .w256 1 2 false .f8e4) 0x3A800000 = (0x00, 12) ∧
    v1After (.vcvt false .rup .f32 .w256 1 2 false .f8e4) 0x3A800000 = (0x01, 12) := by decide +kernel

/-- 07 R133: [2^24, 1, 1, 1, −2^24, 1, 1, 1] sums to 5 by the tree and is inexact; the scan loses the ones. -/
theorem test_reductions :
    v1After (.vrsum .w256 1 2 false .f32) (packEls 32 [0x4B800000, 0x3F800000, 0x3F800000, 0x3F800000, 0xCB800000, 0x3F800000, 0x3F800000, 0x3F800000])
      = (0x40A00000, 8) ∧
    (v1After (.vscan .w256 1 2 false .f32) (packEls 32 [0x4B800000, 0x3F800000, 0x3F800000, 0x3F800000, 0xCB800000, 0x3F800000, 0x3F800000, 0x3F800000])).1
      = packEls 32 [0x4B800000, 0x4B800000, 0x4B800000, 0x4B800000, 0, 0x3F800000, 0x40000000, 0x40400000] := by decide +kernel

/-- 20 R332: the worked sett image is accepted; its REJ is reached with both branches. -/
theorem test_sett_image : checkSett [0x04800000, 0x09000001, 0x38140004, 0x05800001, 0x06000002, 0x44390000, 0x00000000, 0x48000005] = (1, 0) := by
  decide +kernel

/-- 02 R40, R41: ADDI s3,s3,#1 | VADD.512.f32 v1,v2,v3 | LD.i64 s3,[a4]+=#8 | VMUL.1024.f32 v4,v5,v6 is illegal by condition 1,
and the slots that write s3 are marked. -/
theorem test_illegal_bundle :
    let w := fun (i : Instr) => ((encode i).map (·.1)).getD 0
    let b := decodeBundle (w (.vmul .w1024 4 5 6 false false .f32) ++ w (.ld .i64 3 4 true 1) ++ w (.vadd .w512 1 2 3 false false .f32) ++
      w (.addi 3 3 1))
    b.legal = false ∧ b.cond = 1 ∧ b.bad = 5 := by decide +kernel

/-- 26 R402: with LIM 8 a token follows the last one after 500 hub cycles. -/
theorem test_token_release :
    let s := State.reset.modPdie 0 fun p => { p with pwrLim := 8, lastToken := 1000 }
    (after (exec (.startTokenRelease 0) s)).cycleG = 1500 := by decide +kernel

/-- 02 R41: a form without privilege traps at its bundle; TRAPPC, TRAPCODE and TRAPMASK are saved and the context halts. -/
theorem test_trap_saves :
    let s := (scal []).mod fun c => { c with task := some { tk with priv := false } }
    let t := (after (exec (.strd 1 2) s)).me
    t.mode = .halted ∧ t.trapPC = 0x10000 ∧ t.trapCode = 2 ∧ t.trapMask = 1 := by decide +kernel

theorem test_reset_inv : Safety.Inv State.reset := by decide

/-! ### Words and ill-formed terms -/

theorem test_words_1 : ([0x00000000, 0x00320D01, 0x00320D02, 0x00320D03, 0x00320D04, 0x00320D05, 0x00320D06, 0x00320D07, 0x00320D08, 0x00320D09, 0x0032000A, 0x0032000B, 0x00320D0C, 0x00320D0D, 0x00320D0E, 0x00320D0F, 0x04320D00, 0x04320D01, 0x04320D02, 0x04320D03, 0x04320D04, 0x04320D08, 0x04320D09, 0x04320D0A, 0x04320D0B] : List (BitVec 32)).map decodePlain = ([.nop,
  .add 3 8 13,
  .sub 3 8 13,
  .mul 3 8 13,
  .mulh 3 8 13,
  .mulhn 3 8 13,
  .div 3 8 13,
  .divn 3 8 13,
  .rem 3 8 13,
  .remn 3 8 13,
  .neg 3 8,
  .abs 3 8,
  .min 3 8 13,
  .max 3 8 13,
  .minn 3 8 13,
  .maxn 3 8 13,
  .and 3 8 13,
  .or 3 8 13,
  .xor 3 8 13,
  .andn 3 8 13,
  .orn 3 8 13,
  .shl 3 8 13,
  .shr 3 8 13,
  .sra 3 8 13,
  .rotl 3 8 13] : List Instr).map some := by decide

theorem test_words_2 : ([0x04320D0C, 0x04320010, 0x04320011, 0x04320012, 0x04320013, 0x04320014, 0x04320D18, 0x04320D19, 0x04320D1A, 0x04320D1B, 0x04320020, 0x08D49703, 0x08835210, 0x08835211, 0x08835212, 0x08834013, 0x08834014, 0x08834015, 0x08835216, 0x08835283, 0x0C320D00, 0x0C83520B, 0x0C320D10, 0x0C834022, 0x0C83402A] : List (BitVec 32)).map decodePlain = ([.rotr 3 8 13,
  .clz 3 8,
  .ctz 3 8,
  .popc 3 8,
  .brev 3 8,
  .bswp 3 8,
  .sext 3 8 13,
  .zext 3 8 13,
  .bext 3 8 13,
  .bins 3 8 13,
  .mov 3 8,
  .cmp false .le 13 18 23,
  .pand false 8 13 18,
  .por false 8 13 18,
  .pxor false 8 13 18,
  .pnot false 8 13,
  .pmov false 8 13,
  .pset false 8 13,
  .pcnt false 8 13 18,
  .sel 3 8 13 18,
  .adda 3 8 13,
  .lea 3 8 13 18,
  .dslice 3 8 13,
  .acvtRel .shared 8 13,
  .acvtGen .shared 8 13] : List Instr).map some := by decide

theorem test_words_3 : ([0x0CD48032, 0x10300F00, 0x10020F01, 0x14320057, 0x18320057, 0x1C320057, 0x20320057, 0x24320057, 0x2832000D, 0x2832100D, 0x2832200D, 0x2C300056, 0x30300056, 0x34834C58, 0x40000055, 0x40430000, 0x40800055, 0x40C30000, 0x41000000, 0x41400000, 0x44C8000D, 0x45C00000, 0x5086AC59, 0x5086D459, 0x5486AC59] : List (BitVec 32)).map decodePlain = ([.atst false .shared 13 18,
  .srd 3 .trapmask,
  .swr .trapmask 8,
  .addi 3 8 87,
  .subi 3 8 87,
  .andi 3 8 87,
  .ori 3 8 87,
  .xori 3 8 87,
  .shli 3 8 13,
  .shri 3 8 13,
  .srai 3 8 13,
  .lui 3 86,
  .movi 3 86,
  .cmpi .le 8 13 88,
  .br 85,
  .bri 3,
  .call 85,
  .ret 3,
  .exit,
  .yield,
  .loop 3 8 13,
  .lbrk 3,
  .ld .n16 8 13 true 89,
  .st .b32 8 13 true 89,
  .ldl .n16 8 13 true 89] : List Instr).map some := by decide

theorem test_words_4 : ([0x5886AC59, 0x58343C58, 0x5886D459, 0x5886EC59, 0xA0868C59, 0xA086AC59, 0xA086CC59, 0xA4869058, 0xA486B012, 0xA486D058, 0xA486F012, 0xA8D91C5A, 0xA8D93C5A, 0xA8D95C5A, 0xA886EC59, 0xACD94C5A, 0xC0868C59, 0xC0869C59, 0xC086AC59, 0xC086BC59, 0xC086CC59, 0xC086DC59, 0xC086EC59, 0xC086FC59, 0xC4868C59] : List (BitVec 32)).map decodePlain = ([.rld .n16 8 13 true 89,
  .rldn 3 8 true 88,
  .rst .b32 8 13 true 89,
  .rred true 8 13 true 89,
  .vld .w512 8 13 true 89,
  .vst .w512 8 13 true 89,
  .vldl .w512 8 13 true 89,
  .vlds .b32 8 13 88,
  .vldx .b32 8 13 18,
  .vsts .b32 8 13 88,
  .vstx .b32 8 13 18,
  .vaadd true true 13 18 true 90,
  .vaor true true 13 18 true 90,
  .vamax true true 13 18 true 90,
  .vafadd true 8 13 true 89,
  .vbupd .maxI32 .w512 13 18 true 90,
  .aadd true 8 13 true 89,
  .amin true 8 13 true 89,
  .amax true 8 13 true 89,
  .aminn true 8 13 true 89,
  .amaxn true 8 13 true 89,
  .aand true 8 13 true 89,
  .aor true 8 13 true 89,
  .axor true 8 13 true 89,
  .axchg true 8 13 true 89] : List Instr).map some := by decide

theorem test_words_5 : ([0xC4669C59, 0xC4342458, 0xC4343458, 0xC4344458, 0x6143658C, 0x6143659C, 0x614365AC, 0x614365B1, 0x614365CC, 0x614365DC, 0x6143416C, 0x6143417C, 0x6543658C, 0x6543659C, 0x654365A0, 0x654365B0, 0x654365C0, 0x65434150, 0x65434166, 0x65434176, 0x69436581, 0x69436591, 0x694365A1, 0x694365B1, 0x6943414C] : List (BitVec 32)).map decodePlain = ([.acas true 6 13 true 89,
  .afadd 3 8 true 88,
  .afmin 3 8 true 88,
  .afmax 3 8 true 88,
  .vadd .w512 8 13 18 true true .f32,
  .vsub .w512 8 13 18 true true .f32,
  .vmul .w512 8 13 18 true true .f32,
  .vmulh .w512 8 13 18 true true .i16,
  .vmin .w512 8 13 18 true true .f32,
  .vmax .w512 8 13 18 true true .f32,
  .vabs .w512 8 13 true .f32,
  .vneg .w512 8 13 true .f32,
  .vfma .w512 8 13 18 true true .f32,
  .vfms .w512 8 13 18 true true .f32,
  .vand .w512 8 13 18 true true,
  .vor .w512 8 13 18 true true,
  .vxor .w512 8 13 18 true true,
  .vnot .w512 8 13 true,
  .vpopc .w512 8 13 true .n32,
  .vclz .w512 8 13 true .n32,
  .vshl .w512 8 13 18 true true .i16,
  .vshr .w512 8 13 18 true true .i16,
  .vsra .w512 8 13 18 true true .i16,
  .vsel .w512 8 13 18 true true 1,
  .vbcast .w512 8 13 true .f32] : List Instr).map some := by decide

theorem test_words_6 : ([0x69400051, 0x6943656C, 0x6943647C, 0x6D6CAFBC, 0x71BF156C, 0x716CB92C, 0x7543410C, 0x7543411C, 0x7543412C, 0x7543413C, 0x7543414C, 0x7543415C, 0x7943410C, 0x7943411C, 0x7943412C, 0x7943413C, 0x7D95F988, 0x7D6CAFBB, 0x7D95D75C, 0x80800057, 0x84800057, 0x89400000, 0x881A1A01, 0x881A1A02, 0x881A0003] : List (BitVec 32)).map decodePlain = ([.viota .w512 8 .i16,
  .vmovs .w512 8 13 18 true .f32,
  .vins .w512 8 13 18 .f32,
  .vcmp .le .w512 13 18 23 true true .f32,
  .vcvt true .rdn .f16 .w512 23 28 true .f32,
  .vrnd .rdn .w512 13 18 true .f32,
  .vrcp .w512 8 13 true .f32,
  .vrsq .w512 8 13 true .f32,
  .vsqrt .w512 8 13 true .f32,
  .vexp2 .w512 8 13 true .f32,
  .vlog2 .w512 8 13 true .f32,
  .vtanh .w512 8 13 true .f32,
  .vrsum .w512 8 13 true .f32,
  .vrmax .w512 8 13 true .f32,
  .vrmin .w512 8 13 true .f32,
  .vscan .w512 8 13 true .f32,
  .vshuf false 8 .w512 18 23 28 true true,
  .vpack true .w512 13 18 23 true true .bf16,
  .vunpk true .bf16 .w512 18 23 true .f32,
  .vldm false 8 87,
  .vstm false 8 87,
  .vclr .w512 8,
  .kand 3 8 13,
  .kor 3 8 13,
  .knot 3 8] : List Instr).map some := by decide

theorem test_words_7 : ([0x881A0004, 0x8A434105, 0x88000006, 0xB3418058, 0xB7438058, 0xB8180000, 0xB8000802, 0xBB449018, 0xBB051097, 0xBB001800, 0xB8182000, 0xBB402998, 0xB8183008, 0xB800380C, 0xB8184008, 0xBC5FD012, 0xC83200D2, 0xC800C206, 0xC8300240, 0xC8000280, 0xC80002C3, 0xC8320300, 0xC8320340, 0xC8320380, 0xC80003C3] : List (BitVec 32)).map decodePlain = ([.kmov 3 8,
  .patld false 8 13 true,
  .patsw,
  .macc 3 8 .bf16 88,
  .mtern 3 8 .t5 88,
  .mpush 3,
  .mshift 2,
  .mdrain 3 8 .i32 24,
  .mdrainQ 3 .i64 23,
  .mclr 3,
  .mbsel 3,
  .vrdz 3 8 3 24,
  .fmtld 3 8,
  .fmtsel 3 0,
  .fmtrd 3 8,
  .rept 5 63 1 18,
  .fence 3 8 .module 18,
  .blk 3 6,
  .xbegin 3,
  .xend,
  .xabort 3,
  .barp 3 8,
  .bara 3 8,
  .barw 3 8,
  .evsig 3] : List Instr).map some := by decide

theorem test_words_8 : ([0xC8000403, 0xC8000600, 0xC8000640, 0xC8000680, 0xC80006C0, 0xD0034047, 0xD0800140, 0xD000C200, 0xD0320240, 0xD0320280, 0xD03202C0, 0xD4320000, 0xD400C040, 0xD4320080, 0xD400C0C1, 0xD400C100, 0xD4320140, 0xD4320180, 0xD43201C0, 0xD4320200, 0xD4320400, 0xD400C440, 0xD400C481, 0xD8320000, 0xD8320040] : List (BitVec 32)).map decodePlain = ([.evwait 3,
  .drainCpl,
  .drainCpsh,
  .drainGath,
  .drainCol,
  .jobw .gath 7 13,
  .jobgo .gath 8,
  .jobwait 3,
  .cpy 3 8,
  .gath 3 8,
  .scat 3 8,
  .trmk 3 8,
  .trfree 3,
  .trpost 3 8,
  .trwait 3 .localdone,
  .trfrz 3,
  .trsave 3 8,
  .trload 3 8,
  .tredit 3 8,
  .trq 3 8,
  .clnest 3 8,
  .clabort 3,
  .clev 3 .localdone,
  .lnch 3 8,
  .lnchi 3 8] : List Instr).map some := by decide

theorem test_words_9 : ([0xD8320080, 0xD800C0C0, 0xD8000103, 0xD800C140, 0xD800C180, 0xD83001C0, 0xE0320000, 0xE000C040, 0xE092008D, 0xE09200CD, 0xE092010D, 0xE000C140, 0xE0320180, 0xE000C1C0, 0xE4000003, 0xE4320040, 0xE4320041, 0xE4320042, 0xE4320043, 0xE4320080, 0xE8000000, 0xE8300044, 0xE8300045, 0xE8300080, 0xE83000C0] : List (BitVec 32)).map decodePlain = ([.tgdep 3 8,
  .tgwait 3,
  .slack 3,
  .brel 3,
  .bown 3,
  .wsplit 3,
  .romk 3 8,
  .rofree 3,
  .rocall 9 8 13,
  .rocallW 9 8 13,
  .rord 9 8 13,
  .rotrim 3,
  .roq 3 8,
  .roret 3,
  .trap 3,
  .syscVersion 3 8 0,
  .syscModuleId 3 8,
  .syscMsix 3 8,
  .syscLog 3 8,
  .strd 3 8,
  .eret,
  .tlbiPage 3 true,
  .tlbiAll 3 true,
  .ctxsv 3,
  .ctxld 3] : List Instr).map some := by decide

theorem test_words_10 : ([0xE800C100, 0xE8000140] : List (BitVec 32)).map decodePlain = ([.pempt 3,
  .idle] : List Instr).map some := by decide

theorem test_sett_words : ([0x00000000, 0x05800000, 0x09800056, 0x0D8002B0, 0x103002B0, 0x158A0000, 0x198A0000, 0x1D8A0000, 0x218A0000, 0x258A0000, 0x2980000D, 0x2D80000D, 0x31800057, 0x34300057, 0x38300057, 0x3C300057, 0x40001808, 0x44550002, 0x48000003] : List (BitVec 32)).map decodeSett = ([.settEnd,
  .settLdp 3 0,
  .settLdi 3 86,
  .settLdm 3 86,
  .settStm 3 86,
  .settAdd 3 0 5,
  .settSub 3 0 5,
  .settAnd 3 0 5,
  .settOr 3 0 5,
  .settXor 3 0 5,
  .settShl 3 0 13,
  .settShr 3 0 13,
  .settAndi 3 0 87,
  .settBeq 3 0 87,
  .settBne 3 0 87,
  .settBltu 3 0 87,
  .settRep 3 8,
  .settEmit true 2 5 2,
  .settRej 3] : List Instr).map some := by decide

/-- Every check of WellFormed refuses a term that breaks it. -/
theorem test_illFormed : ([
.sel 96 1 1 1, .adda 32 1 1, .dslice 1 40 1, .lea 5 1 1 1, .lea 0 32 1 1, .atst false .device 1 32, .rldn 32 0 false 0, .vld .w256 32 0 false 0, .vst .w256 40 0 false 0, .vlds .b8 32 0 0, .vsts .b8 32 0 0, .vldx .b8 32 0 0, .vstx .b8 63 0 0,
  .vaadd false false 32 0 false 0, .vaor false false 32 0 false 0, .vamax false false 32 0 false 0, .vafadd false 32 0 false 0, .vbupd .addI32 .w256 32 0 false 0, .acas false 7 0 false 0,
  .vadd .w256 0 0 0 false false .t5, .vsub .w256 0 0 0 false false .t5, .vmul .w256 0 0 0 false false .t5, .vmin .w256 0 0 0 false false .t5, .vmax .w256 0 0 0 false false .t5, .vmulh .w256 0 0 0 false false .f32, .vabs .w256 0 0 false .n8, .vneg .w256 0 0 false .n8, .vfma .w256 0 0 0 false false .i8, .vfms .w256 0 0 0 false false .n8,
  .vpopc .w256 0 0 false .i8, .vclz .w256 0 0 false .f16, .vshl .w256 0 0 0 false false .f16, .vshr .w256 0 0 0 false false .t5, .vsra .w256 0 0 0 false false .bf16, .vbcast .w256 0 0 false .t5, .viota .w256 0 .t5, .vmovs .w256 0 0 0 false .t5, .vins .w256 0 0 0 .t5,
  .vcmp .ltn .w256 0 0 0 false false .i8, .vcmp .eq .w256 16 0 0 false false .i8, .vcmp .eq .w256 0 0 0 false false .t5, .vcvt false .rne .f32 .w256 0 0 false .t5, .vcvt false .rne .f32 .w256 0 0 false .f32, .vrnd .rne .w256 0 0 false .i8,
  .vrcp .w256 0 0 false .i8, .vrsq .w256 0 0 false .i8, .vsqrt .w256 0 0 false .i8, .vexp2 .w256 0 0 false .i8, .vlog2 .w256 0 0 false .i8, .vtanh .w256 0 0 false .i8, .vrsum .w256 0 0 false .t5, .vrmax .w256 0 0 false .t5, .vrmin .w256 0 0 false .t5, .vscan .w256 0 0 false .t5,
  .vpack false .w256 0 0 0 false false .f32, .vunpk false .f32 .w256 0 0 false .f32, .vldm false 32 0, .vldm false 0 6144, .vstm true 0 6144, .kand 16 0 0, .kor 0 16 0, .knot 0 16, .kmov 16 0,
  .macc 0 0 .t5 0, .macc 0 0 .f32 0, .mtern 0 0 .i8 0, .mtern 0 29 .t5 0, .mshift 0, .mdrain 0 0 .i8 0, .mdrainQ 0 .t5 0, .vrdz 0 0 6 0, .rept 40 63 0 0, .rept 63 40 0 0, .rept 5 5 0 0, .rept 63 63 1 0, .fence 0 0 .context 0, .blk 0 0, .blk 0 16,
  .barp 0 32, .bara 0 32, .barw 0 32, .jobw .cpy 16 0, .cpy 0 32, .gath 0 32, .scat 0 32, .trmk 0 32, .clnest 0 32, .lnch 0 32, .lnchi 0 32, .romk 0 32, .trpost 32 0, .trsave 32 0, .trload 32 0, .tredit 32 0, .rocall 61 0 0, .rocallW 61 0 0, .rord 62 0 0, .syscVersion 0 0 1, .syscVersion 0 0 3,
  .tlbiPage 32 false, .tlbiAll 32 true, .ctxsv 32, .ctxld 32, .settEmit false 5 0 0, .portalWrite 5 0 0 [], .portalWrite 0 64 0 [], .portalWrite 0 0 0 [0, 0, 0, 0, 0, 0, 0, 0, 0], .portalPostedWrite 5 0, .shadowBankSwap 8 0 0, .shadowBankSwap 0 0 64, .pcoreWrite 5 false 0, .trootWrite 5 0, .fctlHoldWrite 5 0, .prngWrite 5 0 0, .prngWrite 0 8 0,
  .functionLevelReset 5, .flrDrainDone 5, .freeze 5, .reset 5, .getlog 5, .pwrlimWrite 8 0, .telbaseWrite 8 0, .routeTableWrite 2048 0, .virtualDieRemap 8 0, .fabricPortDown 16, .fabricPortUp 16, .haltLineArrive 8 0, .haltLineArrive 0 5
] : List Instr).all (fun i => !i.wellFormed) = true := by decide

/-- Reserved encodings decode to nothing: a reserved major, a reserved func, a nonzero unused field, TYP 6, width 3, EMIT kind 5. -/
theorem test_reserved_words : ([0x38000000, 0xFC000000, 0x000000FF, 0x41000001, 0xB0000000 ||| 0x6 <<< 15, 0x63000000] : List (BitVec 32)).all
  (fun w => (decodePlain w).isNone) = true ∧ decodeSett 0x44000005 = none ∧ decodeSett 0x4C000000 = none := by decide

/-! ### Witnesses: for every statement with hypotheses, states and operands that meet them, clause by clause -/

/-- LOCAL offset 0x100, the last 16 bytes of LOCAL, and an address outside every window. -/
def la : Word := 0x0001000000000100
def lastLocal : Word := 0x00010000007FFFF0
def nowhere : Word := 0x0002000000000000
/-- SHARED of virtual die 1, offset 0x100, and a FABRIC address. -/
def sh1 : Word := 0x0001000024000100
def fab : Word := 0x0040000000000000
/-- The state with address registers 1 and 2 and scalar registers 1 and 2 at `x`. -/
def atAddr (x : Word) : State := withRegs { s := [(1, x), (2, x)], a := [(1, x), (2, x)] }
/-- The launch word at offset 32 becomes `w`. -/
def flags (w : Word) (s : State) : State := s.mod fun c => { c with task := some { tk with lflags := w } }
/-- v2 killed before the bundle. -/
def killed : State := withRegs { dead := 4 }
/-- An elided region with no store yet. -/
def el : Elided := { s := [], a := [], p := [], dest := 1, resume := 0x10010 }
/-- The context in a region. -/
def inRegion (r : Region) (s : State) : State := s.mod fun c => { c with region := r }

/-- A request of context 0 for the first bytes of the DRAM of virtual die 0, and that request as its source holds it. -/
def rq (op : MemOp) (d : Dest) : Req := newReq (.dram 0 0) op d 0 false (atAddr 0)
def out (r : Req) : Sent := { req := r, sends := 1, firstAt := 0, lastAt := 0, replied := false, copies := 0, done := false }
/-- An earlier read of context 0 is open. -/
def behind (s : State) : State := s.modPdie 0 fun p => { p with sent := [out (rq (.read 8) .none)] }

theorem wit_DivisionNeverTraps : rS (scal [(3, 1)]) 3 ≠ 0 := by decide +kernel

theorem wit_SpecialRegisters : (scal []).me.task = some tk ∧ tk.priv = true ∧ (scal []).myPriv = true ∧
    ((scal []).mod fun c => { c with task := none }).myPriv = false ∧
    (SReg.cycle ≠ .astat ∧ SReg.cycle ≠ .trappc ∧ SReg.cycle ≠ .trapcode ∧ SReg.cycle ≠ .pdie) := by decide +kernel

theorem wit_BranchesAndLoops :
    let s := atAddr 0x20
    let t := s.mod fun c => { c with loops := [⟨0, 0x10000, 1, 3⟩] }
    s.me.iss.pc.toNat % 16 = 0 ∧ (rS s 1).toNat % 16 = 0 ∧ (rS (atAddr 0x2F) 1).toNat % 16 ≠ 0 ∧
    (s.me.loops = [] ∧ s.me.iss.target = none ∧ s.me.iss.after = none) ∧ (rS s 0).toNat = 0 ∧ (rS s 1).toNat ≠ 0 ∧
    loopsOutside 0 t.me.loops = some (⟨0, 0x10000, 1, 3⟩, []) ∧ (∀ l ∈ t.me.loops, l.lc ≠ 1) ∧ s.inElided = false ∧
    s.me.port = [] ∧ s.me.mat.running = none ∧ (s.mod fun c => { c with port := [(3, .mclr 0)] }).me.port ≠ [] := by
  decide +kernel

theorem wit_LoopEngine :
    let l : Loop := ⟨0, 0x10000, 2, 3⟩
    (rd 0 [] l.lc : BitVec 32).toNat + 1 < 2 ^ 32 ∧ 0x10010 = loopEnd l ∧ (rd 0 [] l.lc : BitVec 32).toNat + 1 < l.trip ∧
    (rd 0 [(0, (2 : BitVec 32))] l.lc).toNat + 1 = l.trip ∧ 0x10000 ≠ loopEnd l := by decide +kernel

/-- Types of the vector statements, and the outcomes of a slot: a killed source with and without checking, and an enabled
status bit. -/
theorem wit_vector_slots :
    let c := flags (2 ^ 27) killed
    let e := flags (0x40 * 2 ^ 32) killed
    ([2].any (isDead c) = true ∧ c.checking = true) ∧ ([2].any (isDead killed) && killed.checking) = false ∧
    withDead killed [2] 0 &&& atrapMask killed = 0 ∧ withDead e [2] 0 &&& atrapMask e ≠ 0 := by decide +kernel
theorem wit_VectorIntegerForms : ETy.i32.isInt = true ∧ ETy.i32.isSint = true ∧ ETy.n32.isNat = true := by decide
theorem wit_VectorFloats : etyFmt .f32 = some .f32 ∧ etyFmt .f8e4 = some .f8e4 := by decide
theorem wit_VectorMovesAndPatterns : ETy.i32.isInt = true ∧ (ETy.f16.isFlt = true ∧ etyFmt .f16 = some .f16) ∧
    (scal []).me.task = some tk ∧ (6144 + (6143 : BitVec 14).toNat < tk.mwin ∧ (31 : BitVec 6).toNat < 32) ∧
    tk.mwin ≤ 6144 + (6144 : BitVec 14).toNat := by decide +kernel
theorem wit_VectorConversions : ETy.f32 ≠ .t5 ∧ etyFmt .f32 = some .f32 ∧ ETy.f16.packSrc = some .f32 ∧ ETy.f32.unpackOk .f16 = true := by
  decide
theorem wit_VectorSpecialsAndMasks : etyFmt .f32 = some .f32 ∧ ETy.f32.isIntFlt = true ∧ Cond.lt.vector = true ∧ ETy.i8.isInt = true := by
  decide

theorem wit_LoadsAndStoresAtOnce :
    let s := atAddr la
    let t := atAddr (lastLocal + 8)
    openAt s (effAddr s 1 false 0 8) 8 8 (keyScratch 0 0x100) ∧ s.poisoned (keyScratch 0 0x100) 8 = false ∧
    openAt t (effAddr t 1 true 1 8) 8 8 (keyScratch 0 0x7FFFF8) ∧
    openAt s (effAddr s 1 false 0 128) 128 128 (keyScratch 0 0x100) ∧ s.poisoned (keyScratch 0 0x100) 128 = false ∧
    openAt s (effAddr s 1 false 0 32) 32 32 (keyScratch 0 0x100) ∧ (31 : BitVec 6).toNat < 32 ∧
    behindAt (behind s) (effAddr s 1 false 0 128) 128 128 (keyScratch 0 0x100) ∧
    (behind s).poisoned (keyScratch 0 0x100) 128 = false := by
  unfold openAt behindAt reachesAt; decide +kernel

theorem wit_AccessChecks :
    let i : Instr := .ld .i64 3 1 false 0
    (∃ s, operand i s = some (la + 1, 8) ∧ s.inElided = false ∧ (la + 1).toNat % 8 ≠ 0) ∧
    (∃ s, operand i s = some (nowhere, 8) ∧ s.inElided = false ∧ nowhere.toNat % 8 = 0 ∧ window nowhere = none ∧
      (∀ z n aa am c, i ≠ .ldl z n aa am c) ∧ (∀ w n aa am c, i ≠ .vldl w n aa am c)) ∧
    (∃ s, operand i s = some (fab, 8) ∧ s.inElided = false ∧ window fab = some (.fabric, 0) ∧ reaches i .fabric = false) ∧
    (∃ s : State, s.inElided = false ∧ window (rA s 1) = some (.local_, 0x7FFFE0) ∧ 0x7FFFE0 % 8 = 0 ∧ 0x7FFFE0 + 32 ≤ 2 ^ 23 ∧
      s.barred (keyScratch 0 0x7FFFE0) 32 = false ∧ s.poisoned (keyScratch 0 0x7FFFE0) 32 = false ∧ s.myVdie < 8) :=
  ⟨⟨atAddr (la + 1), by decide +kernel⟩,
   ⟨atAddr nowhere, by decide +kernel, by decide +kernel, by decide, by decide +kernel, by simp, by simp⟩,
   ⟨atAddr fab, by decide +kernel⟩, ⟨atAddr (lastLocal - 16), by decide +kernel⟩⟩

/-- An access to SHARED of another die leaves as a request, whatever it does. -/
theorem wit_far_target : ∀ acc, acc ≠ .fetch → (atAddr sh1).target .shared (2 ^ 26 + 0x100) acc = .ok (.far (.shared 1 0x100)) := by
  intro acc _; cases acc <;> rfl

theorem wit_AtomicsAtOnce :
    let s := atAddr la
    let t := atAddr sh1
    let e := flags (2 * 2 ^ 32) (atAddr la)
    openAt s (effAddr s 1 false 0 8) 8 8 (keyScratch 0 0x100) ∧ s.poisoned (keyScratch 0 0x100) 8 = false ∧
    atomStatus .fadd 0x7F7FFFFF 0x7F7FFFFF &&& atrapMask s = 0 ∧ atomStatus .fadd 0x7F7FFFFF 0x7F7FFFFF &&& atrapMask e ≠ 0 ∧
    openAt s (effAddr s 1 false 0 64) 64 64 (keyScratch 0 0x100) ∧
    ((effAddr t 1 false 0 64).toNat % 64 = 0 ∧ window (effAddr t 1 false 0 64) = some (.shared, 2 ^ 26 + 0x100) ∧
      (∀ j < 16, t.grantShared t.myFn 1 (0x100 + j * 4) = true)) ∧
    (2 ^ 26 + 0x100) % 2 ^ 26 + 256 * 31 < 2 ^ 26 ∧ (∀ j < 32, t.grantShared t.myFn 1 (0x100 + j * 256) = true) ∧
    2 ^ 26 ≤ (2 ^ 26 - 256 * 31) % 2 ^ 26 + 256 * 31 ∧ t.readsOpen = false ∧ (behind t).readsOpen = true ∧
    behindAt (behind s) (effAddr s 1 false 0 64) 64 64 (keyScratch 0 0x100) := by
  unfold openAt behindAt reachesAt; decide +kernel

theorem wit_FarAccesses :
    let s := atAddr sh1
    let t := atAddr la
    s.inElided = false ∧ (effAddr s 1 false 0 128).toNat % 128 = 0 ∧
    window (effAddr s 1 false 0 128) = some (.shared, 2 ^ 26 + 0x100) ∧
    Window.shared ≠ .fabric ∧ isDead s 2 = false ∧
    s.me.task = some tk ∧ openAt t (effAddr t 1 false 0 8) 8 8 (keyScratch 0 0x100) ∧
    (t.myFn, tk.lnch, tk.n, t.me.rredSeg) ∉ (t.pdie (t.cur / 64)).rtags ∧ (t.pdie (t.cur / 64)).rtags.length < 32768 ∧
    (t.myFn, tk.lnch, tk.n, t.me.rredSeg) ∈ ((t.modPdie 0 fun p => { p with rtags := [(0, 1, 0, 0)] }).pdie (t.cur / 64)).rtags ∧
    (Loc.shared 1 0x100).other = none ∧ s.readsOpen = false ∧ (behind s).readsOpen = true := by
  unfold openAt reachesAt; decide +kernel

theorem wit_LandingsAndLists :
    let s := atAddr la
    let busy := s.mod fun c => { c with landings := [(3, ⟨.scalar 3 .i64, 5, none, 0, 0, 0⟩)] }
    s.me.task = some tk ∧ s.inElided = false ∧ (rA s 1).toNat % 8 = 0 ∧ (63 : BitVec 6).toNat < tk.lslots ∧
    (∃ k : Task, k.lslots ≤ (63 : BitVec 6).toNat) ∧ (look busy.me.landings 3).isSome = true ∧
    openAt s (rA s 1) 8 8 (keyScratch 0 0x100) ∧ look s.me.landings 63 = none ∧
    (∀ j : Nat, j < 16 → openAt s (rA s 1 + BitVec.ofInt 64 (j * (1 : BitVec 18).toInt * 8)) 8 8 (keyScratch 0 (0x100 + 8 * j))) ∧
    (∀ j : Nat, j < 16 → openAt s (rA s 1 + BitVec.ofNat 64 (elem (rV s 2) j 64 * 8)) 8 8 (keyScratch 0 0x100)) ∧
    (rA (atAddr (la + 4)) 1 + BitVec.ofInt 64 ((0 : Nat) * (1 : BitVec 18).toInt * 8)).toNat % 8 ≠ 0 ∧
    (∀ j : Nat, j < 16 → behindAt (behind s) (rA s 1 + BitVec.ofInt 64 (j * (1 : BitVec 18).toInt * 8)) 8 8 (keyScratch 0 (0x100 + 8 * j)) ∧
      s.poisoned (keyScratch 0 (0x100 + 8 * j)) 8 = false) ∧
    (∀ j : Nat, j < 16 → (rA (atAddr sh1) 1 + BitVec.ofInt 64 (j * (1 : BitVec 18).toInt * 8)).toNat % 8 = 0 ∧
      window (rA (atAddr sh1) 1 + BitVec.ofInt 64 (j * (1 : BitVec 18).toInt * 8)) = some (.shared, 2 ^ 26 + (0x100 + 8 * j))) := by
  refine ⟨by decide +kernel, by decide +kernel, by decide +kernel, by decide +kernel, ⟨{ tk with lslots := 63 }, by decide +kernel⟩, ?_⟩
  unfold openAt behindAt reachesAt; decide +kernel

/-- The task becomes `k`. -/
def asTask (k : Task) (s : State) : State := s.mod fun c => { c with task := some k }
/-- The matrix state becomes `m`. -/
def mat (m : Matrix) (s : State) : State := s.mod fun c => { c with mat := m }
/-- A repeat with one issue left. -/
def rep1 : Running := ⟨false, 0, 1, .f8e4, 0, 0x2011, 1, 1, 0x10000, 0, some 1, none, 0⟩

theorem wit_MatrixBeats :
    let s := (atAddr 0).modCore 0 fun k => { k with cols := 16 }
    let high := mat { bBind := some 1 } (atAddr 131072)
    (portOpen s = true ∧ s.me.mat.running = none ∧ (s.core (s.cur / 4)).cols ≠ 0) ∧
    (((atAddr 0).core 0).cols = 0 ∧ ((atAddr 0).pdie 0).tokenHeld = false) ∧ (beatFmt true .cur (curFmtX s) = none ∧ (3 : BitVec 2).toNat < myTiles s) ∧
    (stRcd &&& atrapMask s = 0 ∧ stRcd &&& atrapMask (flags (0xFF * 2 ^ 32) s) ≠ 0) ∧
    (beatFmt false .cur (curFmtX s) = some (.flt .f8e4 .f8e4) ∧ beatFmt false .bf16 (curFmtX s) = some (.flt .bf16 .bf16)) ∧
    myTiles (asTask { tk with zacc := 3 } s) ≤ (3 : BitVec 2).toNat ∧ bAddr s 1 % beatBytes (.flt .bf16 .bf16) ≠ 0 ∧
    (bAddr high 0 % 1 = 0 ∧ 131072 < bAddr high 0 + 1) ∧ (bAddr s 131071 % 1 = 0 ∧ bAddr s 131071 + 1 ≤ 131072) ∧
    (∀ col < 192, s.poisoned (keyBslice (s.cur / 4) col (bAddr s 131071)) 1 = false) ∧
    (let r := mat { running := some rep1 } s
     (r.ctx 0).mat.running = some rep1 ∧ beatFmt rep1.tern rep1.typ rep1.entry = some (.flt .f8e4 .f8e4) ∧ (r.ctx 0).mode = .run ∧
     (r.ctx 0).regPoison = [] ∧ (∀ k ∈ beatKeys false rep1.va (0, none), k ∉ openKeys r) ∧ lateAt (r.ctx 0) (beatKeys false rep1.va (0, none)) ≤ 0 ∧
     (r.ctx 0).landings = [] ∧ (r.core 0).portAt ≤ 0 ∧
     (let late := (flags (2 ^ 27) r).mod fun c => { c with avail := [(keyV 1, 9)] }
      late.checking = true ∧ Nat.max (late.core 0).portAt 0 < availAt late.me (beatKeys false rep1.va (0, none))) ∧
     (∃ k ∈ beatKeys false rep1.va (0, none), k ∈ openKeys (r.modPdie 0 fun p => { p with sent := [out (rq (.read 8) (.vload 1 .w512))] })) ∧
     rep1.z < myTiles r ∧ bAddr r rep1.aux % 1 = 0 ∧ [rep1.va].any (isDead r) = false) := by decide +kernel

theorem wit_MatrixForms :
    let s := atAddr lastLocal
    let few := asTask { tk with zacc := 3 } s
    let busy := mat { running := some rep1 } s
    let full := s.modCore 0 fun k => { k with drainQ := List.replicate 64 ⟨0, 0, 0, 0, 0, [], 0, 0, 0, 0, 0⟩ }
    (isMatrix (.mclr 3) = true ∧ portOpen busy = false) ∧ portOpen s = true ∧ s.me.mat.running = none ∧ myTiles few ≤ (3 : BitVec 2).toNat ∧
    (3 : BitVec 2).toNat < myTiles s ∧ (s.inElided = false ∧ window (rA s 1) = some (.local_, 0x7FFFF0) ∧ 0x7FFFF0 % 8 = 0 ∧
      s.barred (keyScratch 0 0x7FFFF0) 8 = false ∧ s.poisoned (keyScratch 0 0x7FFFF0) 8 = false) ∧
    fValid 0x2011 = true ∧ fValid 0 = false ∧ stRcd &&& atrapMask s = 0 ∧
    (let rows := (192 * 4 + 127) / 128
     myRows s < (rA (atAddr 12283) 1).toNat + rows ∧ (rA (atAddr 12282) 1).toNat + rows ≤ myRows s) ∧
    64 < queueUsed (full.core 0).drainQ + 1 ∧ queueUsed (s.core 0).drainQ + 2 ≤ 64 := by decide +kernel

/-- A FENCE of context 0 that covers the request with tag 5 of die 0, into rows 0 and 1. -/
def fn5 : Fence := ⟨1, 0, .core, 0x10, [(0, 5)], [], [], 0x10000, 0⟩

theorem wit_FencesAndHolds :
    let s := atAddr 3
    let f := s.mod fun c => { c with fences := [fn5] }
    let bad := f.mod fun c => { c with failMap := 1 }
    let open_ := f.modPdie 0 fun p =>
      { p with sent := [out { rq (.read 8) .none with po := 5 }] }
    let held := s.setCtx 1 { hold := some ⟨2, 5, 128⟩ }
    (s.inElided = false ∧ s.me.waitKey = none ∧ (rS (atAddr 12286) 1).toNat + 2 ≤ myRows s ∧
      myRows s < (rS (atAddr 12287) 1).toNat + 2) ∧
    (inScope open_ .context (rq (.read 8) .none) = true ∧ (8 : BitVec 6).getLsbD (setBit (rq (.read 8) .none)) = true ∧
      fenceDone .context (out (rq (.read 8) .none)) = false) ∧ s.readsOpen = false ∧ (behind s).readsOpen = true ∧
    ((f.ctx 0).task.isSome = true ∧ (f.ctx 0).mode ≠ .halted ∧ (f.ctx 0).region = .none) ∧
    (∀ g ∈ (open_.ctx 0).fences, fenceOver open_ 0 g = false) ∧ (f.ctx 0).fences.find? (fenceOver f 0) = some fn5 ∧
    fn5.set.getLsbD 4 = true ∧ 0 < ((List.range 2048).filter (bad.ctx 0).failMap.getLsbD).length ∧
    (fn5.row.toNat + 2 ≤ tk.mwin ∧ tk.mwin < (12287 : Word).toNat + 2) ∧
    (rS s 1 &&& 2 ≠ 0 ∧ (held.ctx 1).hold = some ⟨2, 5, 128⟩ ∧ (held.pdie 0).cycle ≤ 128) ∧ (s.ctx 1).hold = none ∧
    (∀ j < 4, waitsSince s 63 (s.ctx j) = none) ∧ waitersBefore s 63 0 = 0 ∧ (rd 0 (s.fn 0).events 63).toNat = 0 ∧ 0 < (rd 0 ((s.modFn 0 fun g => { g with events := [(63, 65535)] }).fn 0).events 63).toNat := by
  decide +kernel

theorem wit_RegionsAndBarriers :
    let s := atAddr la
    let locked := (inRegion .locked s).modVdie 0 fun d => { d with locks := [(0, 0)] }
    let e1 : Elided := { el with stores := [(keyScratch 0 0, 7)] }
    let elided := inRegion (.elided e1) s
    let rec_ := s.mod fun c => { c with barRec := some (la, 0) }
    let w : State := s.modPdie 0 fun p => { p with barWaits := [(newReq (.dram 0 0) (.barw (some 0)) (.barW 1) 0 false s, 0)] }
    (s.me.region = .none ∧ look (s.vdie s.myVdie).locks s.myFn = none ∧ s.readsOpen = false ∧ s.myFlag 26 = false ∧ s.me.aborts < 4) ∧
    ((behind s).me.region = .none ∧ (behind s).readsOpen = true) ∧ ((behind locked).me.region = .locked ∧ (behind locked).readsOpen = true) ∧
    ((s.modVdie 0 fun d => { d with locks := [(0, 4)] }).vdie 0).locks ≠ [] ∧ (flags (2 ^ 26) s).myFlag 26 = true ∧
    (locked.me.region = .locked ∧ locked.readsOpen = false ∧ look (locked.vdie tk.vdie).locks tk.fn = some locked.cur) ∧
    (elided.me.region = .elided e1 ∧ rising e1.stores = true ∧ (∀ k ∈ e1.stores.map Prod.fst, keyKind k = 1) ∧
      ∀ k ∈ e1.stores.map Prod.fst, elided.barred k 1 = false) ∧
    (1 ≤ (5 : BitVec 8).toNat ∧ (5 : BitVec 8).toNat ≤ 5) ∧
    (s.inElided = false ∧ (rA s 1).toNat % 16 = 0 ∧ nowKey s (rA s 1) = some (keyScratch 0 0x100) ∧ s.barred (keyScratch 0 0x100) 16 = false ∧
      s.poisoned (keyScratch 0 0x100) 16 = false) ∧
    (s.inElided = false ∧ (rA (behind s) 1).toNat % 16 = 0 ∧ nowKey (behind s) (rA s 1) = some (keyScratch 0 0x100) ∧
      (behind s).barred (keyScratch 0 0x100) 16 = false) ∧ s.me.waitKey = none ∧ (∀ p, s.me.barRec ≠ some (rA s 1, p)) ∧
    openStep (s.modPdie 0 fun p => { p with sent := [out (rq (.barp 0) (.barRec la))] }) = true ∧
    (openStep rec_ = false ∧ rec_.me.barRec = some (rA rec_ 1, 0) ∧ (0 : BitVec 16) = (wordAt rec_ (keyScratch 0 0x100) 1).extractLsb' 48 16) ∧
    ((1 : BitVec 16) ≠ (wordAt s (keyScratch 0 0x100) 1).extractLsb' 48 16) ∧
    ((w.pdie 0).barWaits[0]?).isSome = true ∧ (wordAt w (w.locKey (.dram 0 0)) 1).extractLsb' 48 16 = 0 := by decide +kernel

/-- A request waits at its home. -/
def atHome (r : Req) : State := (atAddr 0).modPdie 0 fun p => { p with pend := [r] }
/-- A message with a body has reached physical die 0. -/
def msg (b : Body) : Msg := { dst := 0, body := b, born := 0 }
def inbox (b : Body) : State := (atAddr 0).modPdie 0 fun p => { p with inbox := [msg b] }
def rinbox (b : Body) : State := (atAddr 0).modPdie 0 fun p => { p with rinbox := [msg b] }
/-- A cache entry for it. -/
def entry0_ : CacheEntry := ⟨0, 0, 0, 0, 1, none, 0, false⟩

theorem wit_HomesTakeAndApply :
    let w := rq (.write [7]) .none
    let far : Req := { w with srcMod := 1 }
    let s := inbox (.req w)
    let known := s.modPdie 0 fun p => { p with cache := [entry0_] }
    let full := s.modPdie 0 fun p => { p with cache := List.replicate 4096 { entry0_ with tag := 9 } }
    let poison := { atHome (rq (.atom .add 8 1 0) (.old 1)) with poison := [0] }
    ((s.pdie 0).inbox[0]? = some (msg (.req w)) ∧ ¬ (w.srcMod ≠ s.hub.modid.toNat) ∧ s.phys w.loc.home = 0) ∧
    (far.srcMod ≠ s.hub.modid.toNat ∧ (msg (.req far)).born + 8192 < ({ s with cycleG := 8193 } : State).cycleG) ∧
    ({ s with remap := [(0, 1), (1, 0)] } : State).phys w.loc.home ≠ 0 ∧
    (far.srcMod ≠ s.hub.modid.toNat ∧ s.granted far.fn (homeLoc far.loc) far.op.size = true ∧ (s.fn far.fn).resetting = false) ∧
    (s.granted 1 (homeLoc far.loc) far.op.size = false) ∧ (rq (.read 8) .none).op.writes = false ∧ w.op.writes = true ∧
    (s.pdie 0).cache.find? (entryOf w.srcMod w.srcDie w.tag) = none ∧ (known.pdie 0).cache.find? (entryOf w.srcMod w.srcDie w.tag) = some entry0_ ∧
    4096 ≤ (full.pdie 0).cache.length ∧
    (let t := atHome w
     let twin : Req := { w with cx := some 64, arr := 0 }
     (t.pdie 0).pend[0]? = some w ∧ t.aged w = false ∧ t.mayApply w = true ∧ t.bankTurn 0 w = true ∧
     t.mayApply { w with clk := [(1, 5)] } = false ∧ t.bankTurn 0 twin = false ∧
     ({ t with cycleG := 8193 } : State).aged { w with srcMod := 1 } = true) ∧
    poison.poisoned (poison.locKey (.dram 0 0)) 8 = true ∧ (1 : Word).toNat < 2 ^ (8 * 8) ∧
    ((0, 1, 0, 0) ∉ ((atHome w).pdie 0).rtags ∧ ((atHome w).pdie 0).rtags.length < 32768) := by decide +kernel

/-- A reply to the request with tag 0 of die 0, and the request as its source holds it. -/
def rep0 (d : List Byte) : Reply := { srcMod := 0, srcDie := 0, tag := 0, data := d, stamp := [], status := 0, trap := 0, detail := 0, copies := 1 }
def sent0 (d : Dest) : Sent := out (rq (.read 8) d)

theorem wit_HomesServeAndReply :
    let r := rq (.read 8) (.sload 63 .i64)
    let b := rq (.barw (some 1)) (.barW 1)
    let s := atHome r
    let t := (rinbox (.reply (rep0 [1]))).modPdie 0 fun p => { p with sent := [sent0 (.sload 63 .i64)] }
    let m := (atAddr 0).modPdie 0 fun p => { p with sent := [sent0 (.vload 31 .w256)], waitRep := [rep0 [1]] }
    ((s.pdie 0).pend[0]? = some r ∧ r.op.writes = false ∧ s.aged r = false ∧ s.covers r.loc.home r.clk = true ∧ s.bankTurn 0 r = true ∧
      s.poisoned (s.locKey r.loc) 8 = false) ∧ s.covers 0 [(1, 5)] = false ∧ ({ s with poison := [0] } : State).poisoned (s.locKey r.loc) 8 = true ∧
    (b.op = .barw (some 1) ∧ (1 : BitVec 16) ≠ (wordAt (atHome b) ((atHome b).locKey b.loc) 1).extractLsb' 48 16) ∧
    ((t.pdie 0).rinbox[0]? = some (msg (.reply (rep0 [1]))) ∧ (∀ x ∈ (t.pdie 0).sent, x.sends = 0 → x.req.tag < 65536) ∧
      (t.pdie 0).sent.find? (fun q => q.req.tag = (rep0 [1]).tag) = some (sent0 (.sload 63 .i64))) ∧
    (∀ q ∈ ((rinbox (.reply (rep0 []))).pdie 0).sent, q.req.tag ≠ 0) ∧
    (let q := (sent0 (.vload 31 .w256)).req
     (m.pdie 0).waitRep[0]? = some (rep0 [1]) ∧ m.early q = false ∧ m.stale q (rep0 [1]) = false ∧ m.covers q.vdie (rep0 [1]).stamp = true ∧
      m.early { q with po := 1 } = true ∧ (m.mod fun c => { c with seen := [(1, 5)] }).stale q (rep0 [1]) = true ∧
      (∀ v a, q.loc ≠ .near v a)) ∧
    (let e := setElem (0 : VReg) 15 64 1
     (64 * (15 + 1) ≤ 1024 ∧ look (m.mod fun c => { c with vparts := [(31, (e, 1))] }).me.vparts 31 = some (e, 1))) ∧
    (let x : Ride := ⟨5, 5, 0, false, msg (.reply (rep0 [1]))⟩
     let u := m.modPdie 0 fun p => { p with rides := [x] }
     (u.pdie 0).rides[0]? = some x ∧ (u.pdie 0).sent.find? (fun q => q.req.tag = (rep0 [1]).tag) = some (sent0 (.vload 31 .w256))) ∧
    ((sent0 .none).req.cx = some 0 ∧ m.alive 0 0 = true ∧
      (rep0 []).trap = 0 ∧ (rep0 []).status &&& atrapMask { m with cur := 0 } = 0 ∧ (m.ctx 0).region = .none) ∧
    (∀ x : Ride, x.leaves = false → [x].any (fun y => y.leaves) = false) ∧
    ((rinbox (.ack 0 0 0)).pdie 0).rinbox[0]? = some (msg (.ack 0 0 0)) := by
  refine ⟨by decide +kernel, by decide +kernel, by decide +kernel, by decide +kernel, by decide +kernel, by decide +kernel, ?_, by decide +kernel,
    by decide +kernel, by decide +kernel, fun x h => by simp [h], by decide +kernel⟩
  refine ⟨?_, ?_, ?_, ?_, ?_, ?_, fun v a h => ?_⟩
  all_goals first | decide +kernel | cases h

theorem wit_FrontiersAndFailures :
    let q := sent0 (.sload 63 .i64)
    let far : Sent := { q with req := { q.req with loc := .fabric 2047 0 0 } }
    let s := (atAddr 0).modPdie 0 fun p => { p with sent := [q] }
    let t := (atAddr 0).modPdie 0 fun p => { p with sent := [far] }
    let b : Beacon := ⟨1, [(1, 4)], 4, [], []⟩
    ((s.pdie 0).sent.find? (fun x => x.req.tag = (0 : BitVec 16).toNat) = some q ∧ q.replied = false ∧ q.sends ≠ 0 ∧ (s.fn 0).frozen = false ∧
      (s.fn 0).resetting = false ∧ q.sends < 2) ∧ 2 ≤ ({ q with sends := 2 } : Sent).sends ∧
    ((t.pdie 0).sent.find? (fun x => x.req.tag = (0 : BitVec 16).toNat) = some far ∧ far.req.loc.other = some 2047 ∧ 2047 < 2048 ∧
      far.req.cx = some 0 ∧ t.alive 0 0 = true ∧ (t.ctx 0).region = .none) ∧
    (((atAddr 0).modPdie 0 fun p => { p with cache := [{ entry0_ with fabric := true }] }).pdie 0).cache[0]? = some { entry0_ with fabric := true } ∧
    ((rinbox (.beacon b)).pdie 0).rinbox[0]? = some (msg (.beacon b)) ∧
    (let e := inbox (.exit 0 1 0)
     (e.pdie 0).inbox[0]? = some (msg (.exit 0 1 0)) ∧ (e.pdie 0).pend = [] ∧
     ((e.modPdie 0 fun p => { p with pend := [rq (.rred false 1 1 0 0) .none] }).pdie 0).pend.any (fun r => decide (r.fn = 0)) = true) ∧
    (let f := (atAddr 0).modPdie 0 fun p => { p with sent := [{ far with failed := true }] }
     (f.pdie 0).sent.find? (fun x => x.req.tag = (0 : BitVec 16).toNat) = some { far with failed := true } ∧ far.sends ≠ 0) ∧
    (let a : Sent := { far with replied := true, req := { far.req with op := .write [1] } }
     a.replied = true ∧ a.req.loc.other.isSome = true ∧ a.req.op.writes = true ∧ a.acked = false) := by decide +kernel

/-- Whether a result is the value `x`. -/
def okIs {ε α : Type} [DecidableEq α] (r : Except ε α) (x : α) : Bool := match r with | .ok y => decide (y = x) | .error _ => false
theorem ok_of {ε α : Type} [DecidableEq α] {r : Except ε α} {x : α} (h : okIs r x = true) : r = .ok x := by
  cases r <;> simp_all [okIs]
/-- Whether there is a result. -/
def isOk {ε α : Type} (r : Except ε α) : Bool := match r with | .ok _ => true | .error _ => false
/-- Whether a result is the error `e`. -/
def errIs {α : Type} (r : Except (BitVec 8) α) (e : BitVec 8) : Bool := match r with | .ok _ => false | .error x => decide (x = e)
theorem err_of {α : Type} {r : Except (BitVec 8) α} {e : BitVec 8} (h : errIs r e = true) : r = .error e := by
  cases r <;> simp_all [errIs]

/-- A page at 0x10000 of the PF, cached by core 0, that leads to DRAM offset 0x10000 of virtual die 0. -/
def withPage (s : State) : State := s.modCore 0 fun c => { c with tlb := [⟨0, 0x10000, false, bootLeaf 0⟩] }
/-- A load that waits for its walk. -/
def walk0 (va : Nat) : Walk := ⟨0, 0, va, rq (.read 8) (.sload 1 .i64), false, false, 0, 0⟩

theorem wit_WalksAndLandings :
    let s := withPage ((atAddr 0).modPdie 0 fun p => { p with walks := [walk0 0x10008] })
    let t := (atAddr 0).modPdie 0 fun p => { p with walks := [walk0 0x10008] }
    ((s.pdie 0).walks[0]? = some (walk0 0x10008) ∧ (walk0 0x10008).req.cx = some 0 ∧ s.alive 0 0 = true) ∧
    (s.leafOf 0 0 0x10008 = .ok (bootLeaf 0, false) ∧ s.leafLoc 0 (bootLeaf 0) false 0x10008 .read = .ok (.dram 0 0x10008) ∧
      t.leafOf 0 0 0x10008 = .error 0x03 ∧ s.leafLoc 0 (bootLeaf 0 &&& ~~~ 4) false 0x10008 .read = .error 0x04) ∧
    (let l := (atAddr 0).mod fun c => { c with landings := [(63, ⟨.scalar 63 .i64, 5, some 1, 0, 0, 0⟩)] }
     (l.ctx 0).landings = [(63, ⟨.scalar 63 .i64, 5, some 1, 0, 0, 0⟩)] ∧ (l.ctx 0).landed = [] ∧ (l.ctx 0).regPoison = [] ∧ (l.ctx 0).region = .none) := by
  refine ⟨by decide +kernel, ⟨ok_of (by decide +kernel), ok_of (by decide +kernel), err_of (by decide +kernel), err_of (by decide +kernel)⟩,
    by decide +kernel⟩

/-- A message, and link 0 with it on the wire under a number, or in its buffer. -/
def msg0 : Msg := { dst := 1, body := .ack 0 0 0, born := 0 }
def onLink (f : Link → Link) : State := State.reset.modLink 0 f
/-- A fabric message at the package router, to module 5 after `h` hops. -/
def onFabric (h : Nat) : State :=
  { State.reset with hub := { State.reset.hub with fabQ := [{ msg0 with toMod := some 5, hops := h }], route := [(5, 0x1000000000000000)] } }

theorem wit_LinksAndPorts :
    let s := onLink fun l => { l with wire := [(0, msg0)] }
    let t := onLink fun l => { l with wire := [(3, msg0)], lastFail := [3], naks := [2] }
    ((s.link 0).wire = [(0, msg0)] ∧ (s.link 0).state = 2 ∧ 0 = (s.link 0).rxExp ∧ 0 ∉ (s.link 0).lastFail) ∧
    ((t.link 0).wire = [(3, msg0)] ∧ 3 ≠ (t.link 0).rxExp ∧ 3 ∈ (t.link 0).lastFail ∧ 2 ∈ (t.link 0).naks) ∧
    (let a := onLink fun l => { l with buf := [(0, msg0)], rxExp := 1 }
     (a.link 0).state = 2 ∧ ((a.link 0).rxExp - 1 - 0).toNat < 512 ∧ (0, msg0) ∈ (a.link 0).buf) ∧
    ((onLink fun l => { l with state := 1 }).link 0).state = 1 ∧ bonded 0 = true ∧
    ((onFabric 3).hub.fabQ[0]? = some { msg0 with toMod := some 5, hops := 3 } ∧
      candidates (rd 0 (onFabric 3).hub.route 5) (onFabric 3).hub.portsDown 3 ≠ [] ∧
      candidates (rd 0 (onFabric 4).hub.route 5) (onFabric 4).hub.portsDown 4 = []) ∧
    (let far : Req := { rq (.write [7]) .none with srcMod := 1 }
     let m := msg (.req far)
     isFabricCopy (inbox (.req far)) m = true ∧ ((inbox (.req far)).pdie 0).inbox[0]? = some m) := by decide +kernel

/-- The words `ws` in LOCAL of core 0 at 0x100, with every register at that address. -/
def record (ws : List Word) : State := { atAddr la with mem := Memory.store [] (keyScratch 0 0x100) (bytesOfWords ws) }
/-- A launch of 4 tasks on core 0 of virtual die 0, and the same with an indirect count at DEVICE 0x800. -/
def lws : List Word := [0x10000, 0x55, 0x0000000100000004, 0x0000000100000001, 0x0000010000000101, 0, 0, 0, 0, 0, 0, 0, 0, 0, 0, 0]
def iws : List Word := lws.set 6 0x0001000000000800
/-- Its node, with a walker. -/
def node0 (k : NodeKind) (ws : List Word) : Node := { id := 1, fn := 0, kind := k, words := ws, held := false, preds := [], count := 4 }
def walker0 : Walker := { lnch := 1, fn := 0, vcore := 0, ordinal := 0, next := 0, end_ := 4, qnext := 0, qend := 0, splits := 0 }
/-- Virtual die 0 holds nodes and walkers. -/
def nodes (ns : List Node) (ws : List Walker) (s : State) : State := s.modVdie 0 fun d => { d with nodes := ns, walkers := ws, nodeSeq := 1 }

/-- `s` once the executing context has read the storage `ks`. -/
def readAt (ks : List Nat) (s : State) : State := mergeClock s.myVdie (s.stampKeys ks) (s.touchKeys (some s.cur) ks false)

theorem keys_found (s : State) (ks : List Nat) (a : Word) (rel al n : Nat) (h : (decide (a.toNat % al = 0) &&
    decide (window a = some (.local_, rel)) && s.quiet && !fenceSets s a && s.linkedTo (s.cur / 64) s.myFn s.myVdie (s.cur / 4) a .read n &&
    okIs (s.agentKeys s.myFn s.myVdie (s.cur / 4) a .read n) ks) = true) :
    recordKeys s a al n ks := by
  simp only [Bool.and_eq_true, decide_eq_true_eq, Bool.not_eq_true'] at h
  obtain ⟨⟨⟨⟨⟨h1, h2⟩, h3⟩, hf⟩, hl⟩, h4⟩ := h
  exact ⟨h1, ⟨.local_, rel, h2, .inl rfl⟩, h3, hf, hl, ok_of h4⟩

theorem record_found (s : State) (ks : List Nat) (a : Word) (rel al n : Nat) (ws : List Word) (h : (decide (a.toNat % al = 0) &&
    decide (window a = some (.local_, rel)) && s.quiet && !fenceSets s a && s.linkedTo (s.cur / 64) s.myFn s.myVdie (s.cur / 4) a .read n &&
    okIs (s.agentKeys s.myFn s.myVdie (s.cur / 4) a .read n) ks) = true)
    (b : (ks.all (fun k => decide (s.barred k 1 = false ∧ s.poisoned k 1 = false)) && decide (ws = wordsOf (n / 8) (ks.map s.byte))) = true) :
    recordAt s a al n ws (readAt ks s) := by
  have k := keys_found s ks a rel al n h
  simp only [Bool.and_eq_true, decide_eq_true_eq, List.all_eq_true] at h b
  exact ⟨ks, k, b.1, .inr ⟨rel, h.1.1.1.1.2⟩, b.2, rfl⟩

/-- The storage of `n` bytes of LOCAL of core 0 from 0x100 on. -/
def recKeys (n : Nat) : List Nat := span (keyScratch 0 0x100) n

theorem wit_launch_record : recordAt (record lws) (rA (record lws) 1) 64 128 lws (readAt (recKeys 128) (record lws)) :=
  record_found _ _ _ 0x100 _ _ _ (by decide +kernel) (by decide +kernel)
/-- A record in a bank that another context of the core holds. -/
theorem wit_held_record : let s := (record lws).setCtx 1 { hold := some ⟨BitVec.allOnes 64, 5, 127⟩ }
    recordKeys s (rA s 1) 64 128 (recKeys 128) ∧ ∃ k ∈ recKeys 128, s.barred k 1 = true :=
  ⟨keys_found _ _ _ 0x100 _ _ (by decide +kernel), keyScratch 0 0x100, by decide +kernel, by decide +kernel⟩

theorem wit_LaunchesAndWalkers :
    let s := record lws
    let full := nodes (List.replicate 64 (node0 .launch lws)) [] s
    (s.inElided = false ∧ 64 ≤ ((full.vdie full.myVdie).nodes.filter fun n => n.fn = full.myFn).length ∧
      ((s.vdie s.myVdie).nodes.filter fun n => n.fn = s.myFn).length < 64) ∧
    launchOk s 0 true (lws.set 0 1) = false ∧ (launchOk s 0 true lws = true ∧ lIcnt lws = 0 ∧ lCount lws ≠ 0) ∧
    (launchOk s 0 true (lws.set 2 4) = true ∧ lCount (lws.set 2 4) = 0) ∧
    (launchOk s 0 true iws = true ∧ lIcnt iws ≠ 0 ∧ okIs ((s.modCore 0 fun k => { k with tlb := [⟨0, 0, true, 0x1D⟩] }).agentRead 0 0 0 (BitVec.ofNat 64 (lIcnt iws)) 4) [0, 0, 0, 0] = true ∧
      lCount (withCount iws 0) ≤ 2 ^ 32 - 1 ∧ ((s.vcorePhys 0 0 0).getD 0) = 0 ∧ idDie (BitVec.ofNat 32 (0 * 2 ^ 29 + seqNext 0)) = 0) ∧
    (let v := nodes [node0 .launch lws] [walker0, { walker0 with ordinal := 1 }] (asTask { tk with lnch := 1 } s)
     let n := node0 .launch lws
     v.node 0 1 = some n ∧ startable v 0 n = true ∧ startable v 0 { n with held := true } = false ∧
     walkersUsed (v.vdie 0) + (cutRanges 0 n.fn n).length ≤ 32 ∧ retirable v 1 = false ∧
     (let done := { n with started := true, done := true }
      retirable (nodes [done] [] s) 1 = true ∧ (nodes [done] [] s).knows 0 (nodeClk (nodes [done] [] s) 1) = true ∧
      (nodes [{ done with clk := [(1, 5)] }] [] s).knows 0 (nodeClk (nodes [{ done with clk := [(1, 5)] }] [] s) 1) = false) ∧
     0 < lGran n.words ∧ placed n.words ≠ [] ∧
     walker0.away = false ∧ walker0.qend ≤ walker0.qnext ∧ (v.vdie 0).walkers.find? (fun w => w.lnch = (1 : BitVec 32) ∧ w.vcore = tk.vcore) = some walker0 ∧
     victim (v.vdie 0).walkers n.id 0 (lGran n.words) = some { walker0 with ordinal := 1 } ∧ lFlag n.words 24 = false ∧
     splitFor 0 n 0 (nodes [n] [walker0] s) = none) ∧
    (let w := nodes [{ node0 .launch lws with started := true }] [walker0] State.reset
     (w.ctx 0).mode = .free ∧ walkersOf w 0 0 = [({ node0 .launch lws with started := true }, walker0)] ∧ w.virt 0 = 0 ∧
     firstWork w 0 = some walker0.ordinal ∧ walker0.handed ≠ some (w.pdie 0).cycle ∧ walker0.away = false ∧ walker0.again = [] ∧
     ({ walker0 with handed := some 0 } : Walker).handed = some (w.pdie 0).cycle ∧ mayIssue w (node0 .launch lws) = true ∧ walker0.next < walker0.end_ ∧ coreFits w 0 lws = true ∧ lFmtimg lws = 0) := by decide +kernel

theorem wit_TaskGraph :
    let s := nodes [{ node0 .launch lws with id := 2, held := true }] [] (scal [(1, 2), (2, 1)])
    let q : Queue := { banks := [(0, .job .cpy, 8 :: List.replicate 15 0, none)] }
    let t := (scal []).modFn 0 fun f => { f with queues := [(63, q)] }
    let n2 := { node0 .launch lws with id := 2, held := true }
    (s.node s.myVdie 2 = some { node0 .launch lws with id := 2, held := true } ∧ rS s 1 = ((rS s 1).setWidth 32).setWidth 64 ∧ rS s 0 = 0 ∧
      rS s 2 ≠ 0 ∧ idDie 1 = s.myVdie ∧ seqBelow (idSeq 1) (idSeq 2) = true) ∧
    (let away : BitVec 32 := 0x20000001
     let g (c : Clock) : State := (scal [(1, 0x20000001)]).modVdie 1 fun v => { v with nodeSeq := 1, clock := c }
     rS (g []) 1 = away.setWidth 64 ∧ (∀ x < 8, (g []).node x away = none) ∧ ((g []).fn 0).queues = [] ∧ idDie away ≠ (g []).myVdie ∧
     (g []).wasGiven away = true ∧ s.wasGiven 7 = false ∧ (g []).me.syncClk = none ∧ (g []).covers 0 ((g []).vdie 1).clock = true ∧
     (g [(1, 5)]).covers 0 ((g [(1, 5)]).vdie 1).clock = false ∧ rS (scal [(1, -1)]) 1 ≠ ((rS (scal [(1, -1)]) 1).setWidth 32).setWidth 64) ∧
    (∀ x < 8, s.node x 7 = none) ∧ n2.fn = s.myFn ∧ n2.edges < 16 ∧ (∀ y ∈ (s.fn s.myFn).queues, ∀ b ∈ y.2.banks, b.2.2.2 ≠ some 7) ∧
    (bankHead (rd {} (t.fn 0).queues 63) 0 = some (.job .cpy, 8 :: List.replicate 15 0, none) ∧
      (∀ m ∈ (t.vdie 0).nodes, ¬ (m.fn = 0 ∧ m.queue = some (2 * 63 + 0))) ∧ t.settled 0 = true ∧
      jobEmpty (.job .cpy) (8 :: List.replicate 15 0) = false) ∧ bankHead {} 0 = none := by decide +kernel

/-- A closed question about each member of a list, by the one test of the list. -/
theorem forall_of_all {α : Type} {p : α → Prop} [DecidablePred p] {l : List α} (h : l.all (fun x => decide (p x)) = true) :
    ∀ x ∈ l, p x := fun x hx => of_decide_eq_true (List.all_eq_true.mp h x hx)

theorem wit_BanksAndTokens :
    let s := (asTask { tk with lnch := 2 } (atAddr 0)).modCore 0 fun k => { k with claims := [(1, 1, 0), (2, 3, 0)] }
    (s.inElided = false ∧ s.me.task = some { tk with lnch := 2 } ∧ s.readsOpen = false ∧ (behind s).readsOpen = true) ∧
    (s.core 0).claims.find? (fun c => c.1 = (2 : BitVec 32)) = some (2, 3, 0) ∧
    (∃ c ∈ (s.core 0).claims.takeWhile (fun c => c.1 ≠ (2 : BitVec 32)), (1 : BitVec 64) &&& 3 &&& ~~~ 0 &&& c.2.1 &&& ~~~ c.2.2 ≠ 0) ∧
    (∀ c ∈ (s.core 0).claims.takeWhile (fun c => c.1 ≠ (2 : BitVec 32)), (2 : BitVec 64) &&& 3 &&& ~~~ 0 &&& c.2.1 &&& ~~~ c.2.2 = 0) ∧
    (∀ c ∈ ((atAddr 0).core 0).claims, c.1 ≠ (2 : BitVec 32)) ∧ firstRequest 7 s = none ∧
    (let r := s.modCore 127 fun k => { k with tokenReq := some 5 }
     (r.pdie 7).tokenHeld = false ∧ firstRequest 7 r = some 127 ∧ (r.core 127).cols = 0 ∧ (r.core 127).tokens = 0) ∧
    ((s.modCore 127 fun k => { k with cols := 16 }).core 127).cols ≠ 0 := by
  exact ⟨by decide +kernel, by decide +kernel, ⟨(1, 1, 0), by decide +kernel, by decide +kernel⟩,
    forall_of_all (by decide +kernel), forall_of_all (by decide +kernel), by decide +kernel, by decide +kernel, by decide +kernel⟩

/-- A copy of 8 bytes from LOCAL 0x100 to LOCAL 0x200, and a gather of one 4-byte element by the indices at LOCAL 0x300. -/
def cws : List Word := [8, la, la + 0x100, 0, 0, 0, 0, 0, 0, 0, 0, 0, 0, 0, 0, 0]
def gws : List Word := [1, la, la + 0x100, la + 0x200, 2, 0, 0, 0, 0, 0, 0, 0, 0, 0, 0, 0]

theorem wit_copy_card : recordAt (record cws) (rA (record cws) 1) 64 128 cws (readAt (recKeys 128) (record cws)) :=
  record_found _ _ _ 0x100 _ _ _ (by decide +kernel) (by decide +kernel)

theorem wit_Jobs :
    let s := record cws
    let n := { node0 (.job .cpy) cws with started := true, cx := some 0 }
    let bad := { n with words := cws.set 2 nowhere }
    let v := nodes [n] [] s
    s.quiet = true ∧ cardOk .cpy cws = true ∧ jobEmpty (.job .cpy) cws = false ∧ cardOk .cpy (cws.set 4 1) = false ∧ cardOk .gath gws = true ∧
    (rS (nodes [n] [] (scal [(1, 1)])) 1 = ((rS (scal [(1, 1)]) 1).setWidth 32).setWidth 64 ∧ v.node 0 1 = some n ∧ n.stopped = false) ∧
    (∀ w < 8, ∀ m ∈ (s.vdie w).nodes, m.fn ≠ 0) ∧ ((s.core 0).drainQ = [] ∧ (s.fn 0).trees = [] ∧ (s.core 0).cls = []) ∧
    (let e : DrainEntry := ⟨0, 0, 0, 0, 0, [], 0, 0, 0, 0, 0⟩
     let d := s.modCore 0 fun k => { k with drainQ := [e], drainNo := 1 }
     e ∈ (d.core 0).drainQ ∧ e.no < (d.core 0).drainNo) ∧
    (idDie 1 = s.myVdie ∧ s.covers s.myVdie (s.vdie 1).clock = true ∧ idDie 0x20000001 ≠ s.myVdie ∧ s.me.syncClk = none ∧
      (s.modVdie 1 fun v => { v with nodeSeq := 1 }).wasGiven 0x20000001 = true ∧
      (s.modVdie 1 fun v => { v with clock := [(1, 5)] }).covers s.myVdie [(1, 5)] = false) ∧
    jobReady v n = true ∧ jobReady v { n with started := false } = false ∧ isOk (nodeMove 0 n v) = true ∧
    (match nodeMove 0 { bad with data := [[1]] } v with | .error x => x.1 | .ok _ => 0) = 0x06 ∧ v.alive 0 n.serial = true ∧
    (v.subCore n = some 0 ∧ n.vcore / 16 = 0 ∧ v.poison = [] ∧ (∀ c ∈ v.ctxs, c.2.hold = none) ∧ n.posted < jobLen .cpy n.words ∧ n.data = [] ∧
      window (n.words.getD 1 0) = some (.local_, 0x100) ∧ 0x100 + 8 ≤ 2 ^ 23 ∧ (copyBlock (n.words.getD 2 0).toNat 8 0).2 ≤ 8 ∧
      n.words.getD 5 0 = 0 ∧ 0 < (copyBlock (n.words.getD 2 0).toNat 8 0).2) ∧
    (let z := { n with posted := 1 }
     jobLen .cpy z.words ≤ z.posted ∧ writesApplied v z.id = true ∧ z.words.getD 6 0 = 0) ∧
    (let far := { n with words := cws.set 2 sh1, data := [[1]] }
     okIs (v.agentLoc far.fn 0 0 (far.words.getD 2 0 + BitVec.ofNat 64 0) .write) (.shared 1 0x100) = true ∧ isOk (v.agentKeys far.fn 0 0 sh1 .write 1) = true) ∧
    (2 ^ (gws.getD 4 0).toNat ≤ 128 ∧ window (gws.getD 3 0) = some (.local_, 0x300) ∧ 0x300 % 4 = 0 ∧ 0 < jobLen .gath gws) := by decide +kernel

/-- An ACTIVE reduction tree of two cores of virtual die 0, index 0, generation 1. -/
def tree0 : Tree :=
  { valid := true, kind := 1, fmt := 0, op := 0, segLog2 := 8, gen := 1, members := [⟨0, 0, 0, 0⟩, ⟨1, 0, 0, 1⟩] }
/-- The PF holds the tree, and every register its handle. -/
def trees (t : Tree) : State := (atAddr ((handleOf 0 t).setWidth 64)).modFn 0 fun f => { f with trees := [(0, t)] }
/-- A posted segment of core `code`. -/
def seg0 (code : Nat) : SegEv := { code := code, seg := 0, res := some 0x200, srcfree := true, localdone := false, cx := some 0 }
/-- The address registers at `x`. -/
def aAt (x : Word) (s : State) : State := s.mod fun c => { c with iss := { c.iss with view := { c.iss.view with a := [(1, x), (2, x)] } } }

theorem wit_TreeForms :
    let s := trees tree0
    let p := { tree0 with posts := [(0, 1)], segs := [seg0 0] }
    let m := aAt la (trees tree0)
    (s.inElided = false ∧ treeOf s 0 (rS s 1) = some (0, tree0)) ∧ treeOf s 0 0 = none ∧ s.myPriv = true ∧
    (asTask { tk with priv := false } s).myPriv = false ∧
    (treeOk s 0 [0x4040000200000000, la, 0, 0] [0x0, 0x0000010000000800] = true ∧ freeTree (s.fn 0) 16384 0 = some 1 ∧
      treeOk s 0 [0, la, 0, 0] [] = false) ∧ ({ tree0 with state := 1 } : Tree).state ≠ 0 ∧ tree0.segs = [] ∧
    (s.me.waitKey = none ∧ tree0.ask = none ∧ otherMods s tree0 = [] ∧
      otherMods s { tree0 with members := [⟨0, 0, 0, 0⟩, ⟨1, 9, 0, 1⟩] } ≠ []) ∧
    (let q : TreeAsk := { owed := [] }
     let w := (trees { tree0 with ask := some q }).mod fun c => { c with waitKey := some 0 }
     (w.tree 0 0).ask = some q ∧ q.owed = [] ∧ w.me.waitKey ≠ none ∧ ({ q with owed := [9] } : TreeAsk).owed ≠ []) ∧
    (s.covers s.myVdie tree0.doneClk = true ∧ s.covers s.myVdie [(1, 5)] = false) ∧ tree0.edits.length < 8 ∧
    8 ≤ (List.replicate 8 (⟨0, 0, 0⟩ : Edit)).length ∧ (p.segs = [seg0 0] ∧ (seg0 0).cx = some 0 ∧ (trees p).alive 0 (seg0 0).serial = true) ∧ nextSeg tree0 0 ≤ tree0.seq ∧
    (p.seq < nextSeg p 0 ∧ p.segs.find? (fun e => e.code = 0 ∧ e.seg = nextSeg p 0 - 1) = some (seg0 0)) ∧
    (editOk tree0 0x4000000000000000 0x0000010000000800 = true ∧ editOk tree0 0xC000000000000000 0 = false) ∧
    (window (rA m 1) = some (.local_, 0x100) ∧ (rA m 1).toNat % 256 = 0 ∧ 0x100 + 2 * segSize tree0 ≤ 2 ^ 23 ∧
      (membersAt tree0 (nextSeg tree0 0)).any (fun x => x.code = myCode m) = true ∧ postsFull tree0 0 = false ∧ m.quiet = true ∧
      m.vcorePhys 0 m.myVdie m.myCore = some 0 ∧ m.poisoned (keyScratch 0 0x100) (segSize tree0) = false) := by decide +kernel

theorem wit_tree_edit : let ws : List Word := [0x4000000000000000, 0x0000010000000800]
    recordAt (record ws) (rA (record ws) 1) 8 16 ws (readAt (recKeys 16) (record ws)) :=
  record_found _ _ _ 0x100 _ _ _ (by decide +kernel) (by decide +kernel)
/-- A tree descriptor with its member array behind it. -/
def tws : List Word := [0x4040000200000000, la + 0x40, 0, 0, 0, 0, 0, 0, 0x0, 0x0000010000000800]
theorem wit_tree_descriptor : let s := record tws
    let u := readAt (recKeys 32) s
    recordAt s (rA s 1) 8 32 (tws.take 4) u ∧ recordAt u (la + 0x40) 8 16 (tws.drop 8) (readAt (span (keyScratch 0 0x140) 16) u) :=
  ⟨record_found _ _ _ 0x100 _ _ _ (by decide +kernel) (by decide +kernel),
    record_found _ _ _ 0x140 _ _ _ (by decide +kernel) (by decide +kernel)⟩

theorem wit_TreeTransport :
    let up := flitTo ⟨1, 0, 0, 0⟩ 0 (some 0) [1, 2, 3, 4]
    let down := flitTo ⟨1, 0, 0, 0⟩ 0 none [1, 2, 3, 4]
    let t := { tree0 with flits := [up], slots := [up.rtr.code] }
    let r := { tree0 with flits := [down], slots := [down.rtr.code], segs := [seg0 0] }
    let e : DrainEntry := ⟨0, 1, 0, 0, handleOf 0 tree0, [1], 0, 0, 0, 0, 0⟩
    let q := (trees tree0).modCore 0 fun k => { k with drainQ := [e] }
    let frozen := { tree0 with state := 1 }
    ((trees t).tree 0 0 = t ∧ t.flits[0]? = some up ∧ t.valid = true ∧ t.state = 0 ∧ up.level ≠ 0 ∧ t.slots.contains up.rtr.code = true ∧
      ({ t with slots := [] } : Tree).slots.contains up.rtr.code = false) ∧
    (down.child = none ∧ down.level = 1 ∧ down.vdie < 8 ∧ down.core < 16 ∧ r.kind ≠ 2 ∧
      r.segs.find? (fun e => e.code = mcode down.modid down.vdie down.core ∧ e.seg = down.seg) = some (seg0 0) ∧
      (trees r).vcorePhys 0 down.vdie down.core = some 0) ∧
    ((slotsAt (trees tree0) 0 up.rtr).length < slotCap up.level ∧ up.rtr.code ∉ tree0.spilled) ∧
    (let few : Tree := { tree0 with slots := List.replicate (slotCap up.level) up.rtr.code, nodes := [] }
     slotCap up.level ≤ (slotsAt (trees few) 0 up.rtr).length) ∧
    ((trees r).covers down.vdie down.clk = true ∧ (trees r).covers down.vdie [(1, 5)] = false ∧ (∀ j ∈ (trees r).ctxs, j.2.hold = none)) ∧
    (let f := trees frozen
     frozen.state = 1 ∧ frozen.spilled = [] ∧ frozen.ask = none ∧ otherMods f frozen = [] ∧ f.mayStore f.myVdie = true) ∧
    ((q.core 0).drainQ = [e] ∧ treeOf q e.fn (e.handle.setWidth 64) = some (0, tree0) ∧ e.data.length ≤ segSize tree0 ∧
      (membersAt tree0 (nextSeg tree0 1)).any (fun m => m.code = mcode 0 (e.vcore / 16) (e.vcore % 16)) = true ∧
      receives tree0 1 (nextSeg tree0 1) = false ∧ postsFull tree0 1 = false ∧ (q.fn 0).halted = false ∧ e.vcore < 128) ∧
    treeOf State.reset 0 (e.handle.setWidth 64) = none ∧
    (treeOf (trees frozen) 0 (rS (trees frozen) 1) = some (0, frozen) ∧ frozen.held = [] ∧ frozen.nodes = [] ∧ frozen.flits = []) ∧
    ((0x11000 : Word).toNat % 4096 = 0 ∧ (0x11000 : Word).toNat < 2 ^ 48 ∧ (0x11001 : Word).toNat % 4096 ≠ 0) := by decide +kernel

/-- A nest record of one level with one peer, chunks of 64 bytes from LOCAL 0x1000, and its group. -/
def nws : List Word := [la + 0xF00, la + 0x700, 0x0002000000000040, 0x2000, 64, 0, 0, 1, 0x0000000100000001, 0x0000004000000040, 0, 0, 0, 0, 0, 0]
def nes : List Word := [0, 0x0000010000000800]
def cl0 : ClState :=
  { earlyNest 0 1 with rcd := nws, group := nes, accepted := true }
/-- Core 0 knows it. -/
def nests (c : ClState) : State := (scal [(1, 1)]).modCore 0 fun k => { k with cls := [c], clCtr := [(0, 1)] }

theorem wit_LoopNests :
    let s := nests cl0
    let x : Chunk := ⟨0, 1, 0, 0, 0, 0x2000, [7], 0, 0, 0, [], 0⟩
    (s.inElided = false ∧ nestOk nws = true ∧ nestOk (nws.set 7 0) = false ∧ groupOk nws nes = true ∧ groupOk nws [0, 0] = false) ∧
    (nes.any (fun w => decide ((memberOf w).code = myCode s)) = true ∧ (memberOf 0x0000010000000800).code ≠ myCode s ∧
      (s.core 0).nest 0 2 = none ∧ 0 < nExpin nws) ∧
    (rS s 1 = (1 : BitVec 32).setWidth 64 ∧ remembered (s.core 0) 0 1 = some cl0 ∧ (s.core 0).nest 0 1 = some cl0 ∧ 0 ∈ ranksOf cl0 ∧
      s.rankCore 0 0 = some 0 ∧ (∀ j ∈ s.ctxs, j.2.hold = none) ∧ remembered (s.core 0) 0 9 = none) ∧
    (let t := s.modCore 0 fun k => { k with chunks := [x] }
     (t.core 0).chunks[0]? = some x ∧ (t.core 0).nest x.fn x.n = some cl0 ∧ cl0.cancelled = false ∧ cl0.attempt = x.attempt ∧
     cl0.received + x.data.length < nExpin cl0.rcd) ∧ ({ cl0 with attempt := 1 } : ClState).attempt ≠ x.attempt ∧
    ([NestCmd.rerun, .resume, .cancel].all fun m => decide (((s.modCore 0 fun k => { k with nestIn := [(0, 1, 0, 0, m)] }).core 0).nestIn = [(0, 1, 0, 0, m)])) = true ∧
    cl0.received < nExpin cl0.rcd ∧ ((∀ l < 1, 0 < nBound nws l) ∧ 0 < (List.range 1).foldl (fun p l => p * nBound nws l) 1) := by
  decide +kernel

theorem wit_nest_record : let s := record nws
    let u := readAt (recKeys 128) s
    recordAt s (rA s 1) 64 128 nws u ∧ recordAt u (nws.getD 1 0) 8 16 [0, 0] (readAt (span (keyScratch 0 0x800) 16) u) :=
  ⟨record_found _ _ _ 0x100 _ _ _ (by decide +kernel) (by decide +kernel),
    record_found _ _ _ 0x800 _ _ _ (by decide +kernel) (by decide +kernel)⟩

/-- A method that returns s1, at 0x10000; a live object with it, of 64 bytes, index 0, generation 1; its handle in every register. -/
def retBundle : BitVec 128 :=
  let w : BitVec 128 := match encode (.roret 1) with | some x => x.1.setWidth 128 | none => 0
  if (decodeBundle w).legal then w else w <<< 96
def obj0 : Obj := { live := true, gen := 1, home := 0, logLog2 := 8, ssize := 64, meths := [0x10001, 0x8000000000010001] }
def objs (o : Obj) : State :=
  let s : State := { atAddr ((objHandle 0 o).setWidth 64) with mem := Memory.store [] (keyDram 0 0x10000) (toBytes 16 retBundle.toNat) }
  (s.modFn 0 fun f => { f with objs := [(0, o)] }).modCore 8192 fun c => { c with tlb := [⟨0, 0x10000, false, bootLeaf 0⟩] }
/-- A call of method 1 at its home, and an RORD that waits. -/
def callReq : Req := newReq (.object 0 0 0) (.rocall (objHandle 0 obj0) 1 [9, 0, 0, 0] false) (.call 1) 0 false (objs obj0)
def read0 : RoRead := ⟨0, 0, 0, objHandle 0 obj0, 1, [9, 0, 0, 0], [], 63, 0, 0⟩
def call0 : Call := ⟨0, [9, 0, 0, 0], 0, 1, [], none, 0, 0, 0, false⟩

theorem wit_Objects :
    let s := objs obj0
    let logged := { obj0 with log := [call0] }
    let w := (objs { obj0 with results := [(3, (7, []))] }).mod fun c => { c with waitKey := some (2 ^ 64 + 3) }
    (s.readsOpen = false ∧ (behind s).readsOpen = true) ∧
    (rd 0 ({ obj0 with applied := [(0, 1), (1, 3)] } : Obj).applied 0 = 1 ∧ 1 < rd 0 ({ obj0 with applied := [(0, 1), (1, 3)] } : Obj).applied 1) ∧
    (s.inElided = false ∧ objOf s 0 (rS s 1) = some (0, obj0) ∧ objOf s 0 0 = none ∧ callOk obj0 1 = true ∧ callOk obj0 2 = false ∧
      s.me.waitKey = none ∧ (obj0.method 1).any mRo = true) ∧
    (w.me.waitKey = some (2 ^ 64 + 3) ∧ look (w.obj 0 0).results 3 = some (7, []) ∧ w.covers w.myVdie [] = true) ∧
    (let h := s.modPdie 0 fun p => { p with pend := [callReq] }
     (h.pdie 0).pend[0]? = some callReq ∧ h.mayApply callReq = true ∧ (trimHome 0 h).obj 0 0 = obj0 ∧ obj0.log.length < 2 ^ obj0.logLog2) ∧
    (let t := objs logged
     (t.obj 0 0).live = true ∧ (t.obj 0 0).poison = none ∧ (t.obj 0 0).log[0 - 0]? = some call0 ∧
     nextObj t 0 = some (0 * 1024 + 0) ∧ nextObj t 0 ≠ some (0 * 1024 + 1) ∧
     okIs (runRepaired (t.modVdie 0 fun v => { v with engObj := 1 }) 0 0 logged 0x10001 call0.args 0).2 (9, []) = true ∧
     (match (runRepaired State.reset 0 0 logged 0x10001 call0.args 0).2 with | .error x => x | .ok _ => 0) = 6) ∧
    (let r := s.modVdie 0 fun v => { v with roReads := [read0] }
     (r.vdie 0).roReads = [read0] ∧ readReady r 0 read0 = true ∧ r.alive 0 0 = true ∧ obj0.method 1 = some 0x8000000000010001 ∧ read0.dest < 64) ∧
    s.myPriv = true ∧ obj0.home < 8 ∧
    (let ws : List Word := [la + 0x100, 0x0008000000000040, la + 0x200, 0]
     objOk ws = true ∧ objOk (ws.set 1 0) = false ∧ oRepair ws = false ∧ obj0.meths.all methOk = true ∧ ([0x2, 0x10001] : List Word).all methOk = false ∧
     freeIdx (s.fn 0) 1024 0 = some 1) := by decide +kernel

/-- Core `c` caches the first 128 MiB of the PF, on the DRAM of virtual die 0. -/
def withBlock (c : Nat) (s : State) : State := s.modCore c fun k => { k with tlb := [⟨0, 0, true, 0x1D⟩] }
/-- DRAM of tower 0 holds `bs` at 0x1000, and the hub and core 0 reach it. -/
def inDram (bs : List Byte) (s : State) : State :=
  { withBlock 128 (withBlock 0 s) with mem := Memory.store [] (keyDram 0 0x1000) bs }

theorem window_device (j : Nat) (h : j < 2 ^ 27) : window (BitVec.ofNat 64 j) = some (.device, j) := by
  have e : (BitVec.ofNat 64 j).toNat = j := by rw [BitVec.toNat_ofNat, Nat.mod_eq_of_lt (by omega)]
  have : inWindow .device j = true := by simp [inWindow, winBase, winSize]; omega
  unfold window
  rw [e]
  simp [this, winBase]

theorem block_key (s : State) (v c j : Nat) (acc : Acc) (h : j < 2 ^ 27) (ht : (s.core c).tlb = [⟨0, 0, true, 0x1D⟩])
    (hg : ∀ o < 2 ^ 27, s.grantDram 0 0 o = true) :
    s.agentKey 0 v c (BitVec.ofNat 64 j) acc = .ok (s.locKey (.dram 0 j)) := by
  have hm : j % 134217728 = j := Nat.mod_eq_of_lt h
  have hl : s.leafLoc 0 (29#64) true j acc = .ok (.dram 0 j) := by
    have : leafForbids 29#64 acc = false := by cases acc <;> rfl
    have hd : devSplit j = some (0, j) := by
      unfold devSplit; rw [if_pos (by omega), Nat.div_eq_of_lt (by omega), Nat.mod_eq_of_lt (by omega)]
    unfold State.leafLoc
    simp [hm, hd, this, hg j h]
  have hf : tlbFind 0 j (s.core c).tlb = some (29#64, true) := by
    rw [ht]; simp [tlbFind]; omega
  unfold State.agentKey State.agentLoc
  rw [window_device j h]
  simp only [State.xlat, State.leafOf, State.leafFrom, hf, bind, Except.bind, hl]
  rfl

/-- Every range of a cached block resolves to consecutive bytes of its DRAM. -/
theorem block_keys (s : State) (v c : Nat) (acc : Acc) (ht : (s.core c).tlb = [⟨0, 0, true, 0x1D⟩])
    (hg : ∀ o < 2 ^ 27, s.grantDram 0 0 o = true) : ∀ n j, j + n ≤ 2 ^ 27 →
    s.agentKeys 0 v c (BitVec.ofNat 64 j) acc n = .ok ((List.range n).map fun i => s.locKey (.dram 0 (j + i))) := by
  intro n
  induction n with
  | zero => intro j _; rfl
  | succ n ih =>
    intro j h
    have e : (BitVec.ofNat 64 j + 1 : Word) = BitVec.ofNat 64 (j + 1) := by
      simp [BitVec.ofNat_add]
    simp only [State.agentKeys, block_key s v c j acc (by omega) ht hg, e, ih (j + 1) (by omega), bind, Except.bind]
    rw [List.range_succ_eq_map]
    simp [Function.comp_def, Nat.add_assoc, Nat.add_comm 1]

theorem grant_all (s : State) (h : s.prngOf 0 0 = prngAll) : ∀ o < 2 ^ 27, s.grantDram 0 0 o = true := by
  intro o ho
  unfold State.grantDram
  rw [h, Nat.div_eq_of_lt ho]
  decide

theorem wit_TakingATrap :
    let s := scal []
    let h := s.mod fun c => { c with mode := .halted, trapCode := 9 }
    (s.ctx 0).task = some tk ∧ (s.ctx 0).mode ≠ .halted ∧ (h.ctx 0).mode = .halted ∧ (s.fn tk.fn).recs.length < 1024 ∧
    (s.fn tk.fn).frozen = false ∧ tk.vdie < 8 ∧ tk.vcore < 16 := by decide +kernel

theorem wit_SystemForms :
    let s := scal [(1, 63), (2, 64)]
    (1 : BitVec 14) ≠ 0 ∧ ((rS s 1).toNat % 256 < 64 ∧ 64 ≤ (rS s 2).toNat % 256) ∧ s.myPriv = true ∧
    (∀ x < 8, ∀ w ∈ (s.pdie x).walks, w.fn ≠ s.myFn) ∧
    (∃ w ∈ ((s.modPdie 0 fun p => { p with walks := [walk0 0x10008] }).pdie 0).walks, w.fn = s.myFn ∧ w.at_ ≤ s.cycleG) ∧ (asTask { tk with priv := false } s).myPriv = false ∧
    s.inElided = false := by decide +kernel

theorem wit_HaltsEnd :
    let s := scal []
    let h := s.modFn 0 fun f => { f with halted := true, haltDies := [7] }
    let g := s.modFn 0 fun f => { f with halted := true }
    let bs : List Byte := [0]
    let t := s.mod fun c => { c with staged := some (0x1000, bs) }
    (s.fn 0).halted = false ∧ ((h.fn 0).halted = true ∧ 7 ∈ (h.fn 0).haltDies) ∧ s.myPriv = true ∧ s.me.staged = none ∧
    ((g.fn g.myFn).halted = true ∧ (g.fn g.myFn).haltDies = [] ∧ (g.fn g.myFn).trees = []) ∧
    (t.me.staged = some (0x1000, bs) ∧ (t.fn t.myFn).halted = false ∧ walkerRoom t bs = true ∧ t.me.preempt = none) := by decide +kernel

theorem wit_SaveAreas : ∃ c : Ctx, c.mat.depth ≤ 4 ∧ (∀ r, c.mat.bBind = some r → r < 32) ∧
    (∀ l b, c.mat.bind = some (l, b) → l < 4 ∧ b < 16) ∧ c.aborts ≤ 4 ∧ c.slackLeft < 2 ^ 14 ∧ [0, 0, 0, 0].length = 4 :=
  ⟨{ mat := { depth := 4, bBind := some 31, bind := some (3, 15) }, aborts := 4, slackLeft := 16383 }, by decide,
    fun r h => by simp_all; omega, fun l b h => by simp_all; omega, by decide, by decide, rfl⟩

/-- A task without tiles and rows, pre-empted into DRAM at 0x1000. -/
def small : Task := { tk with zacc := 0, mwin := 0 }
def pre0 (p : Preempt) : State := inDram [] ((asTask small (aAt 0x1000 (scal [(1, 0x1000)]))).mod fun c =>
  { c with preempt := some p, iss := { c.iss with boundary := true } })
def req0 : Preempt := ⟨0x1000, 5, 0, none, false⟩

theorem block_keys_of (s : State) (v : Nat) (acc : Acc) (n : Nat) (ht : (s.core 0).tlb = [⟨0, 0, true, 0x1D⟩])
    (hp : s.prngOf 0 0 = prngAll) (hn : n ≤ 2 ^ 26) : ∃ ks, s.agentKeys 0 v 0 0x1000 acc n = .ok ks :=
  ⟨_, block_keys s v 0 acc ht (grant_all s hp) n 0x1000 (by omega)⟩

theorem writes_area (s : State) (i : Nat) (c : Ctx) (t : Task) (r : Nat) (pc : Word) (wk : List Nat) (hf : t.fn = 0) (hi : coreOf i = 0)
    (ht : (s.core 0).tlb = [⟨0, 0, true, 0x1D⟩]) (hp : s.prngOf 0 0 = prngAll)
    (hn : (areaFixed c t i r pc wk ++ areaRest (s.core 0) c t).length ≤ 2 ^ 26)
    (hq : areaPoison c t = []) : ∃ u, writeArea i c t r pc wk 0x1000 s = .ok u := by
  obtain ⟨ks, h⟩ := block_keys_of s t.vdie .write _ ht hp hn
  exact ⟨_, by simp only [writeArea, writeBlock, hq, hf, hi, h, bind, Except.bind]; rfl⟩

theorem wit_Preemption :
    let s := pre0 req0
    let b := pre0 { req0 with deadline := some 10, begun := true }
    let d := (pre0 { req0 with deadline := some 0 }).mod fun c => { c with iss := { c.iss with boundary := false } }
    (s.inElided = false ∧ s.myPriv = true ∧ s.me.task = some small ∧ s.quiet = true ∧ (rA s 1).toNat % 4096 = 0 ∧ (rA s 1).toNat < 2 ^ 48 ∧
      drained s s.cur = true) ∧
    ((rS s 1).toNat < 2 ^ 48 ∧ (rS s 1).toNat / 64 % 64 = 0 ∧ s.vcorePhys s.myFn s.myVdie ((rS s 1).toNat / 4 % 16) = some 0) ∧
    ((s.ctx 0).task = some small ∧ small.fn = s.myFn ∧ (s.ctx 0).mode ≠ .halted ∧ (scal []).me.preempt = none ∧ (scal []).me.waitKey ≠ some 1) ∧
    ((s.ctx 0).preempt = some req0 ∧ req0.deadline = none ∧ req0.begun = false) ∧
    ((b.ctx 0).preempt = some { req0 with deadline := some 10, begun := true } ∧ saveReady b 0 = true ∧ leavesBefore b 0 small = false) ∧
    saveReady s 0 = false ∧ s.mayStore s.myVdie = true ∧ (atBoundary s 0 = true ∧ (s.fn 0).halted = false) ∧
    (atBoundary d 0 = false ∧ small.lflags.getLsbD 28 = false ∧ 0 ≤ (d.pdie 0).cycle) := by
  decide +kernel

/-- A header that CTXLD accepts, and one that it rejects. -/
theorem wit_area_header : areaReject (pre0 req0) small (toBytes 8 (2 ^ 56)) = none ∧ areaReject (pre0 req0) small [] = some 0x40 := by
  decide +kernel

theorem wit_preempt_save : let b := pre0 { req0 with deadline := some 10, begun := true }
    ∃ u, writeArea 0 (b.ctx 0) small 1 0 [0, 0, 0, 0] 0x1000 b = .ok u := by
  intro b
  exact writes_area b 0 _ small 1 0 _ rfl rfl (by decide +kernel) (by decide +kernel) (by decide +kernel) (by decide +kernel)

theorem wit_ErrorsAndRemap :
    let s := State.reset
    (keyKind (keyDram 7 (2 ^ 36 - 1)) ≠ 0 ∧ keyDie (keyDram 7 (2 ^ 36 - 1)) < 8) ∧ ((objs obj0).obj 0 0).live = true ∧ 63 < ((objs obj0).obj 0 0).ssize ∧
    (s.phys 0 ≠ 7 ∧ s.phys 0 < 8 ∧ s.virt 7 ≠ 0) ∧ ((scal []).ctx (64 * 0 + 0)).task.isSome = true ∧
    (∀ j < 64, (s.ctx (64 * 0 + j)).task = none ∧ (s.ctx (64 * 7 + j)).task = none) ∧ remapFits s 0 (s.virt 7) 0 7 = true ∧
    Memory.wf s.mem = true := by decide +kernel

/-- Virtual die 0 goes to physical die 7 with its sixteen cores, and no two cores meet. -/
theorem wit_core_moves : let core := fun (k : Nat) => (((coreMoves State.reset 0 (State.reset.virt 7) 0 7).find? fun e => e.1 = k).map Prod.snd).getD k
    ∀ a b, core a = core b → a = b := by
  intro core
  have e : ∀ k, core k = if k < 16 then 112 + k else if 112 ≤ k ∧ k < 128 then k - 112 else k := by
    have h : ∀ k ∈ List.range 128, core k = if k < 16 then 112 + k else if 112 ≤ k ∧ k < 128 then k - 112 else k :=
      forall_of_all (by decide +kernel)
    have f : ∀ x ∈ coreMoves State.reset 0 (State.reset.virt 7) 0 7, x.1 < 128 := forall_of_all (by decide +kernel)
    intro k
    by_cases hk : k < 128
    · exact h k (List.mem_range.mpr hk)
    · have n : (coreMoves State.reset 0 (State.reset.virt 7) 0 7).find? (fun e => e.1 = k) = none := by
        rw [List.find?_eq_none]; intro x hx; have := f x hx; simp; omega
      show ((Option.map Prod.snd _).getD k) = _
      rw [n, if_neg (by omega), if_neg (by omega)]; rfl
  intro a b h
  rw [e a, e b] at h
  split at h <;> split at h <;> (try split at h) <;> (try split at h) <;> omega

/-- Queue 63 of the PF, enabled with a sett. -/
def queues (q : Queue) : State := State.reset.modQueue 0 63 fun _ => q
def queue0 : Queue := { qctl := 0xA0000000, sett := [0] }

theorem wit_Portals :
    let s := queues queue0
    (List.replicate 8 (0 : Word)).length = 8 ∧ ((s.queue 0 63).qctl.getLsbD 31 = true ∧ (s.fn 0).frozen = false ∧ (s.fn 0).resetting = false ∧
      (s.queue 0 63).sett ≠ [] ∧ (s.queue 0 63).buf.length < 8) ∧ ¬ ({ queue0 with buf := List.replicate 8 [] } : Queue).buf.length < 8 ∧
    State.reset.fn 4 = s.fn 4 := by decide +kernel

theorem wit_PacketStart :
    let s := queues { queue0 with buf := [List.replicate 8 0] }
    s.hub.rrFn < 5 ∧ (∀ g < 5, rising (s.fn g).queues = true) ∧ (∀ g < 5, ∀ p < 4, rd 0 s.hub.rrQueue (4 * g + p) < 64) ∧ s.hub.interp = none ∧ s.hub.interpAt ≤ s.cycleG ∧
    (s.queue 0 63).buf ≠ [] ∧ (∀ r < 64, (State.reset.queue 0 r).buf = []) := by decide +kernel

/-- The interpreter on queue 63 of the PF. -/
def interp0 (c : Interp) : State := { queues queue0 with hub := { State.reset.hub with interp := some c } }
def run0 : Interp := { fn := 0, queue := 63, op := 3, x := [(1, 5), (2, 5), (3, 6)], rep := some (2, 4, 2), packet := List.replicate 8 0 }

theorem wit_SettOperations :
    (interp0 run0).hub.interp = some run0 ∧ run0.rep = some (2, 4, 2) ∧ run0.op + 1 = 4 ∧ 1 < 2 ∧ rd 0 run0.x 1 = rd 0 run0.x 2 ∧
    (interp0 run0).hub.interpAt ≤ (interp0 run0).cycleG ∧
    (∃ t, exec (.settLdp 0 0) (interp0 run0) = .next t ∧ t.cycleG < t.hub.interpAt ∧ t.hub.interp ≠ none) ∧
    rd 0 run0.x 1 ≠ rd 0 run0.x 3 ∧ (rd 0 run0.x 1).toNat < (rd 0 run0.x 3).toNat :=
  ⟨by decide, by decide, by decide, by decide, by decide, by decide +kernel, ⟨_, rfl, by decide +kernel, by decide +kernel⟩, by decide, by decide⟩

theorem wit_SettsEnd :
    let c : Interp := { run0 with rep := none, chain := [(1, 0x1000, none), (0, 0x1001, none)] }
    let s := inDram (bytesOfWords cws) (interp0 c)
    let u : State := { s with hub := { s.hub with interp := none, interpAt := s.cycleG + 5 } }
    s.hub.interp = some c ∧ s.hub.interpAt ≤ s.cycleG ∧ okIs (derrickRead u 0 0 (1, 0x1000, none)) (.job .cpy, cws) = true ∧ errIs (derrickRead u 0 0 (0, 0x1001, none)) 0x03 = true ∧
    okIs (derrickRead (inDram (bytesOfWords lws) (interp0 c)) 0 0 (0, 0x1000, none)) (.launch, lws) = true ∧
    errIs (derrickRead u 0 0 (1, 0x8001000, none)) 0x02 = true ∧ cardOk .cpy cws = true ∧ (0x1000 + 128 ≤ 2 ^ 48 ∧ 0x1000 % 64 = 0) := by
  decide +kernel

theorem wit_SettLoader :
    let val : Word := 0x3F00
    let s := inDram [] State.reset
    let l : State := { s with hub := { s.hub with sload0 := 0x1000, loading := some ⟨0x1000, val⟩ } }
    (val &&& 0xFFFFFFFFFE00C0F8 = 0 ∧ val.toNat % 8 ≤ 4 ∧ s.hub.sload0.toNat % 4 = 0) ∧ (5 : Word).toNat % 8 > 4 ∧
    (s.queue 0 63).qctl.getLsbD 31 = false ∧ ((queues queue0).queue 0 63).qctl.getLsbD 31 = true ∧
    (l.hub.loading = some ⟨0x1000, val⟩ ∧ interpOn l 0 63 = false) ∧ okIs (readImage l 0x1000 0 (val.toNat / 2 ^ 16 % 512 + 1)) [0] = true ∧
    (match readImage l 0x8000000 0 1 with | .error i => i | .ok _ => 512) = 0 ∧ checkSett [0] = (1, 0) ∧ (checkSett [0x44000005]).1 ≠ 1 ∧
    s.hub.loading = none := by decide +kernel

theorem wit_SettsStayInBudget : checkSett [0x04800000, 0] = (1, 0) ∧
    (1, none, 0) ∈ placesAfter [.settLdp 1 0, .settEnd] (0, none, 0) := by decide +kernel

theorem wit_Partitions :
    let s := State.reset.modFn 0 fun f => { f with pcore := 0, prng := [] }
    (∀ j < 128, (1 : BitVec 128).getLsbD j = if decide (64 ≤ j) = false then (1 : Word).getLsbD (j % 64) else (s.fn 4).pcore.getLsbD j) ∧
    (∃ j < 128, (1 : BitVec 128).getLsbD j = true ∧ (State.reset.fn 0).pcore.getLsbD j = true) ∧
    (∀ g < 5, ∀ j < 128, ¬ ((1 : BitVec 128).getLsbD j = true ∧ (s.fn g).pcore.getLsbD j = true)) ∧ (scal []).busyFn 0 = true ∧
    s.busyFn 4 = false ∧ (∀ d < 8, ∀ e < 8, s.virt d = s.virt e → d = e) ∧ prngAll.getLsbD 63 = true ∧
    (∀ g < 5, (s.prngOf g 7).getLsbD 63 = false ∧ (s.prngOf g 7).getLsbD 31 = false) := by decide +kernel

theorem wit_FreezesAndResets :
    let s := State.reset
    let fz := s.modFn 4 fun f => { f with frozen := true }
    let r := s.modFn 4 fun f => { f with frozen := true, resetting := true }
    (s.fn 4).frozen = false ∧ (fz.fn 4).frozen = true ∧ (1 : Word).getLsbD 0 = true ∧ s.hub.copying = none ∧ (s.fn 4).resetting = false ∧
    ({ s with hub := { s.hub with copying := some 0 } } : State).hub.copying.isSome = true ∧
    ((r.fn 4).resetting = true ∧ (r.fn 4).haltDies = [] ∧ (∀ l ∈ r.links, ∀ m ∈ notCrossed l.2, msgOf r 4 m = false) ∧
      (∀ p ∈ r.pdies, ∀ x ∈ p.2.rides, msgOf r 4 x.msg = false) ∧
      (∀ d < 9, (r.pdie d).pend = [] ∧ (r.pdie d).inbox = [])) ∧ ((fz.modFn 4 fun f => { f with haltDies := [0] }).fn 4).haltDies ≠ [] := by
  decide +kernel

theorem wit_HostRegisters :
    ((scal []).busyFn 0 = true ∧ (∀ g < 5, State.reset.busyFn g = false) ∧ ∀ p ∈ State.reset.pdies, p.2.sent = []) ∧
    ((80 : Word).toNat % 256 ≤ 80 ∧ 80 < (81 : Word).toNat % 256) := by decide +kernel

/-- Whichever images a module holds, one of the cases of its reset applies. -/
theorem wit_Firmware (h : Hub) :
    let good := fun (x : List Byte × Bool) => x.2 = true ∧ Config.imageVerifies x.1 = true
    let ver := fun (x : List Byte × Bool) => (Config.imageVersion x.1).toNat
    (good h.slotB ∧ (good h.slotA → ver h.slotA < ver h.slotB)) ∨ (good h.slotA ∧ (good h.slotB → ver h.slotB ≤ ver h.slotA)) ∨
      (¬ good h.slotA ∧ ¬ good h.slotB) := by
  intro good ver
  by_cases a : good h.slotA <;> by_cases b : good h.slotB <;> simp [a, b, Nat.lt_or_ge]

theorem wit_firmware_orders :
    let h := State.reset.hub
    (¬ (([], false) : List Byte × Bool).2 = true) ∧ (2 : Word).getLsbD 0 = false ∧ (3 : Word).getLsbD 0 = true ∧ h.copying = none ∧
    (if h.bootB then h.slotA else h.slotB).2 = false ∧ ({ h with slotB := ([1], true) } : Hub).slotB.2 = true ∧
    h.activating = none ∧ ({ h with activating := some 3 } : Hub).activating.isSome = true ∧ (drainAll State.reset).isSome = true ∧
    (drainAll (State.reset.setCtx 0 { mode := .run })).isSome = true ∧
    (∀ g < 5, rising (State.reset.fn g).queues = true) ∧ layoutQueues State.reset = [] := by decide +kernel

theorem wit_Checkpoints :
    let s : State := { State.reset with hub := { State.reset.hub with copying := some 0 } }
    (1 : Word).getLsbD 0 = true ∧ State.reset.hub.copying = none ∧ State.reset.hub.activating = none ∧ (drainAll s).isSome = true ∧
    drainAll (s.modFn 0 fun f => { f with haltDies := [7] }) = none ∧ s.hub.copying = some 0 ∧ Memory.wf s.mem = true ∧ State.reset.hub.ckctl = 0 ∧
    ((s.modPdie 7 fun p => { p with telBase := 1 }).pdie 7).telBase.getLsbD 0 = true ∧ (s.pdie 7).telBase.getLsbD 0 = false := by decide +kernel

/-- MOVI s6, #2, placed after reset: everything that the step statement asks for holds, and the step writes s6. -/
theorem wit_StepRunsTheDecoded :
    let s := (State.reset.modPdie 0 fun p => { p with cycle := 1 }).withFetchWord 32 0x30600002
    let u : State := { s with agenda := [], cur := 0 }
    let acts : List (Nat × Instr × Nat) := [(0, .movi 6 2, 0), (1, .nop, 0), (2, .nop, 0), (3, .nop, 0)]
    s.agenda = [.issue 0] ∧ (s.ctx 0).mode = .run ∧ (s.ctx 0).task = some tk ∧ (s.ctx 0).wait = [] ∧ (s.ctx 0).preempt = none ∧
    (match fetchBundle tk u with
     | .error _ => false
     | .ok (w, f) => mayIssueNow 0 u && !callWaits u 0 && !coreFrozen 0 u && !drainShort (peek f) acts && mergeFits (f.pdie 0).cycle (decodeBundle w) f && (decodeBundle w).legal && decide (active (peek f) (decodeBundle w) = acts) && f.me.regPoison.isEmpty && !f.inElided &&
        f.me.landings.isEmpty && !unchecked f && (earlyTraps (peek f) (decodeBundle w) acts).isEmpty &&
        decide (readyAt f.me (decodeBundle w) ≤ (f.pdie 0).cycle) &&
        acts.all fun y => !slotHeld (peek f) acts (openKeys f) y && decide (lateAt f.me (slotReads (peek f) acts y) ≤ (f.pdie 0).cycle)) = true ∧
    mayIssueNow 0 ((u.setCtx 1 (u.ctx 0)).setCtx 0 { u.ctx 0 with minReady := 9 }) = false ∧
    sReg (after (step s)) 6 = 2 := by decide +kernel

/-- A sett word and a word of no instruction, placed after reset: the interpreter's operation, and a bundle that is illegal. -/
theorem wit_step_sett :
    let s := State.reset.withFetchWord 32 0x48000005
    (s.agenda = [.sett] ∧ s.hub.interp = some { fn := 0, queue := 0, op := 0 } ∧ (s.queue 0 0).sett[0]? = some 0x48000005 ∧
      decodeSett 0x48000005 = some (.settRej 5)) ∧ (decodeBundle 0xFC000000).legal = false ∧ (scal []).me.mode = .run ∧ State.reset.me.mode ≠ .run := by
  decide +kernel

theorem wit_DecodingInvertsEncoding : (Instr.movi 6 2).wellFormed = true ∧ encode (.movi 6 2) = some (0x30600002, 0) ∧
    (Instr.settLdi 2 1).wellFormed = true ∧ encodeSett (.settLdi 2 1) = some 0x09000001 := by decide +kernel

theorem wit_StepKeepsMemoryCanonical : Safety.Inv State.reset ∧
    (match step (State.reset.withFetchWord 32 0x30600002) with | .next _ => true | _ => false) = true := by decide +kernel

/-! ### Witnesses of further clauses, family by family -/

theorem wit_loops_replaced :
    let l : Loop := ⟨0, 0x10000, 4, 3⟩
    let o : Loop := ⟨1, 0x10000, 64, 9⟩
    let s := (atAddr 0x20).mod fun c => { c with loops := [⟨2, 0x10000, 2, 3⟩, l, o] }
    s.me.loops = [⟨2, 0x10000, 2, 3⟩] ++ l :: [o] ∧ l.lc = (0 : BitVec 2).toNat ∧ (∀ y ∈ [(⟨2, 0x10000, 2, 3⟩ : Loop)], y.lc ≠ (0 : BitVec 2).toNat) ∧
    (∀ y ∈ s.me.loops, y.lc ≠ (3 : BitVec 2).toNat) ∧ s.me.iss.target = none ∧ s.me.iss.after = none ∧
    (∀ y ∈ s.me.loops, (s.me.iss.pc + 16).toNat ≤ (loopEnd y).toNat) ∧ (rS s 1).toNat ≠ 0 ∧ (rS s 0).toNat = 0 ∧ s.inElided = false := by
  decide +kernel

theorem wit_pattern_times : ((atAddr 0).core 0).patNext.Pairwise (fun x y => x.1 ≤ y.1) ∧
    (((atAddr 0).modCore 0 fun k => { k with patNext := [(3, 0, 5, 0), (9, 0, 5, 1)] }).core 0).patNext.Pairwise (fun x y => x.1 ≤ y.1) := by
  decide +kernel

/-- Core 0 caches the page at 0x10000 with DRAM of virtual die `d`. -/
def pageOf (d : Nat) (s : State) : State := s.modCore 0 fun c => { c with tlb := [⟨0, 0x10000, false, bootLeaf d⟩] }
theorem wit_far_landings :
    let own : Word := 0x0001000020000100
    let s := atAddr own
    let t := pageOf 0 (atAddr 0x10000)
    let u := pageOf 1 (atAddr 0x10000)
    (s.inElided = false ∧ (rA s 1).toNat % 8 = 0 ∧ window (rA s 1) = some (.shared, 0x100) ∧ 0x100 / 2 ^ 26 = s.myVdie ∧
      okIs (s.target .shared 0x100 .read) (.far (.shared 0 0x100)) = true ∧ look s.me.landings 63 = none) ∧
    (window (rA t 1) = some (.device, 0x10000) ∧ okIs (t.target .device 0x10000 .read) (.far (.dram 0 0x10000)) = true ∧
      (Loc.dram 0 0x10000).home = t.myVdie) ∧
    (okIs (u.target .device 0x10000 .read) (.far (.dram 1 0x10000)) = true ∧ (Loc.dram 1 0x10000).home ≠ u.myVdie) ∧
    (∀ acc ∈ [Acc.read, .write], okIs (t.targetNow .device 0x10000 acc) (.far (.dram 0 0x10000)) = true ∧
      okIs (s.targetNow .shared 0x100 acc) (.far (.shared 0 0x100)) = true) := by decide +kernel

theorem wit_tokens_and_port :
    let s := (State.reset.modPdie 0 fun p => { p with pwrLim := 8, lastToken := 0 }).setCtx 0 (atAddr 0).me
    let r := mat { running := some rep1 } s
    noToken s 0 ∧ (s.core 0).cols = 0 ∧ (s.pdie 0).tokenHeld = false ∧ haltOverdueAt r 0 = false ∧ rep1.made ≠ 0 ∧ portOpen s = true := by
  unfold noToken; decide +kernel

theorem wit_port_keeps :
    let s := atAddr lastLocal
    let busy := mat { running := some rep1 } s
    let head := s.mod fun c => { c with iss := { c.iss with atPort := true, slot := 3 }, portKeep := [(3, [0x2011])] }
    (busy.inElided = false ∧ busy.me.iss.atPort = false ∧ window (rA busy 1) = some (.local_, 0x7FFFF0) ∧ portOpen busy = false ∧
      busy.barred (keyScratch 0 0x7FFFF0) 8 = false ∧ busy.poisoned (keyScratch 0 0x7FFFF0) 8 = false) ∧
    (head.me.iss.atPort = true ∧ look head.me.portKeep head.me.iss.slot = some [0x2011] ∧ fValid 0x2011 = true ∧ portOpen head = true) ∧
    isMatrix (.mclr 3) = true ∧ (∀ a b, Instr.mclr 3 ≠ .fmtld a b) ∧ (∀ a b c, Instr.mclr 3 ≠ .mdrainQ a b c) ∧
    fValid 0 = false ∧ stRcd &&& atrapMask (flags (0xFF * 2 ^ 32) s) ≠ 0 := by
  refine ⟨by decide +kernel, by decide +kernel, by decide, by simp, by simp, by decide +kernel⟩

theorem wit_acknowledgements :
    let w := rq (.write [1]) .none
    let q : Sent := { out w with replied := true, copies := 1 }
    let s := (atAddr 0).modPdie 0 fun p => { p with sent := [q] }
    let t := (atAddr 0).modPdie 0 fun p => { p with sent := [{ q with copies := 0 }] }
    let far : Sent := { out { w with loc := .fabric 2047 0 0 } with failed := true, firstAt := 0 }
    ((s.pdie 0).sent.find? (fun q => q.req.tag = 0) = some q ∧ q.req.op.writes = true ∧ q.replied = true ∧ q.acked = false ∧
      q.copies = q.sends) ∧ ((t.pdie 0).sent.find? (fun q => q.req.tag = 0) = some { q with copies := 0 } ∧ ({ q with copies := 0 } : Sent).copies ≠ q.sends) ∧
    (s.alive 0 1 = false ∧ (rep0 []).trap = 0 ∧ ({ rep0 [] with trap := 0x10 } : Reply).trap ≠ 0 ∧ ((State.reset.ctx 0).serial ≠ 1 ∨ (State.reset.ctx 0).task = none)) ∧
    (far.req.loc.other = some 2047 ∧ far.firstAt + 14336 < ({ s with cycleG := 14337 } : State).cycleG ∧
      ¬ far.firstAt + 14336 < ({ s with cycleG := 14336 } : State).cycleG) := by decide +kernel

theorem wit_walk_roots :
    let s := withPage ((atAddr 0).modPdie 0 fun p => { p with walks := [walk0 0x10008] })
    let w := walk0 0x10008
    ((s.walkDies w.root w.fn w.va).all (s.linked 0) = true ∧ okIs (s.leafFrom w.root 0 0 0x10008) (bootLeaf 0, false) = true ∧
      errIs ((atAddr 0).leafFrom w.root 0 0 0x10008) 0x03 = true) ∧
    ∃ t : State, (t.walkDies 1 0 0x10008).all (t.linked 7) = false :=
  ⟨by decide +kernel, { State.reset with links := (List.range 64).map fun l => (l, { state := 0 }) }, by decide +kernel⟩

theorem wit_foreign_tag : (msg (.req { rq (.read 8) .none with fn := 7 })).body = .req { rq (.read 8) .none with fn := 7 } ∧
    7 ≤ ({ rq (.read 8) .none with fn := 7 } : Req).fn := by decide +kernel

theorem wit_format_images :
    let g (img : Word) : State := nodes [{ node0 .launch (lws.set 5 img) with started := true }] [walker0] (withBlock 0 State.reset)
    let s := g 0x1000
    let bad := g 0x8001000
    (s.ctx 0).mode = .free ∧ walkersOf s 0 0 = [({ node0 .launch (lws.set 5 0x1000) with started := true }, walker0)] ∧
    mayIssue s (node0 .launch (lws.set 5 0x1000)) = true ∧ lFmtimg (lws.set 5 0x1000) = 0x1000 ∧ s.settled 0 = true ∧
    s.linkedTo 0 0 0 0 0x1000 .read 128 = true ∧ coreFits s 0 (lws.set 5 0x1000) = true ∧ firstWork s 0 = some walker0.ordinal ∧ replyOwed s 0 = false ∧
    replyOwed (s.modPdie 0 fun p => { p with sent := [out { rq (.read 8) (.sload 1 .i64) with serial := 0 }] }) 0 = true ∧
    okIs (s.agentWords 0 0 0 0x1000 16) (List.replicate 16 0) = true ∧ bad.linkedTo 0 0 0 0 0x8001000 .read 128 = true ∧
    (match bad.agentWords 0 0 0 0x8001000 16 with | .error x => x | .ok _ => (0, 0)) = (0x03, 0x8001000) := by decide +kernel

/-- Two nodes of virtual die 0, and the registers that TGDEP reads. -/
def node3 : Node := { node0 .launch lws with id := 3 }
def node16 : Node := { node0 .launch lws with id := 2, held := true, edges := 16 }
def edges (n : Node) (l e : Word) : State := nodes [n, node3] [] (scal [(1, l), (2, e)])
theorem wit_graph_edges :
    let s := edges node16 2 1
    (s.node s.myVdie 2 = some node16 ∧ node16.fn = s.myFn ∧ rS s 1 = (2 : BitVec 32).setWidth 64 ∧ rS s 2 ≠ 0 ∧
      rS s 2 = (1 : BitVec 32).setWidth 64 ∧ idDie 1 = s.myVdie ∧ seqBelow (idSeq 1) (idSeq 2) = true ∧ 16 ≤ node16.edges) ∧
    (idDie 0x20000001 ≠ s.myVdie ∧ seqBelow (idSeq 3) (idSeq 2) = false ∧
      rS (edges node16 2 (-1)) 2 ≠ ((rS (edges node16 2 (-1)) 2).setWidth 32).setWidth 64) ∧
    (s.node 0 3 = some node3 ∧ node3.held = false ∧ (edges { node16 with fn := 1 } 2 1).node 0 2 = some { node16 with fn := 1 } ∧
      ({ node16 with fn := 1 } : Node).fn ≠ s.myFn) ∧ (s.fn 0).coming = [] := by decide +kernel

theorem wit_bank_launches :
    (let q : Queue := { banks := [(0, .launch, lws, none), (1, .launch, lws, none)] }
     let t := (scal []).modFn 0 fun f => { f with queues := [(63, q)] }
     let u := (scal []).modFn 0 fun f => { f with queues := [(64, { banks := [(0, .launch, lws, some 5)] })] }
     bankHead (rd {} (t.fn 0).queues 63) 1 = some (.launch, lws, none) ∧ lowestDie lws ≠ 1 ∧
     bankHead (rd {} (t.fn 0).queues 63) 0 = some (.launch, lws, none) ∧ lowestDie lws = 0 ∧ t.settled 0 = true ∧ lIcnt lws = 0 ∧
     lCount lws ≠ 0 ∧ bankHead (rd {} (u.fn 0).queues 64) 0 = some (.launch, lws, some 5) ∧ (∀ y < 8, u.node y 5 = none)) := by decide +kernel

theorem wit_banks_open :
    let s := asTask { tk with lnch := 2 } (atAddr 0)
    let other : Req := { rq (.read 8) .none with cx := some 1, node := 2 }
    let open_ (s : State) := s.readsOpen || s.readsLeft (s.cur / 64) fun r => decide (r.node = 2) && match r.cx with
      | some i => decide (i / 4 = s.cur / 4) && r.awaited i
      | none => false
    open_ s = false ∧ open_ (s.modPdie 0 fun p => { p with sent := [out other] }) = true ∧
    (let lim (l : Word) (h : Bool) : State := State.reset.modPdie 0 fun p => { p with pwrLim := l, tokenHeld := h }
     0 < (8 : Word).toNat % 256 ∧ firstRequest 0 (lim 8 true) = none ∧ (lim 8 true).cycleG < ((lim 8 false).pdie 0).lastToken + (4000 + 8 - 1) / 8 ∧
     ((lim 8 false).pdie 0).tokenHeld = false ∧ firstRequest 0 ((lim 8 false).modCore 3 fun k => { k with tokenReq := some 0 }) = some 3) := by
  decide +kernel

/-- A collective job that posts a segment of the tree from LOCAL 0x100 into 0x200. -/
def colWords (h : BitVec 32) (src : Word) (n : Word) (bar : Word) : List Word := [h.setWidth 64, src, la + 0x100, n, 0, 0, bar, 0, 0, 0, 0, 0, 0, 0, 0, 0]

theorem wit_job_forms :
    let s := record cws
    let n := { node0 (.job .cpy) cws with started := true, cx := some 0 }
    let v := nodes [n] [] s
    let bcast : List Word := [8, la, 0, 0x0100, 0, 2 ^ 62, 0, 0, 0, 0, 0, 0, 0, 0, 0, 0]
    let empty : List Word := [0, la, la + 0x100, 0, 0, 0, la + 0x400, 0, 0, 0, 0, 0, 0, 0, 0, 0]
    (cardOk .cpy empty = true ∧ jobEmpty (.job .cpy) empty = true ∧ s.poison = [] ∧ (∀ c ∈ s.ctxs, c.2.hold = none) ∧
      window (empty.getD 6 0) = some (.local_, 0x500) ∧ 0x500 + 16 ≤ 2 ^ 23 ∧ s.vcorePhys s.myFn 0 0 = some 0) ∧
    (jobEmpty (.job .cpy) (empty.set 6 0) = true ∧ cardOk .cpy (empty.set 6 0) = true) ∧
    (v.runs 0 n.serial = true ∧ v.runs 0 (n.serial + 1) = false) ∧
    (v.linkedTo (v.phys 0) 0 0 0 la .read 8 = true ∧ (∀ x < 8, bankBusy v (keyScratch 0 (0x100 + x)) = false) ∧
      bankBusy (v.modPdie 0 fun p => { p with pend := [{ rq (.read 8) .none with loc := .near 0 (keyScratch 0 0x100) }] }) (keyScratch 0 0x100) = true) ∧
    (window nowhere = none ∧ window fab = some (.fabric, 0)) ∧
    ((bcast.getD 5 0).getLsbD 62 = true ∧ (bcast.getD 2 0).toNat + 8 ≤ 131072 ∧ (bcast.getD 3 0).toNat % 256 ≤ (bcast.getD 3 0).toNat / 256 ∧
      (bcast.getD 3 0).toNat / 256 ≤ 191 ∧ (copyBlock 0 8 0).2 = 8) := by decide +kernel

theorem wit_collective_jobs :
    let h := handleOf 0 tree0
    let s := trees tree0
    let p := trees { tree0 with posts := [(0, 1)], segs := [seg0 0] }
    treeOf s 0 0 = none ∧ treeOf s 0 (h.setWidth 64) = some (0, tree0) ∧ (0 < (1 : Word).toNat) ∧
    window (la + 0) = some (.local_, 0x100) ∧ window (la + 0x100) = some (.local_, 0x200) ∧ (la + 0).toNat % 256 = 0 ∧ (la + 8).toNat % 256 ≠ 0 ∧
    0x100 + segSize tree0 ≤ 2 ^ 23 ∧ 0x200 + segSize tree0 ≤ 2 ^ 23 ∧ (membersAt tree0 (nextSeg tree0 0)).any (fun m => decide (m.code = 0)) = true ∧
    (membersAt tree0 (nextSeg tree0 5)).any (fun m => decide (m.code = 5)) = false ∧ postsFull tree0 0 = false ∧
    (∃ n, postsFull { tree0 with posts := [(0, n)], segs := (List.range n).map fun i => { seg0 0 with seg := i } } 0 = true) ∧
    (∃ e ∈ (p.tree 0 0).segs, e.code = 0 ∧ e.localdone = false) ∧ (∀ e ∈ tree0.segs, e.code = 0 → e.localdone = true) := by
  refine ⟨by decide +kernel, by decide +kernel, by decide +kernel, by decide +kernel, by decide +kernel, by decide +kernel, by decide +kernel,
    by decide +kernel, by decide +kernel, by decide +kernel, by decide +kernel, by decide +kernel, ⟨64, by decide +kernel⟩,
    ⟨seg0 0, by decide +kernel⟩, by decide +kernel⟩

theorem wit_tree_asks :
    let two := { tree0 with members := [⟨0, 0, 0, 0⟩, ⟨1, 9, 0, 1⟩] }
    let ask (c : Option Nat) (o : List Nat) : TreeAsk := { cx := c, owed := o }
    let t := { two with ask := some (ask (some 0) [9]) }
    let back := { two with ask := some (ask (some 0) []) }
    let other := { two with ask := some (ask (some 5) []) }
    let left := { two with ask := some (ask none []) }
    (asking (trees tree0) { tree0 with state := 1 } = false ∧ ({ tree0 with state := 1 } : Tree).state ≠ 0) ∧
    (treeOf (trees t) 0 (rS (trees t) 1) = some (0, t) ∧ t.ask = some (ask (some (trees t).cur) [9])) ∧
    (treeOf (trees back) 0 (rS (trees back) 1) = some (0, back) ∧ back.ask = some (ask (some (trees back).cur) []) ∧ back.state = 0 ∧ back.segs = []) ∧
    (treeOf (trees other) 0 (rS (trees other) 1) = some (0, other) ∧ other.ask ≠ none ∧ (ask (some 5) []).cx ≠ none ∧ (ask (some 5) []).cx ≠ some (trees other).cur) ∧
    (left.ask = some (ask none []) ∧ otherMods (trees left) left ≠ []) ∧
    (descOk [0x4040000200000000, la, 0, 0] = true ∧ descOk [0x4041000200000000, nowhere, 0, 0] = false) ∧
    (∀ p ∈ tree0.held, p.code ≠ 0) := by decide +kernel

theorem wit_tree_saves :
    let frozen := { tree0 with state := 1 }
    let s := aAt 0x1000 (withBlock 0 (trees frozen))
    let saved := { tree0 with state := 2 }
    let u := aAt 0x1000 (withBlock 0 (trees saved))
    (s.linkedTo 0 s.myFn s.myVdie 0 0x1000 .write 0x5000 = true ∧ flitsRide s 0 0 = false ∧ s.mayStore s.myVdie = true ∧ s.quiet = true) ∧
    (flitsRide (s.modPdie 0 fun p => { p with rides := [⟨0, 5, 0, false, msg (.tree 0 (handleOf 0 frozen) (flitTo ⟨2, 0, 0, 0⟩ 0 (some 0) [1]))⟩] }) 0 0 = true) ∧
    (saved.state = 2 ∧ saved.segs = [] ∧ saved.members ≠ [] ∧ u.linkedTo 0 u.myFn u.myVdie 0 0x1000 .read 0x5000 = true) := by decide +kernel

/-- Rank 0 of the group of `cl0` is core 0 of virtual die 0, rank 1 is core 1; the collective of core 0, and its node. -/
def cnode : Node := { node0 .clnest [] with vcore := 0, started := true }
/-- The collective, its rank on core 0 and its node there. -/
def nestAt (c : ClState) : State := nodes [cnode] [] (nests { c with node := 1 })

theorem wit_nest_transfers :
    let s := nestAt cl0
    let c : ClState := { cl0 with node := 1 }
    let bar := nws.set 6 (2 ^ 63 + 0x100)
    let last (ws : List Word) : ClState := { cl0 with rcd := ws, received := nExpin ws - 1 }
    let x : Chunk := ⟨0, 1, 0, 0, 0, 0x2000, [7], 0, 0, 0, [], 0⟩
    (cnode.kind = .clnest ∧ s.subCore cnode = some 0 ∧ (s.core 0).cls.find? (fun c => c.node = cnode.id) = some c ∧ c.alldone = false ∧
      c.stopped = false ∧ c.next < nTotal c.rcd ∧ (s.core 0).nest c.fn c.n = some c) ∧
    (x.clk = [] ∧ (s.core 0).nest x.fn x.n = some c ∧ (last nws).accepted = true ∧ (last nws).localdone = false ∧
      nExpin nws ≤ (last nws).received + x.data.length ∧ nBar bar = some 0x100 ∧ 0x100 + 16 ≤ x.dst ∧ nBar nws = none) ∧
    (s.mayStamp 0 1 [(1, 1)] = true ∧ s.mayStamp 0 1 [(1, 5)] = false ∧ s.mayStamp 0 1 [(2, 1)] = false) := by decide +kernel

theorem wit_nest_ranges :
    let c (ws : List Word) : ClState := { cl0 with rcd := ws, node := 1 }
    let src (ws : List Word) : Int := ((ws.getD 0 0).toNat : Int) - winBase .local_
    let peer (ws : List Word) : Int := (nBase ws : Int) % (nGsize ws : Int)
    let s := nestAt (c nws)
    (nLev nws = 1 ∧ nChunk nws = 64 ∧ 0 ≤ src nws ∧ src nws + nChunk nws ≤ 2 ^ 23 ∧ nDst nws + nChunk nws ≤ 2 ^ 23) ∧
    (src (nws.set 0 (lastLocal + 8)) + nChunk nws > 2 ^ 23 ∧ nDst (nws.set 3 0x7FFFF0) + nChunk nws > 2 ^ 23) ∧
    (nes.any fun w => decide (((memberOf w).rank : Int) = peer nws)) = true ∧
    (nes.all fun w => decide ((memberOf w).code / 128 = s.hub.modid.toNat) && decide ((s.rankCore 0 (memberOf w).code).isSome = true)) = true ∧
    ((ranksOf cl0).any fun r => decide (s.rankCore 0 r = some 1)) = true := by decide +kernel

theorem wit_object_cases :
    let s := objs obj0
    let r : RoRead := { read0 with serial := 1 }
    let old_ : Obj := { obj0 with meths := [0x10001, 0x10001] }
    let p : Obj := { obj0 with poison := some (0, (0x0C, 0)), log := [call0], applied := [] }
    let q : Obj := { p with log := [{ call0 with cx := some 0, wait := true }] }
    let ws : List Word := [la + 0x100, 0x0008000000000040, la + 0x200, 0]
    (s.me.waitKey ≠ some 1 ∧ (obj0.method 0).any mRo = false ∧ (obj0.method 1).any mRo = true) ∧
    (s.runs 0 read0.serial = true ∧ (s.modVdie 0 fun v => { v with roReads := [r] }).runs 0 r.serial = false) ∧
    (let t := (objs old_).modVdie 0 fun v => { v with roReads := [read0] }
     (t.vdie 0).roReads = [read0] ∧ readReady t 0 read0 = true ∧ t.runs 0 0 = true ∧ objOf t 0 (read0.handle.setWidth 64) = some (0, old_) ∧
     (old_.method read0.m).any mRo = false ∧ old_.method read0.m = some 0x10001 ∧ mRo 0x8000000000010001 = true) ∧
    (p.poison = some (0, (0x0C, 0)) ∧ (∀ v < 8, rd 0 p.applied v = 0) ∧ poisonOwed s p 0 = false ∧ poisonOwed s q 0 = true) ∧
    (repairOf s ws = none ∧ ([0x10001] : List Word).all methOk = true) := by decide +kernel

/-- A repair of that object, by its handle. -/
theorem wit_object_repair :
    let p : Obj := { obj0 with poison := some (0, (0x0C, 0)), log := [call0] }
    let ws : List Word := [la + 0x100, 0x0008000000000040, la + 0x200, 2 ^ 63 ||| (objHandle 0 p).setWidth 64]
    objOk ws = true ∧ oRepair ws = true ∧ repairOf (objs p) ws = some (0, p) := by decide +kernel

theorem wit_late_traps :
    let s := scal []
    let q : Req := { rq (.read 8) .none with serial := 1, tile := 5 }
    (s.ctx 0).serial ≠ q.serial ∧ (s.ctx 0).serial = (rq (.read 8) .none).serial ∧ (s.fn 0).recs.length < 1024 ∧ q.tile < 2 ^ 32 ∧
    (s.fn q.fn).frozen = false ∧ (tk.vdie < 8 ∧ tk.vcore < 16 ∧ tk.fn < 8 ∧ tk.n < 2 ^ 32) ∧ s.me.mat.running = none ∧ (s.fn 0).recs = [] ∧
    (∀ x, (mat { running := some rep1 } s).me.mat.running = some x → x.left < 2 ^ 13) := by
  refine ⟨by decide +kernel, by decide +kernel, by decide +kernel, by decide +kernel, by decide +kernel, by decide +kernel, by decide +kernel,
    by decide +kernel, fun x h => ?_⟩
  have e : rep1 = x := Option.some.inj h
  rw [← e]; decide

theorem wit_halts_open :
    let s := scal []
    let g := s.modFn 0 fun f => { f with halted := true, trees := [(0, { tree0 with state := 1, byHalt := true }), (1, { tree0 with state := 1 })] }
    let h := g.setCtx 4 { (s.ctx 0) with mode := .halted }
    ((g.fn 0).halted = true ∧ 3 ∉ (g.fn 0).haltDies) ∧ (haltOpen g 0 = false ∧ rising (g.fn 0).trees = true ∧ g.myPriv = true ∧
      (∀ x ∈ (g.fn 0).trees, x.2.byHalt = true → x.2.held = [])) ∧ (haltOpen h 0 = true ∧ (h.fn 0).haltDies = []) ∧
    ((g.tree 0 0).valid = true ∧ (g.tree 0 0).state = 1 ∧ (g.tree 0 0).byHalt = true ∧ (g.tree 0 1).byHalt = false) := by decide +kernel

theorem wit_area_fields :
    let c : Ctx := { mat := { armed := some ⟨8191, some 31, some 30, 3⟩ }, rredSeg := 2 ^ 32 - 1, loops := [⟨3, 0x10000, 64, 2 ^ 32 - 1⟩], barRec := some (la, 7) }
    c.rredSeg < 2 ^ 32 ∧ (c.mat.armed = some ⟨8191, some 31, some 30, 3⟩ ∧ 8191 < 2 ^ 13 ∧ 31 < 32 ∧ 30 < 32) ∧
    (∀ x ∈ c.loops, 1 ≤ x.len ∧ x.len ≤ 64 ∧ x.trip < 2 ^ 32) ∧ c.loops.find? (fun x => x.lc = 3) = some ⟨3, 0x10000, 64, 2 ^ 32 - 1⟩ ∧
    c.loops.find? (fun x => x.lc = 0) = none ∧ c.barRec = some (la, 7) := by decide +kernel

/-- Every link of the module is down. -/
def linksDown (s : State) : State := { s with links := (List.range 64).map fun l => (l, { state := 0 }) }

theorem wit_area_poison :
    let s := pre0 req0
    let p := s.mod fun c => { c with regPoison := [keyS 5] }
    let b := pre0 { req0 with deadline := some 10, begun := true }
    let bad := b.mod fun c => { c with regPoison := [keyS 5] }
    let far := { linksDown s with remap := [(0, 1), (1, 0)] }
    (areaLinked s 0 small 0x1000 = true ∧ areaPoison (s.ctx 0) small = []) ∧
    (areaPoison (p.ctx 0) small = [keyS 5]) ∧ s.linkedTo 0 0 0 0 0x1000 .read 0x1000 = true ∧
    (saveReady bad 0 = true ∧ leavesBefore bad 0 small = false ∧ areaLinked bad 0 small 0x1000 = true) ∧
    far.linkedTo 0 0 0 0 0x1000 .read 0x1000 = false := by decide +kernel
theorem wit_save_fault : let b := (pre0 { req0 with deadline := some 10, begun := true }).mod fun c => { c with regPoison := [keyS 5] }
    ∃ e, writeArea 0 (b.ctx 0) small 1 (b.ctx 0).pc (walkerWords b 0 (walkerFor b 0 small)) 0x1000 b = .error e := by
  intro b
  have h : areaPoison (b.ctx 0) small = [keyS 5] := by decide +kernel
  exact ⟨_, by unfold writeArea; rw [h]⟩

theorem wit_chain_links :
    let c : Interp := { run0 with rep := none, chain := [(1, 0x1000, none), (0, 0x1001, none)] }
    let s := inDram [] (interp0 c)
    let far := { linksDown s with remap := [(0, 1), (1, 0)] }
    chainLinked s 0 c.chain = true ∧ chainLinked far 0 c.chain = false ∧ far.hub.interp = some c ∧
    (far.linkedTo 8 0 0 hubCore 0x1000 .read 4 = false ∧ s.linkedTo 8 0 0 hubCore 0x1000 .read 4 = true) ∧
    interpOn s 0 63 = true := by decide +kernel

theorem wit_sett_steps :
    let ops : List Instr := [.settLdp 1 0, .settEnd]
    let c : Interp := { fn := 0, queue := 63, op := 0 }
    let s := interp0 c
    s.hub.interp = some c ∧ s.hub.interpAt ≤ s.cycleG ∧ ops[c.op]? = some (.settLdp 1 0) ∧ chainLinked s c.fn c.chain = true ∧
    settEnds (.settLdp 1 0) = false ∧ settEnds .settEnd = true ∧ ops[({ c with op := 1 } : Interp).op]? = some .settEnd ∧
    (c.op, c.rep, c.chain.length) = (0, none, 0) := by decide +kernel

theorem wit_gained_cores :
    let s := State.reset.modFn 0 fun f => { f with pcore := 1, vmap := [(0, 0)], events := [(0, 5), (64, 6)] }
    (2 : BitVec 128).getLsbD 1 = true ∧ (s.fn 0).pcore.getLsbD 1 = false ∧ look (s.fn 0).events 0 = some 5 := by decide +kernel

theorem wit_reset_waits :
    let r := State.reset.modFn 4 fun f => { f with frozen := true, resetting := true }
    let q : Req := { rq (.write [1]) .none with fn := 4 }
    let t := r.modPdie 0 fun p => { p with walks := [{ walk0 0x10008 with fn := 4 }] }
    let u := r.modPdie 0 fun p => { p with pend := [q] }
    let fab : Sent := { out { q with loc := .fabric 2047 0 0 } with lastAt := 0 }
    let w := r.modPdie 0 fun p => { p with sent := [fab] }
    let k := { State.reset with fns := [(4, { trees := [(0, { tree0 with members := [⟨0, 0, 0, 0⟩, ⟨1, 9 * 128, 0, 1⟩] })] })] }
    ((t.fn 4).resetting = true ∧ (∃ x ∈ (t.pdie 0).walks, x.fn = 4)) ∧ ((drainFn 4 r).isSome = true ∧ (drainFn 4 u).isSome = true ∧ toDrop 4 u ≠ []) ∧
    ((∃ x ∈ (w.pdie 0).sent, x.req.fn = 4 ∧ x.req.loc.other.isSome ∧ x.sends > 0 ∧ w.cycleG ≤ x.lastAt + 8192) ∧
      (drainFn 4 { w with cycleG := 8193 }).isSome = true) ∧ (∀ x ∈ r.cores, ∀ y ∈ x.2.chunks, y.fn ≠ 4 ∨ y.clk = []) ∧
    (∃ e ∈ (k.fn 4).trees, e.2.takesOrder k.cycleG = true) := by
  refine ⟨⟨by decide +kernel, ⟨_, List.mem_singleton.mpr rfl, by decide +kernel⟩⟩, by decide +kernel,
    ⟨⟨_, List.mem_singleton.mpr rfl, by decide +kernel⟩, by decide +kernel⟩, by decide +kernel, ⟨_, List.mem_singleton.mpr rfl, by decide +kernel⟩⟩

theorem wit_stopped_module :
    let s : State := { State.reset with hub := { State.reset.hub with stopped := true } }
    s.hub.stopped = true ∧ s.agenda = [] ∧ sideBand (.event (.reset 0)) = false ∧ sideBand (.event .gettel) = true ∧ State.reset.hub.stopped = false ∧
    (({ State.reset.hub with activating := some 3 } : Hub).activating.isSome = true) := by decide +kernel

theorem wit_step_holds :
    let s := (State.reset.modPdie 0 fun p => { p with cycle := 1 }).withFetchWord 32 0x30600002
    let u : State := { s with agenda := [], cur := 0 }
    let held : Ctx := { mode := .run, task := some tk, port := [(0, .macc 0 1 .f8e4 0)] }
    let off := u.setCtx 1 held
    let away : State := { linksDown u with remap := [(0, 1), (1, 0)] }
    s.hub.stopped = false ∧ (portBusy u = false ∧ (u.core 0).portAt ≤ 1 ∧ frozenAt 0 1 u = false) ∧
    (coreFrozen 0 off = true ∧ frozenAt 0 1 off = true ∧ portBusy off = true) ∧
    (look away.me.lbuf away.me.pc.toNat = none ∧ away.fetchLinked 0 tk.fn away.me.pc = false ∧ u.fetchLinked 0 tk.fn u.me.pc = true) ∧
    (heldBack (.engineJobComplete 0 1) u = true ∧ engineWaits 0 u = true ∧ heldBack (.yieldWindowEnd 0) u = false) ∧
    ((turnOf u 0).map (·.1) = some 0 ∧ 0 < 64) := by decide +kernel

theorem wit_encoded : isEvent (.movi 6 2) = false ∧ isSett (.movi 6 2) = false ∧ isSett (.settLdi 2 1) = true ∧ isEvent (.reset 0) = true := by decide

/-- Operands of every kind for FloatsRoundOnce: finite ones, zeros, infinities and both NaNs, in f32 and in E4M3, and the formats and
entries that its clauses name. -/
theorem wit_FloatsRoundOnce :
    (0x3F800000 < 2 ^ FFmt.f32.bits ∧ 0x7FC00000 < 2 ^ FFmt.f32.bits ∧ 0xFF < 2 ^ FFmt.f8e4.bits) ∧
    (isFinite .f32 0x3F800000 = true ∧ isFinite .f32 1 = true ∧ isFinite .f8e4 0x7E = true) ∧
    (isInfinite .f32 0x7F800000 = true ∧ isInfinite .f32 0xFF800000 = true ∧ negative .f32 0xFF800000 ≠ negative .f32 0x7F800000) ∧
    (isNaN .f32 0x7FC00000 = true ∧ signals .f32 0x7F800001 = true ∧ signals .f32 0x7FC00000 = false ∧ isNaN .f8e4 0xFF = true) ∧
    (numberOf .f32 false 0 = 0 ∧ numberOf .f32 true 1 = 0 ∧ numberOf .f32 false 1 ≠ 0) ∧
    (etyFmt .f32 = some .f32 ∧ etyFmt .f8e4 = some .f8e4 ∧ etyFmt .i32 = none ∧ ETy.i32 ≠ .t5 ∧ 5 < 2 ^ ETy.i32.bits) ∧
    (fAcc 0x2011 = 0 ∧ fAcc 0x2111 ≠ 0 ∧ fSat 0x2111 = false ∧ fSat 0x12111 = true ∧ ETy.i32.isSint = true ∧ (etyFmt .f32).isSome) ∧
    (let x := 0x7F800000
     isFinite .f32 (x % 2 ^ 32) = false ∧ isFinite .f32 (x / 2 ^ 32) = true ∧ isFinite .f32 (2 ^ 32 * x % 2 ^ 32) = true ∧
     isFinite .f32 (2 ^ 32 * x / 2 ^ 32) = false) := by
  refine ⟨by decide, by decide, by decide, by decide, ⟨?_, ?_, ?_⟩, by decide, by decide, by decide⟩ <;> decide +kernel

end Sys2Proof.Tests
end

section
/-!
PROOFS. The scalar forms of 06 R95 and R97: what a form with scalar sources does once its result is known, the results of
division and of the bit-field forms, and the two obligations.
-/
namespace Sys2Proof.Proofs
open Sys2Proof Sys2Proof.Machine Sys2Proof.Safety Sys2Proof.Laws

/-! ### A form whose meaning is one write of an s register -/

/-- A form that answers with one write of s d completes, sets s d and changes nothing else. -/
theorem completes_of_exec_wS {i : Instr} {s : State} {d : BitVec 6} {x : Word} (h : exec i s = .next (wS s d x)) :
    completes i s (setsS s d x) :=
  ⟨_, h, setsS_wS s d x⟩

/-- A form that `exec` gives by `alu2 f` meets every relation that `f` meets on all operand values. -/
theorem scalar2_of_alu2 {i : BitVec 6 → BitVec 6 → BitVec 6 → Instr} {f : Word → Word → Word} {R : Word → Word → Word → Prop}
    (hexec : ∀ s d a b, exec (i d a b) s = alu2 f d a b s) (hf : ∀ x y, R x y (f x y)) : scalar2 i R :=
  fun s d a b => ⟨_, hf _ _, completes_of_exec_wS (hexec s d a b)⟩

theorem exec_div (s : State) (d a b : BitVec 6) : exec (.div d a b) s = alu2 divSigned d a b s := rfl
theorem exec_rem (s : State) (d a b : BitVec 6) : exec (.rem d a b) s = alu2 remSigned d a b s := rfl
theorem exec_divn (s : State) (d a b : BitVec 6) : exec (.divn d a b) s = alu2 divNat d a b s := rfl
theorem exec_remn (s : State) (d a b : BitVec 6) : exec (.remn d a b) s = alu2 remNat d a b s := rfl
theorem exec_sext (s : State) (d a b : BitVec 6) : exec (.sext d a b) s = alu2 sextW d a b s := rfl
theorem exec_zext (s : State) (d a b : BitVec 6) : exec (.zext d a b) s = alu2 zextW d a b s := rfl
theorem exec_bext (s : State) (d a b : BitVec 6) : exec (.bext d a b) s = alu2 bextW d a b s := rfl
theorem exec_bins (s : State) (d a b : BitVec 6) :
    exec (.bins d a b) s = .next (wS s d (binsW (rS s d) (rS s a) (rS s b))) := rfl

/-! ### Division (06 R95) -/

/-- The quotient is rounded toward zero and then wraps: for −2^63 / −1, 2^63 wraps to −2^63. -/
theorem sdiv_eq_ofInt_tdiv {w : Nat} (x y : BitVec w) : x.sdiv y = BitVec.ofInt w (x.toInt.tdiv y.toInt) :=
  BitVec.eq_of_toInt_eq (by rw [BitVec.toInt_sdiv, BitVec.toInt_ofInt])

theorem srem_eq_ofInt_tmod {w : Nat} (x y : BitVec w) : x.srem y = BitVec.ofInt w (x.toInt.tmod y.toInt) := by
  rw [← BitVec.toInt_srem, BitVec.ofInt_toInt]

/-- Dividend, quotient and remainder agree modulo 2^w, the wrapped quotient included. -/
theorem mul_sdiv_add_srem {w : Nat} (x y : BitVec w) : y * x.sdiv y + x.srem y = x :=
  calc y * x.sdiv y + x.srem y
      = BitVec.ofInt w y.toInt * BitVec.ofInt w (x.toInt.tdiv y.toInt) + BitVec.ofInt w (x.toInt.tmod y.toInt) := by
        rw [sdiv_eq_ofInt_tdiv, srem_eq_ofInt_tmod, BitVec.ofInt_toInt]
    _ = BitVec.ofInt w (y.toInt * x.toInt.tdiv y.toInt + x.toInt.tmod y.toInt) := by
        rw [BitVec.ofInt_add, BitVec.ofInt_mul]
    _ = x := by rw [Int.mul_tdiv_add_tmod, BitVec.ofInt_toInt]

theorem divSigned_eq (x y : Word) :
    divSigned x y = if y = 0 then BitVec.allOnes 64 else BitVec.ofInt 64 (x.toInt.tdiv y.toInt) := by
  rw [divSigned, sdiv_eq_ofInt_tdiv]

theorem remSigned_eq (x y : Word) : remSigned x y = if y = 0 then x else BitVec.ofInt 64 (x.toInt.tmod y.toInt) := by
  rw [remSigned, srem_eq_ofInt_tmod]

theorem divNat_eq (x y : Word) : divNat x y = if y = 0 then BitVec.allOnes 64 else BitVec.ofNat 64 (x.toNat / y.toNat) := by
  rw [divNat, BitVec.udiv_def]

theorem remNat_eq (x y : Word) : remNat x y = if y = 0 then x else BitVec.ofNat 64 (x.toNat % y.toNat) := by
  rw [remNat, BitVec.umod_def]

theorem mul_divSigned_add_remSigned (x : Word) {y : Word} (hy : y ≠ 0) : y * divSigned x y + remSigned x y = x := by
  rw [divSigned, remSigned, if_neg hy, if_neg hy, mul_sdiv_add_srem]

/-- Settles O2: each form is one write of sd, whose value is the quotient or remainder of the numbers that the operands
stand for. -/
theorem divisionNeverTraps : Obligations.DivisionNeverTraps := by
  refine ⟨scalar2_of_alu2 exec_div divSigned_eq, scalar2_of_alu2 exec_rem remSigned_eq, scalar2_of_alu2 exec_divn divNat_eq,
    scalar2_of_alu2 exec_remn remNat_eq, fun s a b d e hb => ?_⟩
  exact ⟨_, _, completes_of_exec_wS (exec_div s d a b), completes_of_exec_wS (exec_rem s e a b),
    (mul_divSigned_add_remSigned _ hb).symm⟩

/-! ### Bit fields (06 R97) -/

/-- The signed reading of an element's bits is the number that the word of its width stands for. -/
theorem intVal_toNat {w : Nat} (hw : w ≠ 0) (y : BitVec w) : intVal true w y.toNat = y.toInt := by
  have half : 2 * 2 ^ (w - 1) = 2 ^ w := by rw [← Nat.pow_succ', Nat.succ_eq_add_one, Nat.sub_add_cancel (by omega)]
  have top : y.toNat ≥ 2 ^ (w - 1) ↔ ¬ 2 * y.toNat < 2 ^ w := by omega
  rw [intVal, BitVec.toInt_eq_toNat_cond]
  by_cases h : 2 * y.toNat < 2 ^ w
  · rw [if_neg (fun k => top.mp k.2 h), if_pos h]
  · rw [if_pos ⟨rfl, top.mpr h⟩, if_neg h]; norm_cast

theorem sextW_eq (x y : Word) :
    sextW x y = if bfW y = 0 then 0 else if bfW y ≥ 64 then x else (x.setWidth (bfW y)).signExtend 64 := by
  by_cases h : bfW y = 0
  · simp only [sextW, if_pos h]
  · simp only [sextW, if_neg h, ← BitVec.toNat_setWidth, intVal_toNat h, BitVec.signExtend]

theorem zextW_eq (x y : Word) :
    zextW x y = if bfW y = 0 then 0 else if bfW y ≥ 64 then x else (x.setWidth (bfW y)).setWidth 64 := by
  simp only [zextW, ← BitVec.toNat_setWidth, BitVec.ofNat_toNat]

/-- Cutting the width so that a field ends by bit 63 drops no position below bit 64. -/
theorem lt_cutEnd_iff {i : Nat} (hi : i < 64) (w o : Nat) : i < o + Nat.min w (64 - o) ↔ i < o + w := by
  change i < o + min w (64 - o) ↔ i < o + w
  omega

/-- Bits of BEXT's result: the field's own, with zeros above it; bits past bit 63 read zero. -/
theorem bextW_getLsbD (x y : Word) (i : Nat) (hi : i < 64) :
    (bextW x y).getLsbD i = (decide (i < bfW y) && x.getLsbD (bfO y + i)) := by
  by_cases empty : bfW y = 0 ∨ bfO y ≥ 64
  · simp only [bextW, if_pos empty, BitVec.ofNat_eq_ofNat, BitVec.getLsbD_zero]
    obtain hw | ho := empty
    · simp [hw]
    · simp [BitVec.getLsbD_of_ge x (bfO y + i) (by omega)]
  · simp only [bextW, if_neg empty, BitVec.getLsbD_ofNat, hi, decide_true, Bool.true_and, Nat.testBit_mod_two_pow,
      Nat.testBit_div_two_pow, BitVec.testBit_toNat, Nat.add_comm i]
    by_cases inside : bfO y + i < 64
    · have cut : i < Nat.min (bfW y) (64 - bfO y) ↔ i < bfW y := by
        simpa only [Nat.add_lt_add_iff_left] using lt_cutEnd_iff inside (bfW y) (bfO y)
      simp only [cut]
    · simp [BitVec.getLsbD_of_ge x (bfO y + i) (by omega)]

/-- The mask of `n` ones from bit `o` on. -/
theorem fieldMask_getLsbD (n o i : Nat) (hi : i < 64) :
    (BitVec.ofNat 64 ((2 ^ n - 1) * 2 ^ o)).getLsbD i = decide (o ≤ i ∧ i < o + n) := by
  rw [BitVec.getLsbD_ofNat, Nat.testBit_mul_two_pow, Nat.testBit_two_pow_sub_one, decide_eq_true hi, Bool.true_and,
    Bool.decide_and]
  by_cases h : o ≤ i
  · simp only [h, Nat.sub_lt_iff_lt_add h, Nat.add_comm]
  · simp [h]

/-- Bits of BINS's result: inside the field those of `x`, outside it those of the old sd; bits past bit 63 are discarded. -/
theorem binsW_getLsbD (old x y : Word) (i : Nat) (hi : i < 64) :
    (binsW old x y).getLsbD i =
      if bfO y ≤ i ∧ i < bfO y + bfW y then x.getLsbD (i - bfO y) else old.getLsbD i := by
  by_cases empty : bfW y = 0 ∨ bfO y ≥ 64
  · rw [binsW, if_pos empty, if_neg (by omega)]
  · simp only [binsW, if_neg empty, BitVec.getLsbD_or, BitVec.getLsbD_and, BitVec.getLsbD_not, BitVec.getLsbD_shiftLeft,
      fieldMask_getLsbD _ _ _ hi, lt_cutEnd_iff hi]
    by_cases inside : bfO y ≤ i ∧ i < bfO y + bfW y
    · simp [inside, hi]
    · simp [inside, hi]

/-- Settles O3: SEXT, ZEXT and BEXT are forms of two sources, and BINS writes over the sd it reads; each result is known
bit by bit. -/
theorem bitFields : Obligations.BitFields :=
  ⟨scalar2_of_alu2 exec_sext sextW_eq, scalar2_of_alu2 exec_zext zextW_eq, scalar2_of_alu2 exec_bext bextW_getLsbD,
    fun s d a b => ⟨_, completes_of_exec_wS (exec_bins s d a b), binsW_getLsbD (rS s d) (rS s a) (rS s b)⟩⟩

end Sys2Proof.Proofs
end
